-- ==== Sys2Proof/Word.lean ====
section
/-! DEFINITION. The plain word types of the part and the fixed-length banks of like records it keeps. -/
namespace Sys2Proof

/-- One byte of a message (R173). -/
abbrev Byte := BitVec 8
/-- A hall time: a 32-bit count of ticks that wraps (R53). -/
abbrev Time := BitVec 32
/-- A drive word, 32 bits (R152). -/
abbrev Word := BitVec 32
/-- A lathe, its account, its lines and its rail station (chapter 1). -/
abbrev Lathe := Fin 12
/-- A lane of the bar rack (R66). -/
abbrev LaneNo := Fin 24
/-- An outfeed bin (R141). -/
abbrev BinNo := Fin 8
/-- A job slot of the service schedule (R88). -/
abbrev Slot := Fin 32
/-- A link port: LP0 to LP11 serve the lathes, LP12 the supervisor (chapter 9). -/
abbrev PortNo := Fin 13

/-- A bank of `n` like records, each under its number. -/
abbrev Bank (α : Type) (n : Nat) := Vector α n

namespace Bank
variable {α β : Type} {n : Nat}

/-- The record at number `i`. -/
def read (v : Bank α n) (i : Fin n) : α := v[i.val]
/-- The bank with the record at number `i` replaced. -/
def write (v : Bank α n) (i : Fin n) (x : α) : Bank α n := v.set i.val x
/-- The bank with the record at number `i` changed by `f`. -/
def update (v : Bank α n) (i : Fin n) (f : α → α) : Bank α n := v.write i (f (v.read i))
/-- The bank with every record changed by `f`. -/
def each (v : Bank α n) (f : α → β) : Bank β n := Vector.map f v
/-- The bank with every record changed by `f`, which also sees the record's number. -/
def eachAt (v : Bank α n) (f : Fin n → α → β) : Bank β n := Vector.ofFn fun i => f i (v.read i)
/-- A bank whose records are all `x`. -/
def fill (x : α) : Bank α n := Vector.replicate n x

end Bank
end Sys2Proof
end

