-- ==== Sys2Proof/Config.lean ====
section
/-! DEFINITION. What the part fixes, its limits, and the one source of free values. -/
namespace Sys2Proof.Config

/-- Bar list places of a lane (R66). -/
def lanePlaces : Nat := 12
/-- Places of the reject rack (R86). -/
def rejectPlaces : Nat := 20
/-- Records the event queue holds (R192). -/
def eventPlaces : Nat := 64
/-- Jobs the suspension stack holds (R105). -/
def stackPlaces : Nat := 2
/-- Short bars in a row at which a DELIVER job is cancelled (R113, R127). -/
def shortBarLimit : Nat := 3
/-- The largest tray count (R41). -/
def trayMax : Nat := 1023
/-- The largest parts made count of a bar (R30). -/
def partsMadeMax : Nat := 1023
/-- The largest cycle estimate and cycle sample, in ticks (R36, R37). -/
def cycleMax : Nat := 16777215
/-- The age limit of a held time, and the longest prediction (R39, R43, R44). -/
def horizon : Nat := 1073741824
/-- The largest debounce age (R56). -/
def debounceMax : Nat := 255
/-- The largest error count of a port (R181). -/
def errorMax : Nat := 255
/-- The largest guard expiries count (R117). -/
def expiriesMax : Nat := 65535
/-- The top value of the prescaler's binary stage (R51). -/
def binaryTop : Nat := 16383
/-- The largest bar id (R67, R68). -/
def barIdMax : Nat := 65535
/-- The largest job id (R89). -/
def jobIdMax : Nat := 255
/-- Device number that IDENT reports (R190). -/
def deviceNumber : Nat := 3112
/-- Revision that IDENT reports (R190). -/
def revision : Nat := 1

/-- Free values. The spec names no record and no id for a PICK at a cradle that the lathe emptied while the order
was outstanding (R135); each such value is one of these, at the count State keeps (log 30). -/
opaque freeValue : Nat → Nat

end Sys2Proof.Config
end

