-- ==== Sys2Proof/Syntax.lean ====
section
/-! DEFINITION. The commands of the part: one constructor per row of spec/opcode_table.json, with the operands
the spec's rules name. -/
namespace Sys2Proof

/-- The direction of a change of a CUT input (R55). -/
inductive Edge where
  | rising | falling
  deriving DecidableEq, Repr

/-- The two errors of a received character (R171). -/
inductive CharError where
  /-- the stop bit decided low -/
  | framing
  /-- the parity bit was wrong and the stop bit high -/
  | parity
  deriving DecidableEq, Repr

/-- The samples that decide a bit: bit 0 is sample 7, bit 1 sample 8, bit 2 sample 9; a set bit is a high sample. The
other thirteen of the sixteen decide nothing (R170). -/
abbrev Samples := BitVec 3

/-- A candidate character as its line shows it (R169, R170): the samples of each bit, the data bits from the least
significant on. `parity` is looked at only while the port has parity on. `fromHigh` says that the line was seen high
between the character before and the falling edge that starts this one. -/
structure RxChar where
  fromHigh : Bool
  start    : Samples
  data     : Bank Samples 8
  mark     : Samples
  parity   : Samples
  stop     : Samples
  deriving DecidableEq, Repr

/-- The fields of a SETUP message as received, before any check (R184, 21h). `remaining` is present exactly when
the message is the long one of LEN 21. -/
structure SetupMsg where
  options   : Byte
  material  : Byte
  diameter  : Byte
  part      : BitVec 16
  kerf      : Byte
  face      : Byte
  remnant   : BitVec 16
  capacity  : BitVec 16
  threshold : BitVec 16
  bin       : Byte
  nominal   : BitVec 16
  remaining : Option (BitVec 16)
  deriving DecidableEq, Repr

/-- A request as its message spells it (R184), the payload's fields unchecked. -/
inductive Request where
  | setup (m : SetupMsg)
  | ready
  | loaded
  | stop
  | resume
  | status
  | paramSet (number : Byte) (value : BitVec 32)
  | paramGet (number : Byte)
  | tickSet (ms : Byte)
  | linkSet (port rate parity : Byte)
  | linkRead (port : Byte)
  | laneAssign (lane material diameter : Byte)
  | laneOpen (lane : Byte)
  | laneClose (lane : Byte)
  | laneRead (lane position : Byte)
  | stock (lane : Byte) (length lot : BitVec 16)
  | unstock (lane : Byte)
  | rejectEmptied
  | binSet (bin : Byte) (capacity : BitVec 16)
  | binClose (bin : Byte)
  | binEmptied (bin : Byte)
  | latheRead (lathe : Byte)
  | latheHold (lathe : Byte)
  | latheRelease (lathe : Byte)
  | jobRead (slot : Byte)
  | jobCancel (job : Byte)
  | shuttleRun
  | shuttleHalt
  | shuttleClear
  | events
  | peek
  | restart
  | ident
  deriving DecidableEq, Repr

/-- The commands, one constructor per row of spec/opcode_table.json. -/
inductive Instr where
  /-- Power-up or assertion of RESET_N (R5). -/
  | powerOnReset
  /-- A tick from the prescaler (R53) with the levels the GUARD and HSENSE inputs show at it (bit n for lathe n)
  and the levels of SHIN at the 64 clocks of the tick's poll, bit 63 at the first, looked at only while an order is
  outstanding (R152, R156). -/
  | hallTick (guards hsense : BitVec 12) (shin : BitVec 64)
  /-- The third unanswered poll in a row is acted on (R154). -/
  | noAnswerFault
  /-- A delivery compare that the hall time has reached fires (R59). -/
  | deliveryCompareFire (n : Lathe)
  /-- A load timer's expiry reaches its account (R16). -/
  | loadTimerExpiry (n : Lathe)
  /-- The guard-wait timer's expiry reaches the job sequencer (R124). -/
  | guardWaitExpiry
  /-- The step timer's expiry reaches the shuttle port (R160). -/
  | stepTimerExpiry
  /-- A change of CUTn (R55, R56). -/
  | cutEdge (n : Lathe) (edge : Edge)
  /-- The last data character of a message arrives (R175). -/
  | messageComplete (p : PortNo) (c : RxChar)
  /-- A head character arrives while a message is in reception (R174). -/
  | messageTruncated (p : PortNo) (c : RxChar)
  /-- A character with this error arrives (R171). -/
  | characterError (p : PortNo) (e : CharError) (c : RxChar)
  /-- The line has been high for 24 bit times since the last stop bit (R174). -/
  | lineIdleLimit (p : PortNo)
  /-- The line has been low for 24 bit times (R172). -/
  | linkBreak (p : PortNo)
  /-- A broken line is seen high (R172). -/
  | breakEnd (p : PortNo)
  /-- The request decoder takes the next eligible message (R177, R178); `hsense` are the levels the HSENSE inputs
  show at that moment, read by LATHE READ (R188). -/
  | requestTake (hsense : BitVec 12)
  /-- The head of a reply queue starts sending (R179). -/
  | transmitStart (p : PortNo)
  /-- The last stop bit of a message has been sent (R179). -/
  | transmitDone (p : PortNo)
  /-- A restart break starts (R183). -/
  | restartBreakSend (p : PortNo)
  /-- A lathe's SETUP (R7 to R11). -/
  | setup (n : Lathe) (m : SetupMsg)
  /-- A lathe's READY (R13). -/
  | ready (n : Lathe)
  /-- A lathe's LOADED (R14, R15). -/
  | loaded (n : Lathe)
  /-- A lathe's STOP (R17). -/
  | stop (n : Lathe)
  /-- A lathe's RESUME (R18). -/
  | resume (n : Lathe)
  /-- A lathe's STATUS (R19). -/
  | status (n : Lathe)
  | paramSet (number : Byte) (value : BitVec 32)
  | paramGet (number : Byte)
  | tickSet (ms : Byte)
  | linkSet (port rate parity : Byte)
  | linkRead (port : Byte)
  | laneAssign (lane material diameter : Byte)
  | laneOpen (lane : Byte)
  | laneClose (lane : Byte)
  | laneRead (lane position : Byte)
  | stock (lane : Byte) (length lot : BitVec 16)
  | unstock (lane : Byte)
  | rejectEmptied
  | binSet (bin : Byte) (capacity : BitVec 16)
  | binClose (bin : Byte)
  | binEmptied (bin : Byte)
  /-- LATHE READ (R188); `hsense` are the levels of the HSENSE inputs at the reply. -/
  | latheRead (lathe : Byte) (hsense : BitVec 12)
  | latheHold (lathe : Byte)
  | latheRelease (lathe : Byte)
  | jobRead (slot : Byte)
  | jobCancel (job : Byte)
  | shuttleRun
  | shuttleHalt
  | shuttleClear
  | events
  | peek
  | restart
  | ident
  /-- The poll's status word completes the outstanding order (R157). -/
  | orderComplete
  /-- The poll's status word READY ends the outstanding CLEAR (R166). -/
  | clearComplete
  /-- A head character arrives with no message in reception (R174). -/
  | messageBegun (p : PortNo) (c : RxChar)
  /-- A data character arrives (R175). -/
  | dataCharacter (p : PortNo) (c : RxChar)
  /-- The restart break, 24 bit times low and 2 high, has been sent (R183). -/
  | restartBreakEnd (p : PortNo)
  deriving DecidableEq, Repr

end Sys2Proof
end

