-- ==== Sys2Proof/WellFormed.lean ====
section
/-! DEFINITION. Well-formed commands: what the operand types alone do not say. -/
namespace Sys2Proof

/-- The supervisor's port, LP12. -/
def supervisorPort : PortNo := 12

/-- A lathe's port: LPn for lathe n. -/
def lathePort (n : Lathe) : PortNo := ⟨n.val, by omega⟩

/-- A command is well formed when it names a thing that can happen on the wire it names: only LP0 to LP11 send a
restart break, LP12 sends none (R183). Every other command's operands are bounded by their types, and a message's
fields are checked by the part itself (R178). -/
def Instr.wellFormed : Instr → Bool
  | .restartBreakSend p => p != supervisorPort
  | .restartBreakEnd p => p != supervisorPort
  | _ => true

end Sys2Proof
end

