-- ==== Sys2Proof/Decode.lean ====
section
/-! DEFINITION. Reading commands: the table's words (it gives none) and the request messages of the links (R173,
R184), with the writing of a request's message beside its reading. -/
namespace Sys2Proof

/-- The command that a word spells by the table's bits. No row of spec/opcode_table.json gives bits, so no word
spells a command (log 26). -/
def decodeTableWord (_nbits _w : Nat) : Option Instr := none

/-! ### Bytes, most significant first (R173) -/

/-- The two bytes of a 16-bit field. -/
def bytes16 (v : BitVec 16) : List Byte := [v.extractLsb' 8 8, v.extractLsb' 0 8]
/-- The four bytes of a 32-bit field. -/
def bytes32 (v : BitVec 32) : List Byte :=
  [v.extractLsb' 24 8, v.extractLsb' 16 8, v.extractLsb' 8 8, v.extractLsb' 0 8]
/-- The field that two bytes spell. -/
def join16 (hi lo : Byte) : BitVec 16 := hi ++ lo
/-- The field that four bytes spell. -/
def join32 (a b c d : Byte) : BitVec 32 := (a ++ b) ++ (c ++ d)

/-- The sum of a message's bytes modulo 256 (R173). -/
def byteSum (bs : List Byte) : Byte := bs.foldl (· + ·) 0

/-- The bytes of a message of this kind and payload: KIND, LEN, payload, CHECK (R173). -/
def frameBytes (kind : Byte) (payload : List Byte) : List Byte :=
  let body := kind :: BitVec.ofNat 8 (payload.length + 3) :: payload
  body ++ [0 - byteSum body]

/-! ### Request kinds -/

/-- A KIND known for the port: 21h to 26h on a lathe port, 60h to 7Ah on LP12 (R174). -/
def knownKind (p : PortNo) (kind : Byte) : Bool :=
  if p = supervisorPort then 0x60 ≤ kind.toNat && kind.toNat ≤ 0x7A else 0x21 ≤ kind.toNat && kind.toNat ≤ 0x26

/-- The KIND code of a request (R184). -/
def Request.kind : Request → Byte
  | .setup _ => 0x21
  | .ready => 0x22
  | .loaded => 0x23
  | .stop => 0x24
  | .resume => 0x25
  | .status => 0x26
  | .paramSet _ _ => 0x60
  | .paramGet _ => 0x61
  | .tickSet _ => 0x62
  | .linkSet _ _ _ => 0x63
  | .linkRead _ => 0x64
  | .laneAssign _ _ _ => 0x65
  | .laneOpen _ => 0x66
  | .laneClose _ => 0x67
  | .laneRead _ _ => 0x68
  | .stock _ _ _ => 0x69
  | .unstock _ => 0x6A
  | .rejectEmptied => 0x6B
  | .binSet _ _ => 0x6C
  | .binClose _ => 0x6D
  | .binEmptied _ => 0x6E
  | .latheRead _ => 0x6F
  | .latheHold _ => 0x70
  | .latheRelease _ => 0x71
  | .jobRead _ => 0x72
  | .jobCancel _ => 0x73
  | .shuttleRun => 0x74
  | .shuttleHalt => 0x75
  | .shuttleClear => 0x76
  | .events => 0x77
  | .peek => 0x78
  | .restart => 0x79
  | .ident => 0x7A

/-- A request that only a lathe sends (R184). -/
def Request.fromLathe : Request → Bool
  | .setup _ | .ready | .loaded | .stop | .resume | .status => true
  | _ => false

/-! ### Payloads (R184) -/

/-- The payload bytes of a SETUP. -/
def SetupMsg.payload (m : SetupMsg) : List Byte :=
  [m.options, m.material, m.diameter] ++ bytes16 m.part ++ [m.kerf, m.face] ++ bytes16 m.remnant
    ++ bytes16 m.capacity ++ bytes16 m.threshold ++ [m.bin] ++ bytes16 m.nominal
    ++ (match m.remaining with | none => [] | some r => bytes16 r)

/-- The payload bytes of a request. -/
def Request.payload : Request → List Byte
  | .setup m => m.payload
  | .ready | .loaded | .stop | .resume | .status => []
  | .paramSet n v => n :: bytes32 v
  | .paramGet n => [n]
  | .tickSet v => [v]
  | .linkSet p r y => [p, r, y]
  | .linkRead p => [p]
  | .laneAssign k m d => [k, m, d]
  | .laneOpen k => [k]
  | .laneClose k => [k]
  | .laneRead k i => [k, i]
  | .stock k l t => k :: (bytes16 l ++ bytes16 t)
  | .unstock k => [k]
  | .rejectEmptied => []
  | .binSet b c => b :: bytes16 c
  | .binClose b => [b]
  | .binEmptied b => [b]
  | .latheRead n => [n]
  | .latheHold n => [n]
  | .latheRelease n => [n]
  | .jobRead i => [i]
  | .jobCancel j => [j]
  | .shuttleRun | .shuttleHalt | .shuttleClear | .events | .peek | .restart | .ident => []

/-- The whole message of a request as its master sends it (R173). -/
def Request.bytes (r : Request) : List Byte := frameBytes r.kind r.payload

/-- A SETUP's payload read back: 16 bytes, or 18 with the remaining length (R184); any other length is none. -/
def parseSetup : List Byte → Option SetupMsg
  | o :: m :: d :: p1 :: p0 :: k :: f :: r1 :: r0 :: c1 :: c0 :: t1 :: t0 :: b :: n1 :: n0 :: rest =>
    let base : SetupMsg :=
      { options := o, material := m, diameter := d, part := join16 p1 p0, kerf := k, face := f,
        remnant := join16 r1 r0, capacity := join16 c1 c0, threshold := join16 t1 t0, bin := b,
        nominal := join16 n1 n0, remaining := none }
    match rest with
    | [] => some base
    | [x1, x0] => some { base with remaining := some (join16 x1 x0) }
    | _ => none
  | _ => none

/-- A payload of no bytes. -/
def parse0 (p : List Byte) (r : Request) : Option Request :=
  match p with
  | [] => some r
  | _ => none
/-- A payload of one byte. -/
def parse1 (p : List Byte) (f : Byte → Request) : Option Request :=
  match p with
  | [a] => some (f a)
  | _ => none
/-- A payload of two bytes. -/
def parse2 (p : List Byte) (f : Byte → Byte → Request) : Option Request :=
  match p with
  | [a, b] => some (f a b)
  | _ => none
/-- A payload of three bytes. -/
def parse3 (p : List Byte) (f : Byte → Byte → Byte → Request) : Option Request :=
  match p with
  | [a, b, c] => some (f a b c)
  | _ => none
/-- A payload of five bytes. -/
def parse5 (p : List Byte) (f : Byte → Byte → Byte → Byte → Byte → Request) : Option Request :=
  match p with
  | [a, b, c, d, e] => some (f a b c d e)
  | _ => none

/-- The request that a kind and payload spell; none where the payload's length does not suit the kind, which is a
LEN that does not match (R178), or where the kind is no request. -/
def parsePayload (kind : Byte) (p : List Byte) : Option Request :=
  match kind.toNat with
  | 0x21 => (parseSetup p).map .setup
  | 0x22 => parse0 p .ready
  | 0x23 => parse0 p .loaded
  | 0x24 => parse0 p .stop
  | 0x25 => parse0 p .resume
  | 0x26 => parse0 p .status
  | 0x60 => parse5 p fun n a b c d => .paramSet n (join32 a b c d)
  | 0x61 => parse1 p .paramGet
  | 0x62 => parse1 p .tickSet
  | 0x63 => parse3 p .linkSet
  | 0x64 => parse1 p .linkRead
  | 0x65 => parse3 p .laneAssign
  | 0x66 => parse1 p .laneOpen
  | 0x67 => parse1 p .laneClose
  | 0x68 => parse2 p .laneRead
  | 0x69 => parse5 p fun k a b c d => .stock k (join16 a b) (join16 c d)
  | 0x6A => parse1 p .unstock
  | 0x6B => parse0 p .rejectEmptied
  | 0x6C => parse3 p fun b x y => .binSet b (join16 x y)
  | 0x6D => parse1 p .binClose
  | 0x6E => parse1 p .binEmptied
  | 0x6F => parse1 p .latheRead
  | 0x70 => parse1 p .latheHold
  | 0x71 => parse1 p .latheRelease
  | 0x72 => parse1 p .jobRead
  | 0x73 => parse1 p .jobCancel
  | 0x74 => parse0 p .shuttleRun
  | 0x75 => parse0 p .shuttleHalt
  | 0x76 => parse0 p .shuttleClear
  | 0x77 => parse0 p .events
  | 0x78 => parse0 p .peek
  | 0x79 => parse0 p .restart
  | 0x7A => parse0 p .ident
  | _ => none

/-- The request that a completed message's bytes spell (R178, first step). -/
def parseRequest : List Byte → Option Request
  | kind :: _ :: rest => parsePayload kind rest.dropLast
  | _ => none

end Sys2Proof
end

