-- ==== Sys2Proof/Machine/State.lean ====
section
/-! DEFINITION. The state of the part: every record the spec gives it, as plain data, and its power-on values. -/
namespace Sys2Proof.Machine

open Sys2Proof

/-- The part stops for nothing: no rule of the spec describes a state from which it does not go on, so no
meaning faults and this type has no constructor (safe: it can hide no behaviour). -/
inductive Fault : Type where
  deriving DecidableEq, Repr

/-- Reasons for which a command is turned away. -/
inductive Refusal : Type where
  /-- Raised by an arm of exec whose command has no meaning yet; no arm of this model raises it (safe). -/
  | notModelled (mnemonic : String)
  deriving DecidableEq, Repr

/-! ### Bars and rack (chapter 4) -/

/-- A bar record (R67). Lengths are in units of 0.1 mm. -/
structure BarRecord where
  id       : Nat
  length   : Nat
  lot      : BitVec 16
  home     : LaneNo
  material : Nat
  diameter : Nat
  returned : Bool
  deriving DecidableEq, Repr

/-- A lane record (R66): `bars` is front first, `reserved` is the return reservation. -/
structure LaneRecord where
  material : Nat
  diameter : Nat
  isOpen   : Bool
  bars     : List BarRecord
  claimed  : Nat
  reserved : Nat
  deriving DecidableEq, Repr

/-- The rack table: the lanes, the reject rack count (R86) and the last bar id issued (R68). -/
structure Rack where
  lanes     : Bank LaneRecord 24
  reject    : Nat
  lastBarId : Nat
  deriving DecidableEq, Repr

/-! ### Timers (R64) -/

/-- A down-counting timer: stopped, running with a remaining count, or expired, which is stopped with its one
expiry handed to the owner and not yet taken by the row of that expiry (log 6). -/
inductive Timer where
  | stopped
  | running (remaining : Nat)
  | expired
  deriving DecidableEq, Repr

/-! ### Lathe accounts (chapter 1) -/

/-- The account state (R1). -/
inductive AcctState where
  | noProg | idle | await | loading | running | stopped | lost
  deriving DecidableEq, Repr

/-- The state RESUME returns to (R1). -/
inductive ResumeState where
  | idle | await | running
  deriving DecidableEq, Repr

/-- A program as held after the clamps of R8 (R2). -/
structure Program where
  material  : Nat
  diameter  : Nat
  part      : Nat
  kerf      : Nat
  face      : Nat
  remnant   : Nat
  capacity  : Nat
  threshold : Nat
  bin       : BinNo
  nominal   : Nat
  edge      : Edge
  deriving DecidableEq, Repr

/-- The bar in the spindle (R3). -/
structure CurrentBar where
  id        : Nat
  length    : Nat
  lot       : BitVec 16
  remaining : Nat
  made      : Nat
  overrun   : Bool
  deriving DecidableEq, Repr

/-- The bar on the cradle with its loading mark (R4). -/
structure CradleBar where
  bar     : BarRecord
  loading : Bool
  deriving DecidableEq, Repr

/-- A held hall time that R39 and R199 age: its value and the ticks passed since it was written, counted up to
2^30. -/
structure Stamp where
  time : Time
  age  : Nat
  deriving DecidableEq, Repr

/-- The hold reason set (R22), one flag per reason. -/
structure HoldSet where
  noProgram  : Bool
  noBar      : Bool
  loading    : Bool
  trayFull   : Bool
  loadFault  : Bool
  link       : Bool
  supervisor : Bool
  deriving DecidableEq, Repr

/-- A lathe account (R1). `holdSet` is the hold reason set as last evaluated by R23. -/
structure Account where
  state       : AcctState
  resume      : ResumeState
  program     : Option Program
  current     : Option CurrentBar
  cradle      : Option CradleBar
  tray        : Nat
  cycle       : Option Nat
  tLast       : Stamp
  sampleValid : Bool
  partsLeft   : Option Nat
  tOut        : Option Time
  tFull       : Option Time
  loadFault   : Bool
  supervisor  : Bool
  stockShort  : Bool
  loadTimer   : Timer
  awaitEntry  : Stamp
  holdSet     : HoldSet
  deriving DecidableEq, Repr

/-! ### Hall timer and lathe lines (chapter 3) -/

/-- The seven tick selections (R52). -/
inductive TickSel where
  | ms1 | ms2 | ms5 | ms10 | ms20 | ms50 | ms100
  deriving DecidableEq, Repr

/-- A delivery compare (R58). -/
structure Compare where
  armed : Bool
  value : Time
  spent : Bool
  deriving DecidableEq, Repr

/-- The hall timer: the prescaler's two counts (R51), the selection (R52), the hall time (R53), the capture
registers (R57), the compares (R58) and the two timers that belong to no account (R65). -/
structure HallTimer where
  binary    : Nat
  decimal   : Nat
  sel       : TickSel
  time      : Time
  capture   : Bank Time 12
  compare   : Bank Compare 12
  guardWait : Timer
  stepTimer : Timer
  deriving DecidableEq, Repr

/-- The lathe line unit's record of one lathe: debounce age (R56), GUARD held level and settle count (R60),
commanded HOLD level (R62) and the HOLD sense counts (R63). -/
structure Line where
  debounce    : Nat
  guardClosed : Bool
  settle      : Nat
  holdCmd     : Bool
  mismatch    : Nat
  agreement   : Nat
  reported    : Bool
  deriving DecidableEq, Repr

/-- The input pins of section 3.8 as last seen, bit n for lathe n; true is high. -/
structure Pins where
  cut    : BitVec 12
  guards : BitVec 12
  hsense : BitVec 12
  deriving DecidableEq, Repr

/-! ### Service schedule and job sequencer (chapters 5 and 6) -/

/-- The job kinds (R88). -/
inductive JobKind where
  | deliver | collect | ret
  deriving DecidableEq, Repr

/-- The job states (R90). -/
inductive JobState where
  | waiting | active | suspended
  deriving DecidableEq, Repr

/-- Why a WAITING job may not be dispatched (R88). -/
inductive BlockReason where
  | none | noStock | binFull | binClosed | guardParked
  deriving DecidableEq, Repr

/-- The step index, 1 to 4 (R88). -/
inductive StepIx where
  | one | two | three | four
  deriving DecidableEq, Repr

/-- A cancellation that waits for the order in flight (R112). -/
inductive CancelMark where
  | none | stop | setup
  deriving DecidableEq, Repr

/-- A job record (R88). `claim` says whether the job holds a claim on its lane (R77). -/
structure Job where
  id       : Nat
  kind     : JobKind
  lathe    : Lathe
  lane     : Option LaneNo
  claim    : Bool
  bin      : Option BinNo
  state    : JobState
  block    : BlockReason
  deadline : Time
  created  : Time
  step     : StepIx
  short    : Bool
  bar      : Option BarRecord
  parts    : Nat
  retries  : Nat
  cancel   : CancelMark
  deriving DecidableEq, Repr

/-- The service schedule: the job slots, the deferred list front first (R94), the suspension stack top first
(R105) and the last job id issued (R89). -/
structure Schedule where
  slots     : Bank (Option Job) 32
  deferred  : List (Lathe × JobKind)
  stack     : List Slot
  lastJobId : Nat
  deriving DecidableEq, Repr

/-- A rail station (Conventions). -/
inductive Station where
  | lane (k : LaneNo)
  | lathe (n : Lathe)
  | bin (b : BinNo)
  | reject
  | home
  deriving DecidableEq, Repr

/-- Order kinds of the command word (R152). -/
inductive OrderKind where
  | home | move | pick | place | empty | dump | stop | clear | poll
  deriving DecidableEq, Repr

/-- An order of a step: kind and target (R118). -/
structure Order where
  kind   : OrderKind
  target : Station
  deriving DecidableEq, Repr

/-- Where the present step stands (R117). -/
inductive Phase where
  | unissued | guardPending | rejectWait | dumpWait | outstanding
  deriving DecidableEq, Repr

/-- The step record (R117). `boundary` marks a job that stands HALTED at a step boundary, not at a frozen or
interrupted step (R104, R139). -/
structure StepRecord where
  job      : Option Slot
  phase    : Phase
  order    : Option Order
  tIssue   : Nat
  expiries : Nat
  boundary : Bool
  deriving DecidableEq, Repr

/-! ### Bins (chapter 7) -/

/-- A bin record (R141). -/
structure Bin where
  capacity : Nat
  count    : Nat
  isOpen   : Bool
  inFlight : Nat
  deriving DecidableEq, Repr

/-! ### Shuttle port (chapter 8) -/

/-- The shuttle state (R150). -/
inductive ShuttleState where
  | unhomed | homing | idle | stepping | waiting | halted | fault
  deriving DecidableEq, Repr

/-- The shuttle's position (R149). -/
inductive Position where
  | at (s : Station)
  | between
  | unknown
  deriving DecidableEq, Repr

/-- What the shuttle carries (R149). -/
inductive Load where
  | none | bar | parts
  deriving DecidableEq, Repr

/-- Why the outstanding order was issued (R149). -/
inductive Purpose where
  | step | home | clear
  deriving DecidableEq, Repr

/-- Speed classes (R153). -/
inductive Speed where
  | fast | medium | slow
  deriving DecidableEq, Repr

/-- The outstanding order (R149). A CLEAR carries the target of the order last issued, if any (R153). -/
structure OutOrder where
  kind    : OrderKind
  target  : Option Station
  speed   : Speed
  purpose : Purpose
  deriving DecidableEq, Repr

/-- Shuttle fault codes (R159). -/
inductive FaultCode where
  | drive | position | noAnswer | timeout | load | unknownLoad
  deriving DecidableEq, Repr

/-- The fault record (R149, R159). -/
structure FaultRecord where
  code       : FaultCode
  failed     : OutOrder
  driveCode  : Byte
  loadSensed : Load
  deriving DecidableEq, Repr

/-- The shuttle record (R149). `lastTarget` is the target of the order last issued (R153), `shout` the 64
bits last shifted out on SHOUT, bit 63 first (R152), and `heldWord` a poll's status word that waits for ORDER_COMPLETE or
CLEAR_COMPLETE to take it (log 5). -/
structure Shuttle where
  state       : ShuttleState
  position    : Position
  load        : Load
  outstanding : Option OutOrder
  lastStatus  : Option Word
  noAnswer    : Nat
  haltPending : Bool
  fault       : Option FaultRecord
  homeFailed  : Bool
  lastTarget  : Option Station
  shout       : Option (BitVec 64)
  heldWord    : Option Word
  deriving DecidableEq, Repr

/-! ### Link ports (chapter 9) -/

/-- Line rates (R169). -/
inductive Rate where
  | b9600 | b19200 | b38400 | b57600 | b115200
  deriving DecidableEq, Repr

/-- Rate and parity setting of a port (R169). -/
structure LinkSetting where
  rate   : Rate
  parity : Bool
  deriving DecidableEq, Repr

/-- The receive state, with the bytes of the message in reception, oldest first (R174, R182). -/
inductive Receive where
  | lineIdle
  | inMessage (bytes : List Byte)
  | discarding
  | broken
  deriving DecidableEq, Repr

/-- A message the part sends: its kind and its payload; LEN and CHECK follow (R173). -/
structure Msg where
  kind    : Byte
  payload : List Byte
  deriving DecidableEq, Repr

/-- The six error counts (R181). -/
structure ErrorCounts where
  noise     : Nat
  framing   : Nat
  parity    : Nat
  overrun   : Nat
  truncated : Nat
  bad       : Nat
  deriving DecidableEq, Repr

/-- A link port (chapter 9). `setting` is the setting held, `txSetting` the one the transmitter runs at, and
`newSetting` LP12's setting that waits for the end of its ACK (R180); `breaking` says a restart break is being
sent (R183). `seenHigh` says that the receiver has seen its line high since the last framing error or power-on reset,
so that the next falling edge is a candidate start bit (R170, R171). -/
structure Port where
  setting    : LinkSetting
  txSetting  : LinkSetting
  newSetting : Option LinkSetting
  rx         : Receive
  seenHigh   : Bool
  mailbox    : Option (List Byte)
  queue      : List Msg
  tx         : Option Msg
  breakMark  : Bool
  breaking   : Bool
  counts     : ErrorCounts
  deriving DecidableEq, Repr

/-! ### Supervisor link (chapter 10) -/

/-- The nine hall parameters (R185). -/
structure Params where
  lookahead       : Nat
  preemptMargin   : Nat
  loadLimit       : Nat
  guardWait       : Nat
  stepLimitMove   : Nat
  stepLimitHandle : Nat
  cutDebounce     : Nat
  attnLevel       : Nat
  guardReport     : BitVec 12
  deriving DecidableEq, Repr

/-- Event kinds 1 to 20 (R184, R191). -/
inductive EventKind where
  | latheState | noStock | shortBar | laneMissing | cradleMissing | barEnd | earlyBarEnd | barOverrun | strayCut
  | trayMismatch | loadTimeout | holdMismatch | guardChange | guardOverdue | binWait | rejectFull | driveFault
  | jobDone | linkBreak | restarted
  deriving DecidableEq, Repr

/-- An event record (R191); `job` is a job id. -/
structure EventRec where
  kind  : EventKind
  time  : Time
  lathe : Option Lathe
  lane  : Option LaneNo
  bin   : Option BinNo
  job   : Option Nat
  value : BitVec 32
  deriving DecidableEq, Repr

/-- The event queue, oldest first, its overflow flag and the ATTN output (R192, R195). -/
structure EventQueue where
  records  : List EventRec
  overflow : Bool
  attn     : Bool
  deriving DecidableEq, Repr

/-! ### The whole part -/

/-- The state of the part, with the commands that wait, first in, first out. `draws` counts the free values drawn so
far: it is the model's own field, not the part's (log 30). -/
structure State where
  pending     : List Instr
  params      : Params
  timer       : HallTimer
  lines       : Bank Line 12
  guardSeen   : Bool
  pins        : Pins
  accounts    : Bank Account 12
  rack        : Rack
  sched       : Schedule
  seq         : StepRecord
  bins        : Bank Bin 8
  shuttle     : Shuttle
  ports       : Bank Port 13
  pointer     : PortNo
  events      : EventQueue
  draws       : Nat
  deriving DecidableEq, Repr

/-! ### Power-on values -/

/-- The set of a lathe without a program and nothing else against it, NO_PROGRAM alone (R5). -/
def HoldSet.noProgramOnly : HoldSet := ⟨true, false, false, false, false, false, false⟩

/-- A lathe account after a power-on reset (R5). -/
def Account.powerOn : Account where
  state := .noProg
  resume := .idle
  program := none
  current := none
  cradle := none
  tray := 0
  cycle := none
  tLast := ⟨0, 0⟩
  sampleValid := false
  partsLeft := none
  tOut := none
  tFull := none
  loadFault := false
  supervisor := false
  stockShort := false
  loadTimer := .stopped
  awaitEntry := ⟨0, 0⟩
  holdSet := .noProgramOnly

/-- A lane after a power-on reset (R70). -/
def LaneRecord.powerOn : LaneRecord := ⟨0, 0, true, [], 0, 0⟩

/-- A compare that is disarmed with value 0 and spent clear (R58). -/
def Compare.off : Compare := ⟨false, 0, false⟩

/-- The hall timer after a power-on reset (R51 to R53, R57, R58, R65). -/
def HallTimer.powerOn : HallTimer where
  binary := 0
  decimal := 0
  sel := .ms10
  time := 0
  capture := .fill 0
  compare := .fill .off
  guardWait := .stopped
  stepTimer := .stopped

/-- A lathe's lines after a power-on reset: debounce age 255 (R56), guard open (R60), HOLD asserted (R62), sense
counts 0 (R63). -/
def Line.powerOn : Line := ⟨Config.debounceMax, false, 0, true, 0, 0, false⟩

/-- The schedule after a power-on reset (R91). -/
def Schedule.powerOn : Schedule := ⟨.fill none, [], [], 0⟩

/-- The step record with no job (R117). R117 gives the cleared record no value for its order: it holds none (the
model's choice, log 32). -/
def StepRecord.clear : StepRecord := ⟨none, .unissued, none, 0, 0, false⟩

/-- A bin after a power-on reset (R142). -/
def Bin.powerOn : Bin := ⟨2000, 0, true, 0⟩

/-- The shuttle record after a power-on reset (R151). -/
def Shuttle.powerOn : Shuttle where
  state := .unhomed
  position := .unknown
  load := .none
  outstanding := none
  lastStatus := none
  noAnswer := 0
  haltPending := false
  fault := none
  homeFailed := false
  lastTarget := none
  shout := none
  heldWord := none

/-- All six error counts at 0 (R181). -/
def ErrorCounts.zero : ErrorCounts := ⟨0, 0, 0, 0, 0, 0⟩

/-- 19200 baud with parity on (R169). -/
def LinkSetting.powerOn : LinkSetting := ⟨.b19200, true⟩

/-- A port after a power-on reset (R182). Its receiver has not seen the line high yet (the model's choice, log 31). -/
def Port.powerOn : Port where
  setting := .powerOn
  txSetting := .powerOn
  newSetting := none
  rx := .lineIdle
  seenHigh := false
  mailbox := none
  queue := []
  tx := none
  breakMark := false
  breaking := false
  counts := .zero

/-- The hall parameters after a power-on reset (R185). -/
def Params.powerOn : Params := ⟨60000, 6000, 12000, 3000, 6000, 2000, 20, 1, 4095⟩

/-- The part right after a power-on reset: every field at the value its rule gives (R5, R51 to R65, R70, R91, R117,
R142, R151, R182, R185, R196), no command waiting. The input pins read low until they are seen (DESIGN CHOICE,
log 15). -/
def State.reset : State where
  pending := []
  params := .powerOn
  timer := .powerOn
  lines := .fill .powerOn
  guardSeen := false
  pins := ⟨0, 0, 0⟩
  accounts := .fill .powerOn
  rack := ⟨.fill .powerOn, 0, 0⟩
  sched := .powerOn
  seq := .clear
  bins := .fill .powerOn
  shuttle := .powerOn
  ports := .fill .powerOn
  pointer := supervisorPort
  events := ⟨[], false, false⟩
  draws := 0

end Sys2Proof.Machine
end

