-- ==== Sys2Proof/Machine/Flags.lean ====
section
/-! DEFINITION. Comparisons and conditions: hall time order, ageing, the hold reason set, lane, bin and program
tests. -/
namespace Sys2Proof.Machine

open Sys2Proof

/-! ### Hall times (Comparing hall times; R53) -/

/-- A is at or before B when (B − A) modulo 2^32 is less than 2^31. -/
def atOrBefore (a b : Time) : Bool := decide ((b - a).toNat < 2147483648)
/-- A is before B when A is at or before B and differs from it. -/
def isBefore (a b : Time) : Bool := atOrBefore a b && a != b
/-- Lateness: (completion − deadline) modulo 2^32 when the deadline is at or before the completion, else 0 (R53). -/
def lateness (completion deadline : Time) : Time :=
  if atOrBefore deadline completion then completion - deadline else 0

/-- The hall time 2^30 ticks before the present one (R39). -/
def horizonBefore (now : Time) : Time := now - BitVec.ofNat 32 Config.horizon

/-- A held time as it is used at hall time `now`: itself, or the present hall time less 2^30 once 2^30 ticks have
passed since it was written (R39, R199). -/
def Stamp.read (st : Stamp) (now : Time) : Time :=
  if Config.horizon ≤ st.age then horizonBefore now else st.time
/-- A held time written now. -/
def Stamp.fresh (t : Time) : Stamp := ⟨t, 0⟩
/-- One tick's ageing of a held time, `now` being the hall time after the tick. -/
def Stamp.tick (st : Stamp) (now : Time) : Stamp :=
  let aged : Stamp := { st with age := min (st.age + 1) Config.horizon }
  { aged with time := aged.read now }

/-- A job's deadline or creation time after a tick: one that lies 2^30 ticks or more before the present hall time
follows it at that distance (R102; log 12). -/
def ageTime (t now : Time) : Time :=
  let behind := (now - t).toNat
  if Config.horizon ≤ behind && decide (behind < 2147483648) then horizonBefore now else t

/-! ### Hold reasons (R22) -/

/-- The hold reason set that follows from an account's fields (R22, R50). -/
def Account.reasons (a : Account) : HoldSet where
  noProgram := a.program.isNone
  noBar := a.program.isSome && a.current.isNone && a.state != .loading
  loading := a.state == .loading
  trayFull := match a.program with
    | some g => decide (g.capacity ≤ a.tray)
    | none => false
  loadFault := a.loadFault
  link := a.state == .lost
  supervisor := a.supervisor

/-- HOLD is commanded asserted exactly when the set is not empty (R22). -/
def HoldSet.nonempty (h : HoldSet) : Bool :=
  h.noProgram || h.noBar || h.loading || h.trayFull || h.loadFault || h.link || h.supervisor

/-! ### Programs and bars (chapter 2) -/

/-- The pitch Q = P + K (R28). -/
def Program.pitch (g : Program) : Nat := g.part + g.kerf

/-- Parts left: ⌊(R − M) / Q⌋ when R is at least M, and 0 when it is less (R31). -/
def Program.partsLeft (g : Program) (remaining : Nat) : Nat :=
  if g.remnant ≤ remaining then (remaining - g.remnant) / g.pitch else 0

/-- A bar of this length is short for the program: L − F − M, formed with its sign, is less than Q (R32). -/
def Program.isShort (g : Program) (length : Nat) : Bool :=
  decide ((length : Int) - (g.face : Int) - (g.remnant : Int) < (g.pitch : Int))

/-- A cradle bar is unsuitable when its material or class differs from the program's, or it is short (R11). -/
def Program.unsuitable (g : Program) (b : BarRecord) : Bool :=
  b.material != g.material || b.diameter != g.diameter || g.isShort b.length

/-- The tick selection in milliseconds (R52). -/
def TickSel.ms : TickSel → Nat
  | .ms1 => 1
  | .ms2 => 2
  | .ms5 => 5
  | .ms10 => 10
  | .ms20 => 20
  | .ms50 => 50
  | .ms100 => 100

/-- The selection that a TICK SET value names, if it is one of the seven (R54). -/
def TickSel.ofMs : Nat → Option TickSel
  | 1 => some .ms1
  | 2 => some .ms2
  | 5 => some .ms5
  | 10 => some .ms10
  | 20 => some .ms20
  | 50 => some .ms50
  | 100 => some .ms100
  | _ => none

/-- C0 = nominal × (100 / tick_ms), the nominal cycle in ticks (R34). -/
def cycleStart (nominal : Nat) (sel : TickSel) : Nat := nominal * (100 / sel.ms)

/-- A sample is held out when it is greater than 4 × C or less than ⌊C / 4⌋ (R37). -/
def heldOut (c sample : Nat) : Bool := decide (4 * c < sample) || decide (sample < c / 4)

/-- C after a sample: kept when the sample is held out, else ⌊(7 × C + s + 4) / 8⌋ limited to 1..16777215 (R37). -/
def smooth (c sample : Nat) : Nat :=
  if heldOut c sample then c else max 1 (min ((7 * c + sample + 4) / 8) Config.cycleMax)

/-- The sample (t_cut − t_last) modulo 2^32, limited to 16777215 (R36). -/
def cycleSample (tCut tLast : Time) : Nat := min (tCut - tLast).toNat Config.cycleMax

/-- A prediction: base + min(count × C, 2^30), modulo 2^32 (R43, R44). -/
def predict (base : Time) (count cycle : Nat) : Time :=
  base + BitVec.ofNat 32 (min (count * cycle) Config.horizon)

/-- A prediction as it is used between recomputations: the one that stands, or, from the moment t_last has reached its
age limit, t_last + min(count × C, 2^30) from the t_last that R39 gives (R39, R43 to R45; the model's reading, log
12). -/
def Account.useTime (a : Account) (now : Time) (held : Option Time) (count : Nat) : Option Time :=
  if Config.horizon ≤ a.tLast.age then held.map fun _ => predict (a.tLast.read now) count (a.cycle.getD 0) else held
/-- T_out as it is used at hall time `now`. -/
def Account.outAt (a : Account) (now : Time) : Option Time := a.useTime now a.tOut (a.partsLeft.getD 0)
/-- T_full as it is used at hall time `now`. -/
def Account.fullAt (a : Account) (now : Time) : Option Time :=
  a.useTime now a.tFull ((a.program.map fun g => g.capacity - a.tray).getD 0)

/-! ### Lanes and bins -/

/-- Available stock: the bar list's length less the claimed count (R66). -/
def LaneRecord.available (k : LaneRecord) : Nat := k.bars.length - k.claimed
/-- A lane is assigned when its material code is not 0 (R66). -/
def LaneRecord.assigned (k : LaneRecord) : Bool := k.material != 0
/-- The lane's material code and diameter class equal the program's (R78, R79). -/
def LaneRecord.matchesProgram (k : LaneRecord) (g : Program) : Bool :=
  k.material == g.material && k.diameter == g.diameter
/-- A lane a claim may be taken on for the program (R78). -/
def LaneRecord.claimable (k : LaneRecord) (g : Program) : Bool :=
  k.isOpen && k.matchesProgram g && decide (1 ≤ k.available)
/-- A home lane is fit for a returned bar (R84). -/
def LaneRecord.fitFor (k : LaneRecord) (b : BarRecord) : Bool :=
  k.isOpen && k.material == b.material && k.diameter == b.diameter
    && decide (k.bars.length + k.reserved < Config.lanePlaces)

/-- Free space: capacity less count less dump in flight (R141). -/
def Bin.free (b : Bin) : Nat := b.capacity - b.count - b.inFlight
/-- The fit at DUMP: the bin is open and its free space is at least the parts carried (R147). -/
def Bin.fits (b : Bin) (parts : Nat) : Bool := b.isOpen && decide (parts ≤ b.free)
/-- The gate at dispatch: BIN_CLOSED, BIN_FULL or room (none) (R147). -/
def Bin.gate (b : Bin) (capacity : Nat) : BlockReason :=
  if b.isOpen then (if b.free < capacity then .binFull else .none) else .binClosed

end Sys2Proof.Machine
end

