-- ==== Sys2Proof/Machine/Operands.lean ====
section
/-! DEFINITION. Codes, drive words and message layouts: how the part spells what it holds (R152, R153, R184). -/
namespace Sys2Proof.Machine

open Sys2Proof

/-! ### Drive words (R152) -/

/-- Order kind codes. -/
def OrderKind.code : OrderKind → Nat
  | .home => 1
  | .move => 2
  | .pick => 3
  | .place => 4
  | .empty => 5
  | .dump => 6
  | .stop => 7
  | .clear => 8
  | .poll => 9

/-- Station kind and index codes. -/
def Station.code : Station → Nat × Nat
  | .lane k => (1, k.val)
  | .lathe n => (2, n.val)
  | .bin b => (3, b.val)
  | .reject => (4, 0)
  | .home => (5, 0)

/-- Station codes of a target that may be absent: station kind none is 0. -/
def targetCode : Option Station → Nat × Nat
  | none => (0, 0)
  | some s => s.code

/-- Speed class codes. -/
def Speed.code : Speed → Nat
  | .fast => 0
  | .medium => 1
  | .slow => 2

/-- The speed class of a load (R153). -/
def Load.speed : Load → Speed
  | .none => .fast
  | .parts => .medium
  | .bar => .slow

/-- Load codes. -/
def Load.code : Load → Nat
  | .none => 0
  | .bar => 1
  | .parts => 2

/-- A command word. -/
def commandWord (k : OrderKind) (target : Option Station) (sp : Speed) : Word :=
  BitVec.ofNat 32
    (k.code * 2 ^ 28 + (targetCode target).1 * 2 ^ 25 + (targetCode target).2 * 2 ^ 20 + sp.code * 2 ^ 18)

/-- The 64 bits that an exchange shifts out, bit 63 first: the command word, then the filler word of zeros (R152). -/
def exchangeBits (k : OrderKind) (target : Option Station) (sp : Speed) : BitVec 64 := commandWord k target sp ++ 0#32

/-- The level of SHSEL between exchanges: released, and SHSEL is active low (R152). No command ends within an
exchange. -/
def shselReleased : Bool := true
/-- The levels of SHSEL and SHOUT at the 64 clocks of an exchange of these bits, in the order of the clocks: SHSEL
asserted throughout, SHOUT most significant bit first (R152). -/
def exchangeLevels (bits : BitVec 64) : List (Bool × Bool) :=
  (List.range 64).map fun i => (!shselReleased, bits.getMsbD i)
/-- The status word of an exchange whose 64 clocks found SHIN at these levels, bit 63 at the first clock: the last 32,
most significant bit first. The port reads nothing in the first 32 (R152). -/
def statusShifted (shin : BitVec 64) : Word := shin.extractLsb' 0 32

/-- Drive state in a status word: READY 0, BUSY 1, DONE 2, FAULT 3. -/
def statusState (w : Word) : Nat := (w.extractLsb' 30 2).toNat
/-- The station a status word names: none when garbled, some none off a station (R152, R154). -/
def statusStation (w : Word) : Option (Option Station) :=
  let ix := (w.extractLsb' 22 5).toNat
  match (w.extractLsb' 27 3).toNat with
  | 0 => if ix = 0 then some none else none
  | 1 => if h : ix < 24 then some (some (.lane ⟨ix, h⟩)) else none
  | 2 => if h : ix < 12 then some (some (.lathe ⟨ix, h⟩)) else none
  | 3 => if h : ix < 8 then some (some (.bin ⟨ix, h⟩)) else none
  | 4 => if ix = 0 then some (some .reject) else none
  | 5 => if ix = 0 then some (some .home) else none
  | _ => none
/-- The load sensed, or none for the code 3 (R152, R154). -/
def statusLoad (w : Word) : Option Load :=
  match (w.extractLsb' 20 2).toNat with
  | 0 => some .none
  | 1 => some .bar
  | 2 => some .parts
  | _ => none
/-- The echoed order kind code. -/
def statusEcho (w : Word) : Nat := (w.extractLsb' 16 4).toNat
/-- The drive fault code. -/
def statusDriveCode (w : Word) : Byte := w.extractLsb' 8 8
/-- A status word is answered unless it is all ones or garbled (R154). -/
def answered (w : Word) : Bool :=
  w != BitVec.allOnes 32 && (statusStation w).isSome && (statusLoad w).isSome
/-- The position an answered word gives (R154). -/
def statusPosition (w : Word) : Position :=
  match statusStation w with
  | some (some s) => .at s
  | _ => .between
/-- The load sensed of an answered word. -/
def sensedLoad (w : Word) : Load := (statusLoad w).getD .none
/-- The expected DONE pattern of an order: DONE, the order's echo, the target's station (R157). -/
def matchesOrder (w : Word) (o : OutOrder) : Bool :=
  statusState w == 2 && statusEcho w == o.kind.code && statusStation w == some o.target

/-! ### Codes of R184 -/

/-- Refusal codes. -/
inductive RefusalCode where
  | badField | wrongState | noProgram | barInSpindle | deliveryInFlight | loadingBusy | loadFault | linkLost
  | notQuiet | laneUnassigned | laneFull | laneEmpty | laneClaimed | laneBusy | noJob | jobActive | carrying
  | shuttleBusy
  deriving DecidableEq, Repr

def RefusalCode.code : RefusalCode → Byte
  | .badField => 1
  | .wrongState => 2
  | .noProgram => 3
  | .barInSpindle => 4
  | .deliveryInFlight => 5
  | .loadingBusy => 6
  | .loadFault => 7
  | .linkLost => 8
  | .notQuiet => 9
  | .laneUnassigned => 10
  | .laneFull => 11
  | .laneEmpty => 12
  | .laneClaimed => 13
  | .laneBusy => 14
  | .noJob => 15
  | .jobActive => 16
  | .carrying => 17
  | .shuttleBusy => 18

def AcctState.code : AcctState → Nat
  | .noProg => 0
  | .idle => 1
  | .await => 2
  | .loading => 3
  | .running => 4
  | .stopped => 5
  | .lost => 6

/-- A resume state as an account state. -/
def ResumeState.toState : ResumeState → AcctState
  | .idle => .idle
  | .await => .await
  | .running => .running

def ResumeState.code (r : ResumeState) : Nat := r.toState.code

/-- The hold reason set as a byte, bit 0 NO_PROGRAM to bit 6 SUPERVISOR. -/
def HoldSet.code (h : HoldSet) : Nat :=
  h.noProgram.toNat + 2 * h.noBar.toNat + 4 * h.loading.toNat + 8 * h.trayFull.toNat + 16 * h.loadFault.toNat
    + 32 * h.link.toNat + 64 * h.supervisor.toNat

def Rate.code : Rate → Nat
  | .b9600 => 0
  | .b19200 => 1
  | .b38400 => 2
  | .b57600 => 3
  | .b115200 => 4

/-- The rate a rate code names (R180). -/
def Rate.ofCode : Nat → Option Rate
  | 0 => some .b9600
  | 1 => some .b19200
  | 2 => some .b38400
  | 3 => some .b57600
  | 4 => some .b115200
  | _ => none

def Receive.code : Receive → Nat
  | .lineIdle => 0
  | .inMessage _ => 1
  | .discarding => 2
  | .broken => 3

def JobKind.code : JobKind → Nat
  | .deliver => 1
  | .collect => 2
  | .ret => 3

def JobState.code : JobState → Nat
  | .waiting => 0
  | .active => 1
  | .suspended => 2

def BlockReason.code : BlockReason → Nat
  | .none => 0
  | .noStock => 1
  | .binFull => 2
  | .binClosed => 3
  | .guardParked => 4

def CancelMark.code : CancelMark → Nat
  | .none => 0
  | .stop => 1
  | .setup => 2

def StepIx.code : StepIx → Nat
  | .one => 1
  | .two => 2
  | .three => 3
  | .four => 4

def ShuttleState.code : ShuttleState → Nat
  | .unhomed => 0
  | .homing => 1
  | .idle => 2
  | .stepping => 3
  | .waiting => 4
  | .halted => 5
  | .fault => 6

def Purpose.code : Purpose → Nat
  | .step => 0
  | .home => 1
  | .clear => 2

def FaultCode.code : FaultCode → Nat
  | .drive => 1
  | .position => 2
  | .noAnswer => 3
  | .timeout => 4
  | .load => 5
  | .unknownLoad => 6

def EventKind.code : EventKind → Nat
  | .latheState => 1
  | .noStock => 2
  | .shortBar => 3
  | .laneMissing => 4
  | .cradleMissing => 5
  | .barEnd => 6
  | .earlyBarEnd => 7
  | .barOverrun => 8
  | .strayCut => 9
  | .trayMismatch => 10
  | .loadTimeout => 11
  | .holdMismatch => 12
  | .guardChange => 13
  | .guardOverdue => 14
  | .binWait => 15
  | .rejectFull => 16
  | .driveFault => 17
  | .jobDone => 18
  | .linkBreak => 19
  | .restarted => 20

/-- Position kind and index of the SHUTTLE reply: 6 BETWEEN, 7 UNKNOWN. -/
def Position.code : Position → Nat × Nat
  | .at s => s.code
  | .between => (6, 0)
  | .unknown => (7, 0)

/-- A value field with an upper and a lower half. -/
def halves (upper lower : Nat) : BitVec 32 := BitVec.ofNat 16 upper ++ BitVec.ofNat 16 lower

/-! ### Messages the part sends (R173, R184) -/

/-- One byte of a field held as a number. -/
def b1 (n : Nat) : Byte := BitVec.ofNat 8 n
/-- Two bytes of a field held as a number. -/
def b2 (n : Nat) : List Byte := bytes16 (BitVec.ofNat 16 n)
/-- Four bytes of a field held as a number. -/
def b4 (n : Nat) : List Byte := bytes32 (BitVec.ofNat 32 n)
/-- A flag field, bit 0 first. -/
def flagByte (fs : List Bool) : Byte := b1 (fs.foldr (fun f acc => f.toNat + 2 * acc) 0)
/-- A lathe, lane or bin number, 255 where absent. -/
def numberByte {n : Nat} : Option (Fin n) → Byte
  | some i => b1 i.val
  | none => 255

/-- The whole message: KIND, LEN, payload, CHECK (R173). -/
def Msg.bytes (m : Msg) : List Byte := frameBytes m.kind m.payload

/-- ACK of a request: 41h on a lathe port, 50h on LP12. -/
def ackMsg (p : PortNo) (kind : Byte) : Msg := ⟨if p = supervisorPort then 0x50 else 0x41, [kind]⟩
/-- REFUSED of a request: 42h on a lathe port, 51h on LP12. -/
def refusedMsg (p : PortNo) (kind : Byte) (c : RefusalCode) : Msg :=
  ⟨if p = supervisorPort then 0x51 else 0x42, [kind, c.code]⟩

/-- LOAD-GO (R24). -/
def loadGoMsg (b : BarRecord) : Msg := ⟨0x44, b2 b.id ++ b2 b.length ++ bytes16 b.lot⟩
/-- STAGED (R24). -/
def stagedMsg (b : BarRecord) : Msg := ⟨0x45, b2 b.id ++ b2 b.length ++ bytes16 b.lot⟩
/-- HOLD-CHANGE (R24). -/
def holdChangeMsg (h : HoldSet) : Msg := ⟨0x46, [b1 h.code]⟩

/-- A notice: LOAD-GO, STAGED or HOLD-CHANGE. Every other message the part sends is a reply (R24, R178). -/
def Msg.isNotice (m : Msg) : Bool := m.kind == 0x44 || m.kind == 0x45 || m.kind == 0x46

/-- The program fields of ACCOUNT, zeros where the program is absent (R184). -/
def programBytes : Option Program → List Byte
  | some g => [b1 g.material, b1 g.diameter] ++ b2 g.part ++ [b1 g.kerf, b1 g.face] ++ b2 g.remnant ++ b2 g.capacity
      ++ b2 g.threshold ++ [b1 g.bin.val] ++ b2 g.nominal
  | none => List.replicate 15 0

/-- The ACCOUNT reply (R19, R184). -/
def accountMsg (a : Account) : Msg :=
  let falling := match a.program with
    | some g => g.edge == .falling
    | none => false
  let loading := match a.cradle with
    | some c => c.loading
    | none => false
  ⟨0x43,
    [b1 a.state.code, b1 a.resume.code, b1 a.reasons.code,
      flagByte [a.program.isSome, a.current.isSome, a.cradle.isSome, loading, a.stockShort, falling]]
    ++ programBytes a.program ++ b4 (a.cycle.getD 0) ++ bytes32 (a.tFull.getD 0) ++ b2 a.tray
    ++ (match a.current with
        | some c => b2 c.id ++ b2 c.length ++ bytes16 c.lot ++ b2 c.remaining ++ b2 c.made ++ b2 (a.partsLeft.getD 0)
            ++ bytes32 (a.tOut.getD 0)
        | none => List.replicate 16 0)
    ++ (match a.cradle with
        | some c => b2 c.bar.id ++ b2 c.bar.length ++ bytes16 c.bar.lot
        | none => List.replicate 6 0)⟩

/-- PARAM (R186). -/
def paramMsg (number : Byte) (value : Nat) : Msg := ⟨0x52, number :: b4 value⟩

/-- LINK (R181). -/
def linkMsg (p : PortNo) (q : Port) : Msg :=
  ⟨0x53, [b1 p.val, b1 q.setting.rate.code, b1 q.setting.parity.toNat, b1 q.rx.code, b1 q.counts.noise,
    b1 q.counts.framing, b1 q.counts.parity, b1 q.counts.overrun, b1 q.counts.truncated, b1 q.counts.bad]⟩

/-- The bar fields shared by LANE and JOB: id, L, lot, home lane, zeros where absent (R184; log 22). -/
def barBytes : Option BarRecord → List Byte
  | some b => b2 b.id ++ b2 b.length ++ bytes16 b.lot ++ [b1 b.home.val]
  | none => List.replicate 7 0

/-- LANE (R76). -/
def laneMsg (k : LaneNo) (l : LaneRecord) (reject position : Nat) : Msg :=
  let bar := l.bars[position]?
  let returned := match bar with
    | some b => b.returned
    | none => false
  ⟨0x54, [b1 k.val, b1 l.material, b1 l.diameter, flagByte [l.isOpen, l.reserved != 0, bar.isSome, returned],
    b1 l.bars.length, b1 l.claimed, b1 reject, b1 position] ++ barBytes bar⟩

/-- BAR: the id issued by STOCK or removed by UNSTOCK (R73, R75). -/
def barMsg (kind : Byte) (id : Nat) : Msg := ⟨0x55, kind :: b2 id⟩

/-- BIN (R143). -/
def binMsg (i : BinNo) (b : Bin) : Msg :=
  ⟨0x56, b1 i.val :: (b2 b.capacity ++ b2 b.count ++ [b1 b.isOpen.toNat] ++ b2 b.inFlight)⟩

/-- The fields of one event record in the EVENTS reply (R191, R193). -/
def eventBytes (e : EventRec) : List Byte :=
  [b1 e.kind.code] ++ bytes32 e.time ++ [numberByte e.lathe, numberByte e.lane, numberByte e.bin, b1 (e.job.getD 0)]
    ++ bytes32 e.value

/-- EVENTS, the reply to EVENTS and PEEK (R193, R194). -/
def eventsMsg (es : List EventRec) (overflow : Bool) : Msg :=
  ⟨0x5A, [b1 es.length, flagByte [overflow]] ++ es.flatMap eventBytes⟩

/-- IDENT (R190). -/
def identMsg : Msg := ⟨0x5B, b2 Config.deviceNumber ++ [b1 Config.revision, 12, 24, 8, 32, 64]⟩

/-- A stack position code: top 1, bottom 2, none 0 (R115, R184). With one entry on the stack it is the top. -/
def stackPosition (stack : List Slot) (i : Slot) : Nat :=
  match stack with
  | [] => 0
  | t :: rest => if i = t then 1 else if i ∈ rest then 2 else 0

/-- JOB (R115). The fields of a slot that holds no job are zeros. -/
def jobMsg (i : Slot) (sc : Schedule) : Msg :=
  let held := ((List.finRange 32).filter fun k => (sc.slots.read k).isSome).length
  let tail := [b1 sc.deferred.length, b1 sc.stack.length, b1 held]
  ⟨0x58, match sc.slots.read i with
    | none => [b1 i.val] ++ List.replicate 30 0 ++ tail
    | some j =>
      let returned := match j.bar with
        | some b => b.returned
        | none => false
      [b1 i.val, flagByte [true, j.bar.isSome, returned], b1 j.id, b1 j.kind.code, b1 j.lathe.val, numberByte j.lane,
        numberByte j.bin, b1 j.state.code, b1 j.block.code] ++ bytes32 j.deadline ++ bytes32 j.created
      ++ [b1 j.step.code, b1 j.short.toNat] ++ b2 j.parts ++ [b1 j.retries, b1 j.cancel.code]
      ++ barBytes j.bar ++ [b1 (stackPosition sc.stack i)] ++ tail⟩

/-- SHUTTLE (R162): the shuttle record, with the active job's id and step index (0 where none). -/
def shuttleMsg (s : Shuttle) (job : Option Job) : Msg :=
  let out := match s.outstanding with
    | some o => [b1 o.kind.code, b1 (targetCode o.target).1, b1 (targetCode o.target).2, b1 o.purpose.code]
    | none => [0, 0, 0, 0]
  let flt := match s.fault with
    | some f => [b1 f.code.code, b1 f.failed.kind.code, b1 (targetCode f.failed.target).1,
        b1 (targetCode f.failed.target).2, f.driveCode, b1 f.loadSensed.code]
    | none => [0, 0, 0, 0, 0, 0]
  let act := match job with
    | some j => [b1 j.id, b1 j.step.code]
    | none => [0, 0]
  ⟨0x59, [b1 s.state.code, b1 s.position.code.1, b1 s.position.code.2, b1 s.load.code,
    flagByte [s.haltPending, s.homeFailed, s.fault.isSome, s.outstanding.isSome]] ++ out ++ [b1 s.noAnswer] ++ flt
    ++ act⟩

/-- LATHE (R188): the account, its lines and compare, the HSENSE level at the reply, and the ids of its jobs. -/
def latheMsg (n : Lathe) (a : Account) (l : Line) (sensed : Bool) (capture : Time) (c : Compare)
    (jobId : JobKind → Nat) : Msg :=
  ⟨0x57, [b1 n.val, b1 a.state.code, b1 a.resume.code, b1 a.reasons.code,
      flagByte [l.holdCmd, sensed, l.guardClosed, a.stockShort, c.armed, c.spent]]
    ++ bytes32 capture ++ bytes32 c.value ++ b2 a.tray ++ b2 (a.partsLeft.getD 0) ++ bytes32 (a.tOut.getD 0)
    ++ bytes32 (a.tFull.getD 0) ++ b4 (a.cycle.getD 0)
    ++ [b1 (jobId .deliver), b1 (jobId .collect), b1 (jobId .ret)]
    ++ b2 (match a.cradle with
        | some cb => cb.bar.id
        | none => 0)
    ++ b2 (match a.current with
        | some cu => cu.id
        | none => 0)⟩

end Sys2Proof.Machine
end

