-- ==== Sys2Proof/Machine/Ops.lean ====
section
/-! DEFINITION. Named operations over the state: one update per field, the records by number, event posting,
replies and notices, timers, and the exchanges with the drive. -/
namespace Sys2Proof.Machine

open Sys2Proof

/-! ### One update per field -/

def State.setPending (s : State) (x : List Instr) : State := { s with pending := x }
def State.setParams (s : State) (x : Params) : State := { s with params := x }
def State.setTimer (s : State) (x : HallTimer) : State := { s with timer := x }
def State.setLines (s : State) (x : Bank Line 12) : State := { s with lines := x }
def State.setGuardSeen (s : State) (x : Bool) : State := { s with guardSeen := x }
def State.setPins (s : State) (x : Pins) : State := { s with pins := x }
def State.setAccounts (s : State) (x : Bank Account 12) : State := { s with accounts := x }
def State.setRack (s : State) (x : Rack) : State := { s with rack := x }
def State.setSched (s : State) (x : Schedule) : State := { s with sched := x }
def State.setSeq (s : State) (x : StepRecord) : State := { s with seq := x }
def State.setBins (s : State) (x : Bank Bin 8) : State := { s with bins := x }
def State.setShuttle (s : State) (x : Shuttle) : State := { s with shuttle := x }
def State.setPorts (s : State) (x : Bank Port 13) : State := { s with ports := x }
def State.setPointer (s : State) (x : PortNo) : State := { s with pointer := x }
def State.setEvents (s : State) (x : EventQueue) : State := { s with events := x }
def State.setDraws (s : State) (x : Nat) : State := { s with draws := x }

/-! ### Records by number -/

/-- The present hall time (R53). -/
def State.now (s : State) : Time := s.timer.time
def State.account (s : State) (n : Lathe) : Account := s.accounts.read n
def State.setAccount (s : State) (n : Lathe) (a : Account) : State := s.setAccounts (s.accounts.write n a)
def State.line (s : State) (n : Lathe) : Line := s.lines.read n
def State.setLine (s : State) (n : Lathe) (l : Line) : State := s.setLines (s.lines.write n l)
def State.port (s : State) (p : PortNo) : Port := s.ports.read p
def State.setPort (s : State) (p : PortNo) (q : Port) : State := s.setPorts (s.ports.write p q)
def State.bin (s : State) (b : BinNo) : Bin := s.bins.read b
def State.setBin (s : State) (b : BinNo) (x : Bin) : State := s.setBins (s.bins.write b x)
def State.lane (s : State) (k : LaneNo) : LaneRecord := s.rack.lanes.read k
def State.setLane (s : State) (k : LaneNo) (l : LaneRecord) : State :=
  s.setRack { s.rack with lanes := s.rack.lanes.write k l }
def State.compareOf (s : State) (n : Lathe) : Compare := s.timer.compare.read n
def State.setCompare (s : State) (n : Lathe) (c : Compare) : State :=
  s.setTimer { s.timer with compare := s.timer.compare.write n c }
def State.job (s : State) (i : Slot) : Option Job := s.sched.slots.read i
/-- The slot `i` holding `j`, or empty. -/
def State.setSlot (s : State) (i : Slot) (j : Option Job) : State :=
  s.setSched { s.sched with slots := s.sched.slots.write i j }
/-- The job of slot `i`, if any, changed by `f`. -/
def State.updateJob (s : State) (i : Slot) (f : Job → Job) : State := s.setSlot i ((s.job i).map f)
def State.setGuardWait (s : State) (t : Timer) : State := s.setTimer { s.timer with guardWait := t }
def State.setStepTimer (s : State) (t : Timer) : State := s.setTimer { s.timer with stepTimer := t }

/-! ### Timers (R64) -/

/-- One tick of a timer: a running one counts down, and at 0 stops with its expiry handed on. -/
def Timer.tick : Timer → Timer
  | .running r => if r ≤ 1 then .expired else .running (r - 1)
  | t => t

/-! ### Events and ATTN (R192, R195) -/

/-- An event record of these fields; its hall time is given when it is posted. -/
def event (k : EventKind) (value : BitVec 32) (lathe : Option Lathe := none) (lane : Option LaneNo := none)
    (bin : Option BinNo := none) (job : Option Nat := none) : EventRec :=
  ⟨k, 0, lathe, lane, bin, job, value⟩

/-- ATTN for a record list: asserted while the count is at or above ATTN_LEVEL (R195). -/
def attnFor (level : Nat) (records : List EventRec) : Bool := decide (level ≤ records.length)

/-- Posting a record: appended with the present hall time while fewer than 64 are held, else discarded with the
overflow flag set (R192). -/
def State.post (s : State) (e : EventRec) : State :=
  if s.events.records.length < Config.eventPlaces then
    let records := s.events.records ++ [{ e with time := s.now }]
    s.setEvents { s.events with records := records, attn := attnFor s.params.attnLevel records }
  else s.setEvents { s.events with overflow := true }

/-! ### Replies and notices (R178, R179) -/

/-- The port holds a reply not yet fully sent, waiting or in its transmit register (R177). -/
def Port.replyPending (q : Port) : Bool :=
  q.queue.any (fun m => !m.isNotice) || (match q.tx with | some m => !m.isNotice | none => false)

/-- A reply joins the queue of its port at the tail (R178, R179). -/
def State.reply (s : State) (p : PortNo) (m : Msg) : State :=
  s.setPort p { s.port p with queue := (s.port p).queue ++ [m] }

/-- A notice joins the queue of LPn at the tail, replacing a waiting notice of its kind (R179). -/
def State.notice (s : State) (n : Lathe) (m : Msg) : State :=
  let p := lathePort n
  s.setPort p { s.port p with queue := (s.port p).queue.filter (fun x => x.kind != m.kind) ++ [m] }

/-! ### Hold reasons and the HOLD line (R23, R62, R63) -/

/-- The commanded HOLD level set to `level`; a change of it sets both sense counts to 0 (R62, R63). -/
def Line.command (l : Line) (level : Bool) : Line :=
  if l.holdCmd = level then l else { l with holdCmd := level, mismatch := 0, agreement := 0 }

/-- The hold reason set of account `n` evaluated: a set that differs from the one held commands the new HOLD level
and queues HOLD-CHANGE (R23). -/
def State.evalHold (s : State) (n : Lathe) : State :=
  let a := s.account n
  let h := a.reasons
  if h = a.holdSet then s
  else
    ((s.setAccount n { a with holdSet := h }).setLine n ((s.line n).command h.nonempty)).notice n (holdChangeMsg h)

/-! ### Exchanges with the drive (R152, R153, R155) -/

/-- An exchange whose command word carries the target of the order last issued and the speed class of the load held: a
POLL or a STOP (R153). -/
def State.exchange (s : State) (k : OrderKind) : State :=
  s.setShuttle { s.shuttle with shout := some (exchangeBits k s.shuttle.lastTarget s.shuttle.load.speed) }

/-- The step timer's count for an order kind (R65). -/
def Params.stepLimit (p : Params) : OrderKind → Nat
  | .home => p.stepLimitMove
  | .move => p.stepLimitMove
  | _ => p.stepLimitHandle

/-- The issue exchange: the order goes out, is recorded as outstanding with its purpose, the no-answer count is 0
and the step timer starts (R155). -/
def State.issue (s : State) (k : OrderKind) (target : Option Station) (sp : Speed) (why : Purpose) : State :=
  (s.setShuttle
    { s.shuttle with
      outstanding := some ⟨k, target, sp, why⟩
      noAnswer := 0
      lastTarget := target
      shout := some (exchangeBits k target sp)
      heldWord := none }).setStepTimer (.running (s.params.stepLimit k))

/-- The shuttle passes from the job that leaves it: a standing fault or halt stays, a pending halt takes effect
here, otherwise it is IDLE (R122, R137, R150, R164). -/
def State.releaseShuttle (s : State) : State :=
  match s.shuttle.state with
  | .fault | .halted => s
  | _ =>
    if s.shuttle.haltPending then s.setShuttle { s.shuttle with state := .halted, haltPending := false }
    else s.setShuttle { s.shuttle with state := .idle }

/-- The target of a lathe station is guarded by that lathe's GUARD; any other target passes (R123). -/
def State.guardPasses (s : State) : Station → Bool
  | .lathe n => (s.line n).guardClosed
  | _ => true

end Sys2Proof.Machine
end

