-- ==== Sys2Proof/Machine/Schedule.lean ====
section
/-! DEFINITION. The service schedule up to the dispatch of a job, and the issue of its step (chapter 5, R78 to R80,
R89 to R103, R117 to R132). -/
namespace Sys2Proof.Machine

open Sys2Proof

/-! ### Finding jobs -/

/-- The slots in rising order. -/
def allSlots : List Slot := List.finRange 32

/-- The slot's job is of this lathe and kind. -/
def State.isJobOf (s : State) (n : Lathe) (k : JobKind) (i : Slot) : Bool :=
  match s.job i with
  | some j => j.lathe == n && j.kind == k
  | none => false

/-- The slot of the lathe's job of this kind, in any state. -/
def State.findJob (s : State) (n : Lathe) (k : JobKind) : Option Slot := allSlots.find? (s.isJobOf n k)
/-- The lathe has a job of this kind, in any state (R92). -/
def State.hasJob (s : State) (n : Lathe) (k : JobKind) : Bool := (s.findJob n k).isSome
/-- The lowest-numbered empty slot (R89). -/
def State.emptySlot (s : State) : Option Slot := allSlots.find? fun i => (s.job i).isNone
/-- The slot of the job with this id, if a slot holds it (R116). -/
def State.slotOfId (s : State) (id : Nat) : Option Slot :=
  allSlots.find? fun i => match s.job i with
    | some j => j.id == id
    | none => false
/-- The ids held by jobs in slots (R89). -/
def State.jobIds (s : State) : List Nat := allSlots.filterMap fun i => (s.job i).map (·.id)

/-- A job is earlier than another by deadline, among equal deadlines by creation time (R99, R103). -/
def Job.earlier (a b : Job) : Bool :=
  if a.deadline = b.deadline then isBefore a.created b.created else isBefore a.deadline b.deadline

/-- The first of the slots' jobs that satisfy `ok`, where `beats a b` says that `a`, in a higher slot, goes before
`b`. -/
def State.bestJob (s : State) (ok : Job → Bool) (beats : Job → Job → Bool) : Option (Slot × Job) :=
  allSlots.foldl (init := none) fun best i =>
    match s.job i with
    | some j =>
      if ok j then
        match best with
        | some (_, b) => if beats j b then some (i, j) else best
        | none => some (i, j)
      else best
    | none => best

/-- A job eligible for dispatch: WAITING with block reason none (R90). -/
def Job.eligible (j : Job) : Bool := j.state == .waiting && j.block == .none
/-- The eligible job with the earliest deadline, then the earlier creation, then the lower slot (R103). -/
def State.bestEligible (s : State) : Option (Slot × Job) := s.bestJob Job.eligible Job.earlier

/-! ### Allocators (R68, R89) -/

/-- The id after `last`, counting 1 after `top`. -/
def nextId (top last : Nat) : Nat := if top ≤ last then 1 else last + 1
/-- The first id after `last` that is not in use; with one more candidate than ids in use, one is found. -/
def freeId (top : Nat) (used : List Nat) : Nat → Nat → Nat
  | 0, last => nextId top last
  | fuel + 1, last => if nextId top last ∈ used then freeId top used fuel (nextId top last) else nextId top last

/-- The bar ids in use: in the lanes, in the jobs' bar records (the shuttle load), on cradles and in spindles
(R68). -/
def State.barIds (s : State) : List Nat :=
  (List.finRange 24).flatMap (fun k => (s.lane k).bars.map (·.id))
    ++ allSlots.filterMap (fun i => (s.job i).bind fun j => j.bar.map (·.id))
    ++ (List.finRange 12).filterMap (fun n => (s.account n).cradle.map (·.bar.id))
    ++ (List.finRange 12).filterMap (fun n => (s.account n).current.map (·.id))

/-- The id the bar id allocator issues next (R68). -/
def State.nextBarId (s : State) : Nat := freeId Config.barIdMax s.barIds s.barIds.length s.rack.lastBarId
/-- The id the job id allocator issues next (R89). -/
def State.nextJobId (s : State) : Nat := freeId Config.jobIdMax s.jobIds s.jobIds.length s.sched.lastJobId

/-! ### Claims (R78, R79, R97) -/

/-- The lowest-numbered lane a claim for the program may be taken on (R78). -/
def State.claimLane (s : State) (g : Program) : Option LaneNo :=
  (List.finRange 24).find? fun k => (s.lane k).claimable g

/-- Job `i` takes a claim on lane `k` (R78, R79). -/
def State.takeClaim (s : State) (i : Slot) (k : LaneNo) : State :=
  (s.setLane k { s.lane k with claimed := (s.lane k).claimed + 1 }).updateJob i fun j =>
    { j with lane := some k, claim := true, block := .none }

/-- Job `i` enters NO_STOCK: WAITING without a lane, back at step 1, and the event is raised (R97, R98). -/
def State.enterNoStock (s : State) (i : Slot) : State :=
  match s.job i with
  | none => s
  | some j =>
    let codes := match (s.account j.lathe).program with
      | some g => halves g.material g.diameter
      | none => 0
    (s.setSlot i (some
      { j with state := .waiting, block := .noStock, lane := none, claim := false, step := .one, short := false })).post
      (event .noStock codes (lathe := some j.lathe) (job := some j.id))

/-- The lane that a claim of lathe `n`'s program would be taken on. -/
def State.claimLaneFor (s : State) (n : Lathe) : Option LaneNo :=
  (s.account n).program.bind s.claimLane

/-- A NO_STOCK job of a lathe whose program matches lane `k` (R99). -/
def State.wantsLane (s : State) (k : LaneNo) (j : Job) : Bool :=
  j.kind == .deliver && j.state == .waiting && j.block == .noStock &&
    match (s.account j.lathe).program with
    | some g => (s.lane k).matchesProgram g
    | none => false

/-- The presentation of a stock gain: while lane `k` has available stock, the earliest matching NO_STOCK job takes
a claim on it (R99). Each round takes a job out of NO_STOCK, so as many rounds as slots suffice. -/
def State.present (k : LaneNo) : Nat → State → State
  | 0, s => s
  | fuel + 1, s =>
    if 1 ≤ (s.lane k).available then
      match s.bestJob (s.wantsLane k) Job.earlier with
      | some (i, _) => State.present k fuel (s.takeClaim i k)
      | none => s
    else s

/-- A stock gain of lane `k`, handed on where the lane is open and assigned (R79). The dispatch that may follow is
the caller's. -/
def State.stockGain (s : State) (k : LaneNo) : State :=
  if (s.lane k).isOpen && (s.lane k).assigned then State.present k 32 s else s

/-! ### Bin blocks (R100) -/

/-- The gate's answer for a job of lathe `n` and bin `b` (R147). -/
def State.gate (s : State) (n : Lathe) (b : BinNo) : BlockReason :=
  match (s.account n).program with
  | some g => (s.bin b).gate g.capacity
  | none => .none

/-- The bin block of the COLLECT job in slot `i` evaluated: a WAITING job takes the gate's answer, a SUSPENDED job
that meets a block leaves the stack for WAITING with it (R100). -/
def State.evalBinBlock (s : State) (i : Slot) : State :=
  match s.job i with
  | none => s
  | some j =>
    match j.bin with
    | none => s
    | some b =>
      if j.kind != .collect then s
      else
        match j.state with
        | .waiting =>
          if j.block == .guardParked || j.block == .noStock then s
          else s.setSlot i (some { j with block := s.gate j.lathe b })
        | .suspended =>
          if s.gate j.lathe b = .none then s
          else
            s.setSched
              { s.sched with
                slots := s.sched.slots.write i (some
                  { j with state := .waiting, block := s.gate j.lathe b, step := .one })
                stack := s.sched.stack.erase i }
        | .active => s

/-- The bin blocks of the COLLECT jobs for bin `b` evaluated, slot by slot (R100). -/
def State.evalBins (s : State) (b : BinNo) : State :=
  allSlots.foldl (init := s) fun s i =>
    match s.job i with
    | some j => if j.bin = some b then s.evalBinBlock i else s
    | none => s

/-! ### Creating jobs (R92 to R96) -/

/-- The deadline of a DELIVER job as the lathe's account gives it: T_out while a current bar is present, otherwise
the AWAIT entry time (R47). -/
def Account.deliverDeadline (a : Account) (now : Time) : Time :=
  match a.current, a.outAt now with
  | some _, some t => t
  | _, _ => a.awaitEntry.read now

/-- The job record that R93 starts from. -/
def newJob (id : Nat) (k : JobKind) (n : Lathe) (now deadline : Time) (bin : Option BinNo) : Job where
  id := id
  kind := k
  lathe := n
  lane := none
  claim := false
  bin := bin
  state := .waiting
  block := .none
  deadline := deadline
  created := now
  step := .one
  short := false
  bar := none
  parts := 0
  retries := 0
  cancel := .none

/-- A job created in slot `i`, its block settled (R93). The times it takes from the account are formed from a t_last
within its age limit, so no deadline starts farther back than 2^30 ticks (R102; log 12). The dispatch that may follow is the
caller's. -/
def State.createIn (s : State) (i : Slot) (n : Lathe) (k : JobKind) : State :=
  let a := s.account n
  match a.program with
  | none => s
  | some g =>
    let id := s.nextJobId
    let place (j : Job) : State :=
      s.setSched { s.sched with slots := s.sched.slots.write i (some j), lastJobId := id }
    match k with
    | .deliver =>
      let s1 := place (newJob id k n s.now (a.deliverDeadline s.now) none)
      match s.claimLane g with
      | some l => s1.takeClaim i l
      | none => s1.enterNoStock i
    | .collect => (place (newJob id k n s.now ((a.fullAt s.now).getD s.now) (some g.bin))).evalBinBlock i
    | .ret => place (newJob id k n s.now (s.now + BitVec.ofNat 32 s.params.preemptMargin) none)

/-- A pairing appended to the deferred list unless it is on it already (R94, R96). -/
def State.defer (s : State) (n : Lathe) (k : JobKind) : State :=
  if (n, k) ∈ s.sched.deferred then s
  else s.setSched { s.sched with deferred := s.sched.deferred ++ [(n, k)] }

/-- A creation request (R92): dropped, deferred, or a job created. The dispatch that may follow is the
caller's. -/
def State.request (s : State) (n : Lathe) (k : JobKind) : State :=
  if s.hasJob n k then s
  else
    match s.emptySlot with
    | none => s.defer n k
    | some i => if s.sched.deferred.isEmpty then s.createIn i n k else s.defer n k

/-- The creation condition of a deferred entry, tested afresh (R95). -/
def State.deferredHolds (s : State) (n : Lathe) (k : JobKind) : Bool :=
  let a := s.account n
  match a.program with
  | none => false
  | some g =>
    match k with
    | .deliver =>
      !a.stockShort && !s.hasJob n .deliver && a.cradle.isNone &&
        (a.state == .await || ((s.compareOf n).armed && atOrBefore (s.compareOf n).value s.now))
    | .collect => decide (g.threshold ≤ a.tray) && !s.hasJob n .collect
    | .ret =>
      (match a.cradle with
        | some c => !c.loading && g.unsuitable c.bar
        | none => false) && !s.hasJob n .ret

/-- The deferred list served for an empty slot: entries are taken from the front and dropped until one's condition
holds, and that one is created (R95). -/
def State.serveFrom (s : State) : List (Lathe × JobKind) → State
  | [] => s.setSched { s.sched with deferred := [] }
  | (n, k) :: rest =>
    if s.deferredHolds n k then
      match s.emptySlot with
      | some i => (s.setSched { s.sched with deferred := rest }).createIn i n k
      | none => s
    else s.serveFrom rest

/-- The deferred list served once for a slot that became empty (R95). -/
def State.serveDeferred (s : State) : State := s.serveFrom s.sched.deferred

/-! ### The order of a step and its issue (R117 to R132) -/

/-- A RETURN's destination: the lane its lane field names, or REJECT (R118). -/
def Job.destination (j : Job) : Station :=
  match j.lane with
  | some k => .lane k
  | none => .reject

/-- The order of a job's present step (R118). -/
def Job.order (j : Job) : Option Order :=
  match j.kind, j.step with
  | .deliver, .one => j.lane.map fun k => ⟨.move, .lane k⟩
  | .deliver, .two => j.lane.map fun k => ⟨.pick, .lane k⟩
  | .deliver, .three => some ⟨.move, if j.short then .reject else .lathe j.lathe⟩
  | .deliver, .four => some ⟨.place, if j.short then .reject else .lathe j.lathe⟩
  | .collect, .one => some ⟨.move, .lathe j.lathe⟩
  | .collect, .two => some ⟨.empty, .lathe j.lathe⟩
  | .collect, .three => j.bin.map fun b => ⟨.move, .bin b⟩
  | .collect, .four => j.bin.map fun b => ⟨.dump, .bin b⟩
  | .ret, .one => some ⟨.move, .lathe j.lathe⟩
  | .ret, .two => some ⟨.pick, .lathe j.lathe⟩
  | .ret, .three => some ⟨.move, j.destination⟩
  | .ret, .four => some ⟨.place, j.destination⟩

/-- The loads sensed that a step accepts at its completion (R118). -/
def Job.accepts (j : Job) (l : Load) : Bool :=
  match j.kind, j.step with
  | .deliver, .one => l == .none
  | .deliver, .two => l == .bar || l == .none
  | .deliver, .three => l == .bar
  | .deliver, .four => l == .none
  | .collect, .one => l == .none
  | .collect, .two => l == .parts || l == .none
  | .collect, .three => l == .parts
  | .collect, .four => l == .none
  | .ret, .one => l == .none
  | .ret, .two => l == .bar || l == .none
  | .ret, .three => l == .bar
  | .ret, .four => l == .none

/-- The sequencer stands in a wait phase and the shuttle in WAITING. -/
def State.enterWait (s : State) (ph : Phase) : State :=
  (s.setSeq { s.seq with phase := ph }).setShuttle { s.shuttle with state := .waiting }

/-- The step record of an issued order: phase OUTSTANDING, and T_issue at an EMPTY (R117, R130). -/
def State.noteIssue (s : State) (j : Job) (o : Order) : State :=
  s.setSeq
    { s.seq with
      phase := .outstanding
      order := some o
      tIssue := if o.kind = .empty then (s.account j.lathe).tray else s.seq.tIssue }

/-- The dump in flight of an issued DUMP (R148). -/
def State.holdInFlight (s : State) (j : Job) (o : Order) : State :=
  match o.kind, o.target with
  | .dump, .bin b => s.setBin b { s.bin b with inFlight := j.parts }
  | _, _ => s

/-- The shuttle in another state. -/
def State.setShuttleState (s : State) (st : ShuttleState) : State := s.setShuttle { s.shuttle with state := st }

/-- A step's order issued: the exchange of R155, the step record, the dump in flight, and shuttle state STEPPING
(R117). -/
def State.issueStep (s : State) (j : Job) (o : Order) : State :=
  (((s.issue o.kind (some o.target) s.shuttle.load.speed .step).noteIssue j o).holdInFlight j o).setShuttleState
    .stepping

/-- The checks of a step after the cradle check, in the order of R119, and the issue when they pass: the guard
(R123), the reject rack (R125), the bin fit (R132). -/
def State.checkAndIssue (s : State) : State :=
  match s.seq.job.bind s.job with
  | none => s
  | some j =>
    match j.order with
    | none => s
    | some o =>
      if !s.guardPasses o.target then
        ((s.setSeq { s.seq with expiries := 0 }).setGuardWait (.running s.params.guardWait)).enterWait .guardPending
      else
        match o.kind, o.target with
        | .place, .reject =>
          if s.rack.reject < Config.rejectPlaces then s.issueStep j o
          else
            (s.enterWait .rejectWait).post
              (event .rejectFull (BitVec.ofNat 32 ((j.bar.map (·.id)).getD 0)) (job := some j.id))
        | .dump, .bin b =>
          if (s.bin b).fits j.parts then s.issueStep j o
          else
            (s.enterWait .dumpWait).post
              (event .binWait (halves j.parts (s.bin b).free) (lathe := some j.lathe) (bin := some b)
                (job := some j.id))
        | _, _ => s.issueStep j o

/-- A step becomes the active job's present step: phase UNISSUED, guard expiries 0, the shuttle IDLE for the moment
of the checks (R117, R119). -/
def State.beginStep (s : State) : State :=
  (s.setSeq
    { s.seq with
      phase := .unissued
      order := (s.seq.job.bind s.job).bind Job.order
      expiries := 0
      boundary := false }).setShuttle { s.shuttle with state := .idle }

/-- The job of slot `i` becomes ACTIVE at step 1 with its branch mark clear, and the step record is formed (R103,
R117). -/
def State.activate (s : State) (i : Slot) : State :=
  (s.updateJob i fun j => { j with state := .active, block := .none, step := .one, short := false }).setSeq
    { StepRecord.clear with job := some i }

/-- The shuttle handed to the job of slot `i`, whose first step is taken up (R103, R119). -/
def State.startJob (s : State) (i : Slot) : State := ((s.activate i).beginStep).checkAndIssue

/-- The shuttle is free when its state is IDLE and no job is ACTIVE (R103). -/
def State.shuttleFree (s : State) : Bool := s.shuttle.state == .idle && s.seq.job.isNone

/-- The dispatch arbiter: a free shuttle goes to the top of the suspension stack, otherwise to the first eligible
job (R103). -/
def State.dispatch (s : State) : State :=
  if s.shuttleFree then
    match s.sched.stack with
    | i :: rest => (s.setSched { s.sched with stack := rest }).startJob i
    | [] =>
      match s.bestEligible with
      | some (i, _) => s.startJob i
      | none => s
  else s

end Sys2Proof.Machine
end

