-- ==== Sys2Proof/Machine/Accounts.lean ====
section
/-! DEFINITION. Shared operations of the lathe account unit: predictions, the delivery compare, state changes, the
entry into AWAIT, the change of bars, and cuts (chapters 1 and 2). -/
namespace Sys2Proof.Machine

open Sys2Proof

/-! ### The delivery compare (R45, R46, R58) -/

/-- The delivery compare of the lathe is armed while this holds: RUNNING or LOST, a current bar, an empty cradle
(R45). -/
def Account.wantsCompare (a : Account) : Bool :=
  (a.state == .running || a.state == .lost) && a.current.isSome && a.cradle.isNone

/-- A compare disarmed: spent is cleared and the value no longer matters (R58). -/
def Compare.disarm (c : Compare) : Compare := { c with armed := false, spent := false }

/-- A compare written with a value: armed, and spent at once when the value is reached (R58). -/
def Compare.written (v now : Time) : Compare := ⟨true, v, atOrBefore v now⟩

/-- The compare of lathe `n` disarmed where R45 wants none armed. -/
def State.settleCompare (s : State) (n : Lathe) : State :=
  if (s.account n).wantsCompare then s else s.setCompare n (s.compareOf n).disarm

/-- The compare of lathe `n` written from the T_out that stands, where R45 wants it armed, and disarmed otherwise
(R45, R58); with it, whether it fired at the write. -/
def State.writeCompare (s : State) (n : Lathe) : State × Bool :=
  let a := s.account n
  match a.wantsCompare, a.outAt s.now with
  | true, some t =>
    let v := t - BitVec.ofNat 32 s.params.lookahead
    (s.setCompare n (.written v s.now), atOrBefore v s.now)
  | _, _ => (s.settleCompare n, false)

/-- A firing's request for a DELIVER job: none where the lathe has one or its stock-short flag is set (R46). -/
def State.deliverOnFire (s : State) (n : Lathe) : State :=
  if s.hasJob n .deliver || (s.account n).stockShort then s else (s.request n .deliver).dispatch

/-- The request of a compare that fired, if it did. -/
def State.fireIf (s : State) (n : Lathe) (fired : Bool) : State := if fired then s.deliverOnFire n else s

/-- The compare written from the T_out that stands, and its firing taken (R26, R27, R45). R45 bounds the value by the
ageing of R39: past the age limit of t_last the model forms it from the aged t_last (its own reading, log 12). -/
def State.rearm (s : State) (n : Lathe) : State :=
  (s.writeCompare n).1.fireIf n (s.writeCompare n).2

/-! ### Predictions (R42 to R44, R47, R48) -/

/-- An account with its predictions formed at hall time `now` from the fields as they stand (R31, R39, R43, R44). -/
def Account.predicted (a : Account) (now : Time) : Account :=
  let base := a.tLast.read now
  let left := match a.program, a.current with
    | some g, some c => some (g.partsLeft c.remaining)
    | _, _ => none
  { a with
    tLast := { a.tLast with time := base }
    partsLeft := left
    tOut := left.map fun p => predict base p (a.cycle.getD 0)
    tFull := a.program.map fun g => predict base (g.capacity - a.tray) (a.cycle.getD 0) }

/-- The job of slot `i` with its deadline rewritten (R102). -/
def State.setDeadline (s : State) (i : Slot) (t : Time) : State := s.updateJob i fun j => { j with deadline := t }

/-- The DELIVER deadline follows T_out while a current bar is present (R47). -/
def State.rewriteDeliver (s : State) (n : Lathe) : State :=
  match s.findJob n .deliver, (s.account n).current, (s.account n).tOut with
  | some i, some _, some t => s.setDeadline i t
  | _, _, _ => s

/-- The COLLECT deadline follows T_full (R48). -/
def State.rewriteCollect (s : State) (n : Lathe) : State :=
  match s.findJob n .collect, (s.account n).tFull with
  | some i, some t => s.setDeadline i t
  | _, _ => s

/-- The predictions of account `n` recomputed, the compare written and the deadlines rewritten (R42); with it,
whether the compare fired at the write. -/
def State.recompute (s : State) (n : Lathe) : State × Bool :=
  let w := (s.setAccount n ((s.account n).predicted s.now)).writeCompare n
  ((w.1.rewriteDeliver n).rewriteCollect n, w.2)

/-- A recomputation with the firing of its write taken (R42, R46; log 11). -/
def State.recomputeAndFire (s : State) (n : Lathe) : State := (s.recompute n).1.fireIf n (s.recompute n).2

/-! ### State changes and AWAIT (R12, R24, R199) -/

/-- The value field of LATHE_STATE: new state, resume state, previous state, from the lowest byte up (R24). -/
def latheStateValue (new : AcctState) (resume : ResumeState) (old : AcctState) : BitVec 32 :=
  BitVec.ofNat 32 (new.code + 256 * resume.code + 65536 * old.code)

/-- Account `n` goes to a state; a change raises LATHE_STATE (R24). -/
def State.goTo (s : State) (n : Lathe) (new : AcctState) : State :=
  let a := s.account n
  if a.state = new then s
  else
    (s.setAccount n { a with state := new }).post
      (event .latheState (latheStateValue new a.resume a.state) (lathe := some n))

/-- The DELIVER job of a lathe in AWAIT with no cradle bar: one that exists takes the AWAIT entry time as its
deadline, otherwise one is requested unless the stock-short flag is set (R12). -/
def State.wantBar (s : State) (n : Lathe) : State :=
  match s.findJob n .deliver with
  | some i => s.setDeadline i ((s.account n).awaitEntry.read s.now)
  | none => if (s.account n).stockShort then s else (s.request n .deliver).dispatch

/-- Account `n` acts on its cradle in AWAIT (R12): a cradle bar is sent LOAD-GO and the state goes to LOADING, or
it is held for a RETURN job of the lathe, or with no cradle bar a DELIVER job is wanted. -/
def State.actOnCradle (s : State) (n : Lathe) : State :=
  match (s.account n).cradle with
  | some c =>
    if s.hasJob n .ret then s.goTo n .await
    else
      let s1 := s.goTo n .loading
      (s1.setAccount n
        { s1.account n with
          cradle := some { c with loading := true }
          loadTimer := .running s.params.loadLimit }).notice n (loadGoMsg c.bar)
  | none => (s.goTo n .await).wantBar n

/-- Entry into AWAIT with the arrival time as the AWAIT entry time (R12, R199). -/
def State.enterAwait (s : State) (n : Lathe) : State :=
  (s.setAccount n { s.account n with awaitEntry := .fresh s.now }).actOnCradle n

/-- The departure of the lathe's RETURN job before its PICK at the cradle has completed: a lathe that stands in
AWAIT acts on its cradle again, and its hold reason set is evaluated (R12, R23). -/
def State.returnDeparted (s : State) (n : Lathe) : State :=
  if (s.account n).state = .await then (s.actOnCradle n).evalHold n else s

/-! ### Bars that become current and end (R3, R13, R14) -/

/-- An account whose cradle bar becomes its current bar: R = L − F, parts made 0, t_last now, sample-valid cleared,
cradle empty (R3, R14, R29, R35). -/
def Account.loadBar (a : Account) (now : Time) : Account :=
  match a.cradle with
  | none => a
  | some c =>
    let face := match a.program with
      | some g => g.face
      | none => 0
    { a with
      current := some ⟨c.bar.id, c.bar.length, c.bar.lot, c.bar.length - face, 0, false⟩
      cradle := none
      tLast := .fresh now
      sampleValid := false }

/-- An account whose current bar is removed, with its parts left and T_out (R13). -/
def Account.dropBar (a : Account) : Account := { a with current := none, partsLeft := none, tOut := none }

/-! ### Cuts (R30 to R41, R49) -/

/-- A cut counted to the bar: the sample (R35 to R37), t_last (R38), R and parts made (R30), parts left (R31). The
overrun flag is set by a cut that finds parts left already 0 (R33). -/
def Account.countCut (a : Account) (g : Program) (c : CurrentBar) (tCut : Time) : Account :=
  let left := a.partsLeft.getD 0
  let bar : CurrentBar :=
    { c with
      remaining := c.remaining - g.pitch
      made := min (c.made + 1) Config.partsMadeMax
      overrun := c.overrun || left == 0 }
  { a with
    cycle := if a.sampleValid then a.cycle.map fun x => smooth x (cycleSample tCut (a.tLast.read tCut)) else a.cycle
    sampleValid := true
    tLast := .fresh tCut
    current := some bar
    partsLeft := some (g.partsLeft bar.remaining) }

/-- A cut counted to the tray, up to 1023 (R41). -/
def Account.countTray (a : Account) : Account := { a with tray := min (a.tray + 1) Config.trayMax }

/-- The state counts its cuts to the bar, given a current bar (R40). -/
def AcctState.countsToBar : AcctState → Bool
  | .running | .stopped | .lost => true
  | _ => false

/-- A collection is asked for when the tray is at or above the collect threshold and the lathe has no COLLECT job
(R49). -/
def State.checkThreshold (s : State) (n : Lathe) : State :=
  match (s.account n).program with
  | some g =>
    if g.threshold ≤ (s.account n).tray && !s.hasJob n .collect then (s.request n .collect).dispatch else s
  | none => s

/-- The bar's side of a cut: BAR_OVERRUN at the first cut with parts left already 0, and the count (R33, R40 steps
1 to 4). -/
def State.cutToBar (s : State) (n : Lathe) (g : Program) (c : CurrentBar) : State :=
  let a := s.account n
  let s1 :=
    if (a.partsLeft.getD 0) = 0 && !c.overrun then
      s.post (event .barOverrun (halves c.id (min (c.made + 1) Config.partsMadeMax)) (lathe := some n))
    else s
  s1.setAccount n (a.countCut g c s.now)

/-- An accepted cut counted by the account's state, taken whole (R40). -/
def State.takeCut (s : State) (n : Lathe) : State :=
  let a := s.account n
  match a.program with
  | none => s
  | some g =>
    let s1 :=
      if a.state.countsToBar then
        match a.current with
        | some c => s.cutToBar n g c
        | none => s
      else s
    let s2 := s1.setAccount n (s1.account n).countTray
    let s3 :=
      if a.state.countsToBar then s2
      else s2.post (event .strayCut (halves a.state.code (s2.account n).tray) (lathe := some n))
    ((s3.recomputeAndFire n).checkThreshold n).evalHold n

end Sys2Proof.Machine
end

