-- ==== Sys2Proof/Machine/Jobs.lean ====
section
/-! DEFINITION. The job sequencer from an order's end on: leaving the schedule, completion, the course of a job,
faults, and the outcome of each step (R80 to R86, R104 to R114, R119 to R140, R158, R159). -/
namespace Sys2Proof.Machine

open Sys2Proof

/-- The active job's slot and record. -/
def State.active (s : State) : Option (Slot × Job) := s.seq.job.bind fun i => (s.job i).map fun j => (i, j)

/-! ### Leaving the schedule (R80, R108 to R110) -/

/-- The claim of a job lowered out of its lane's claimed count (R80). -/
def State.releaseClaim (s : State) (j : Job) : State :=
  match j.claim, j.lane with
  | true, some k => s.setLane k { s.lane k with claimed := (s.lane k).claimed - 1 }
  | _, _ => s

/-- The stock gain that follows the release of a job's claim (R80, R99). -/
def State.gainOfRelease (s : State) (j : Job) : State :=
  match j.claim, j.lane with
  | true, some k => s.stockGain k
  | _, _ => s

/-- Slot `i` becomes empty, and off the stack if it was on it (R108, R109). -/
def State.vacate (s : State) (i : Slot) : State :=
  s.setSched { s.sched with slots := s.sched.slots.write i none, stack := s.sched.stack.erase i }

/-- A RETURN that leaves before its PICK at the cradle frees the lathe to act on its cradle again (R12). -/
def State.departed (s : State) (j : Job) : State := if j.kind = .ret then s.returnDeparted j.lathe else s

/-- A WAITING or SUSPENDED job cancelled (R108, R109). -/
def State.cancelIdle (s : State) (i : Slot) : State :=
  match s.job i with
  | none => s
  | some j =>
    let s1 := ((s.releaseClaim j).vacate i).serveDeferred.dispatch
    ((s1.gainOfRelease j).dispatch).departed j

/-- The guard wait of a removed job stopped, and the step timer unless an order, a CLEAR, still runs on it (R110,
R167). -/
def State.stopJobTimers (s : State) : State :=
  let s1 := s.setGuardWait .stopped
  if s1.shuttle.outstanding.isNone then s1.setStepTimer .stopped else s1

/-- The active job, with load NONE and no step order outstanding, removed from slot `i` (R110). -/
def State.removeActive (s : State) (i : Slot) : State :=
  match s.job i with
  | none => s
  | some j =>
    let s1 := (((s.stopJobTimers.releaseClaim j).setSeq .clear).releaseShuttle).vacate i
    (((s1.serveDeferred).gainOfRelease j).departed j).dispatch

/-! ### Completion (R107, R137) -/

/-- JOB_DONE of a DELIVER or COLLECT job, with its lateness (R137). -/
def State.jobDone (s : State) (j : Job) : State :=
  match j.kind with
  | .deliver =>
    s.post (event .jobDone (lateness s.now j.deadline) (lathe := some j.lathe) (lane := j.lane) (job := some j.id))
  | .collect =>
    s.post (event .jobDone (lateness s.now j.deadline) (lathe := some j.lathe) (bin := j.bin) (job := some j.id))
  | .ret => s

/-- The COLLECT job that a completed DUMP asks for when the tray stands at or above the threshold (R133). -/
def State.collectAgain (s : State) (n : Lathe) : State :=
  match (s.account n).program with
  | some g => if g.threshold ≤ (s.account n).tray then s.request n .collect else s
  | none => s

/-- What the completion brings besides the freed slot: a DUMP's request (R133), or a RETURN's departure before its
PICK (R12, R134). -/
inductive Ending where
  | plain | dumped | unpicked
  deriving DecidableEq, Repr

/-- The active job completes (R137) and the schedule handles the completion (R107). -/
def State.completeActive (s : State) (i : Slot) (e : Ending) : State :=
  match s.job i with
  | none => s
  | some j =>
    let s1 := ((((s.jobDone j).setSeq .clear).releaseShuttle).vacate i).serveDeferred
    let s2 := match e with
      | .plain => s1
      | .dumped => s1.collectAgain j.lathe
      | .unpicked => s1.returnDeparted j.lathe
    s2.dispatch

/-! ### Taking up a step and the course of a job (R104, R106, R112, R114, R119, R122) -/

/-- The PICK of a RETURN finds no cradle bar it may take (R134). -/
def State.nothingToPick (s : State) (j : Job) : Bool :=
  j.kind == .ret && j.step == .two &&
    match (s.account j.lathe).cradle with
    | some c => c.loading
    | none => true

/-- The active job's present step taken up: the checks in the order of R119, the cradle content first. -/
def State.takeUp (s : State) : State :=
  let s1 := s.beginStep
  match s1.active with
  | none => s1
  | some (i, j) => if s1.nothingToPick j then s1.completeActive i .unpicked else s1.checkAndIssue

/-- J of R106: the eligible job that takes the shuttle from the active job `a`. -/
def State.preemptor (s : State) (a : Job) : Option Slot :=
  match s.bestEligible with
  | some (i, j) =>
    if isBefore j.deadline a.deadline && decide (s.params.preemptMargin ≤ (a.deadline - j.deadline).toNat)
        && decide (s.sched.stack.length < Config.stackPlaces) then some i
    else none
  | none => none

/-- The job of slot `i` gives up the shuttle: onto the stack, or a COLLECT job whose bin blocks it into WAITING
with the block (R106). -/
def State.suspend (s : State) (i : Slot) : State :=
  match s.job i with
  | none => s
  | some j =>
    let block := match j.kind, j.bin with
      | .collect, some b => s.gate j.lathe b
      | _, _ => .none
    if block = .none then
      s.setSched
        { s.sched with
          slots := s.sched.slots.write i (some { j with state := .suspended, step := .one, short := false })
          stack := i :: s.sched.stack }
    else s.setSlot i (some { j with state := .waiting, block := block, step := .one, short := false })

/-- The active job at a boundary with no halt pending: preempted where R106 holds, otherwise its step is taken up
(R104, R122 steps 4 and 5). -/
def State.crossBoundary (s : State) : State :=
  match s.active with
  | none => s
  | some (i, j) =>
    if s.shuttle.load = .none then
      match s.preemptor j with
      | some k => (s.suspend i).startJob k
      | none => s.takeUp
    else s.takeUp

/-- The active job goes on to its step: a pending halt takes effect here (R122 step 3; log 13), otherwise the
boundary is crossed. -/
def State.goOn (s : State) : State :=
  if s.shuttle.haltPending then
    let s1 := s.beginStep
    (s1.setSeq { s1.seq with boundary := true }).setShuttle
      { s1.shuttle with state := .halted, haltPending := false }
  else s.crossBoundary

/-- The destination of the bar `b` of slot `i`'s job chosen: its home lane with the reservation where that is fit,
otherwise REJECT (R84). -/
def State.chooseDestination (s : State) (i : Slot) (b : BarRecord) : State :=
  if (s.lane b.home).fitFor b then
    (s.setLane b.home { s.lane b.home with reserved := 1 }).updateJob i fun j => { j with lane := some b.home }
  else s.updateJob i fun j => { j with lane := none }

/-- The active DELIVER job of slot `i`, which carries a bar, becomes a RETURN at step 3 (R114). -/
def State.convertToReturn (s : State) (i : Slot) : State :=
  match (s.job i).bind Job.bar with
  | none => s
  | some b =>
    let s1 := s.updateJob i fun j =>
      { j with
        kind := .ret
        short := false
        cancel := .none
        retries := 0
        deadline := s.now + BitVec.ofNat 32 s.params.preemptMargin
        claim := false
        step := .three }
    let s2 := s1.chooseDestination i b
    s2.setSeq { s2.seq with order := (s2.job i).bind Job.order }

/-- The course of the active job after an outcome that neither completes, parks nor blocks it, `next` being its next
step and `picked` saying that the outcome bound a bar: the cancel mark acts, or the job goes on (R112, R122). -/
def State.afterOutcome (s : State) (i : Slot) (next : StepIx) (picked : Bool) : State :=
  let s1 := s.updateJob i fun j => { j with step := next }
  match s1.job i with
  | none => s1
  | some j =>
    match j.cancel with
    | .none => s1.goOn
    | mark =>
      if s1.shuttle.load = .none then s1.removeActive i
      else if picked && !j.short then
        match mark with
        | .setup => (s1.convertToReturn i).goOn
        | _ => (s1.updateJob i fun j => { j with cancel := .none }).goOn
      else s1.goOn

/-! ### Faults (R121, R138, R159) -/

/-- The dump in flight of a failed DUMP released (R148). -/
def State.dropInFlight (s : State) (o : OutOrder) : State :=
  match o.kind, o.target with
  | .dump, some (.bin b) => s.setBin b { s.bin b with inFlight := 0 }
  | _, _ => s

/-- The sequencer told of a step order's fault: phase UNISSUED, the dump in flight released, and the cancel mark
acting where the load is NONE (R138, R148). -/
def State.freezeStep (s : State) (o : OutOrder) : State :=
  let s1 := (s.setSeq { s.seq with phase := .unissued }).dropInFlight o
  match s1.active with
  | some (i, j) => if j.cancel != .none && s1.shuttle.load == .none then s1.removeActive i else s1
  | none => s1

/-- The value field of DRIVE_FAULT, from its top byte down (R159). -/
def faultValue (f : FaultRecord) : BitVec 32 :=
  BitVec.ofNat 32 (f.code.code * 16777216 + f.failed.kind.code * 65536 + f.driveCode.toNat * 256 + f.loadSensed.code)

/-- The fault record formed at a declaration: a failed CLEAR keeps the order that failed before it (R159, R165). -/
def Shuttle.faultRecord (sh : Shuttle) (code : FaultCode) (drive : Byte) (o : OutOrder) : FaultRecord where
  code := code
  failed := match o.purpose, sh.fault with
    | .clear, some f => f.failed
    | _, _ => o
  driveCode := drive
  loadSensed := match sh.lastStatus with
    | some w => sensedLoad w
    | none => .none

/-- A fault of the order `o` declared (R159). -/
def State.declareFault (s : State) (code : FaultCode) (drive : Byte) (o : OutOrder) : State :=
  let rec_ := s.shuttle.faultRecord code drive o
  let s1 := (s.setStepTimer .stopped).setShuttle
    { s.shuttle with
      state := .fault
      outstanding := none
      heldWord := none
      noAnswer := 0
      fault := some rec_
      homeFailed := s.shuttle.homeFailed || o.purpose == .home }
  let s2 := if o.purpose = .step then s1.freezeStep o else s1
  s2.post (event .driveFault (faultValue rec_) (job := s2.active.map fun a => a.2.id))

/-! ### Outcomes of the steps (R120, R126 to R136) -/

/-- The shuttle load as an outcome leaves it (R120). -/
def State.setLoad (s : State) (l : Load) : State := s.setShuttle { s.shuttle with load := l }

/-- The active DELIVER job of slot `i` claims again: with a claim it restarts at step 1, without one it is blocked
NO_STOCK and leaves the shuttle (R127, R128). -/
def State.reclaim (s : State) (i : Slot) : State :=
  match (s.job i).bind fun j => s.claimLaneFor j.lathe with
  | some k => ((s.takeClaim i k).updateJob i fun j => { j with step := .one, short := false }).goOn
  | none => (((s.enterNoStock i).setSeq .clear).releaseShuttle).dispatch

/-- A bar of this length is short for lathe `n`'s program (R32). -/
def State.shortFor (s : State) (n : Lathe) (length : Nat) : Bool :=
  match (s.account n).program with
  | some g => g.isShort length
  | none => false

/-- PICK LANE k with a bar sensed (R81, R126): the front record is bound, and a short bar takes the short branch. -/
def State.pickLaneBar (s : State) (i : Slot) (j : Job) (k : LaneNo) : State :=
  match (s.lane k).bars with
  | [] => s
  | b :: rest =>
    let s1 := (s.setLane k { s.lane k with bars := rest, claimed := (s.lane k).claimed - 1 }).setLoad .bar
    let short := s.shortFor j.lathe b.length
    let s2 := s1.setSlot i (some
      { j with
        bar := some b
        claim := false
        short := short
        retries := if short then j.retries + 1 else j.retries })
    let s3 :=
      if short then
        s2.post (event .shortBar (halves b.id b.length) (lathe := some j.lathe) (lane := some k) (job := some j.id))
      else s2
    s3.afterOutcome i .three true

/-- A job loses its claim before another, which stands in a lower slot: the later deadline, then the later creation
time, then the higher slot (R98). -/
def Job.losesBefore (a b : Job) : Bool :=
  if a.deadline = b.deadline then a.created == b.created || isBefore b.created a.created
  else isBefore b.deadline a.deadline

/-- A DELIVER job, not the active one, that holds a claim on lane `k`. -/
def Job.holdsClaim (k : LaneNo) (j : Job) : Bool :=
  j.kind == .deliver && j.claim && j.lane == some k && j.state != .active

/-- The claims of lane `k` in excess of its bar list withdrawn, one by one (R82 step 4, R98). -/
def State.withdrawExcess (k : LaneNo) : Nat → State → State
  | 0, s => s
  | fuel + 1, s =>
    if (s.lane k).bars.length < (s.lane k).claimed then
      match s.bestJob (Job.holdsClaim k) Job.losesBefore with
      | some (i, _) =>
        let s1 := s.setLane k { s.lane k with claimed := (s.lane k).claimed - 1 }
        let s2 := s1.setSched { s1.sched with stack := s1.sched.stack.erase i }
        State.withdrawExcess k fuel (s2.enterNoStock i)
      | none => s
    else s

/-- PICK LANE k with no bar sensed (R82, R128): the missing front bar is dropped, the claim ends, claims in excess
are withdrawn, and the job is removed by its mark or claims again. -/
def State.pickLaneMissing (s : State) (i : Slot) (j : Job) (k : LaneNo) : State :=
  match (s.lane k).bars with
  | [] => s
  | b :: rest =>
    let s1 := (s.setLane k { s.lane k with bars := rest }).setLoad .none
    let s2 := s1.post (event .laneMissing (halves b.id rest.length) (lane := some k) (job := some j.id))
    let s3 := s2.setLane k { s2.lane k with claimed := (s2.lane k).claimed - 1 }
    let s4 := State.withdrawExcess k 32 (s3.setSlot i (some { j with claim := false }))
    if j.cancel = .none then s4.reclaim i else s4.removeActive i

/-- A placed bar becomes the cradle bar of lathe `n`, and the account acts on its state (R25). -/
def State.stageCradle (s : State) (n : Lathe) (b : BarRecord) : State :=
  let s1 := (s.setAccount n { s.account n with cradle := some ⟨b, false⟩ }).notice n (stagedMsg b)
  if (s1.account n).state = .await then s1.actOnCradle n else s1.settleCompare n

/-- PLACE LATHE n of a DELIVER job (R129). -/
def State.placeLathe (s : State) (i : Slot) (j : Job) : State :=
  match j.bar with
  | none => s
  | some b =>
    let s1 := (s.setLoad .none).setSlot i (some { j with bar := none })
    ((s1.stageCradle j.lathe b).evalHold j.lathe).completeActive i .plain

/-- The reject rack count raised by a placement (R86). -/
def State.rejectBar (s : State) : State := s.setRack { s.rack with reject := s.rack.reject + 1 }

/-- The stock-short flag of an account set to `v` (R27). -/
def State.setStockShort (s : State) (n : Lathe) (v : Bool) : State :=
  s.setAccount n { s.account n with stockShort := v }

/-- PLACE REJECT of the short branch (R127): the third short bar cancels the job and sets the stock-short flag
(R113). -/
def State.placeShort (s : State) (i : Slot) (j : Job) : State :=
  let s1 := ((s.setLoad .none).rejectBar).setSlot i (some { j with bar := none, short := false })
  let s2 :=
    if Config.shortBarLimit ≤ j.retries then (s1.setStockShort j.lathe true).removeActive i
    else if j.cancel = .none then s1.reclaim i
    else s1.removeActive i
  s2

/-- EMPTY LATHE n with parts sensed (R131): T_issue parts leave the tray. -/
def State.emptyParts (s : State) (i : Slot) (j : Job) : State :=
  let x := s.seq.tIssue
  let s1 := (s.setLoad .parts).setSlot i (some { j with parts := x })
  let s2 := s1.setAccount j.lathe { s1.account j.lathe with tray := (s1.account j.lathe).tray - x }
  ((s2.recomputeAndFire j.lathe).evalHold j.lathe).afterOutcome i .three false

/-- EMPTY LATHE n with nothing sensed (R131): TRAY_MISMATCH, and the job completes. -/
def State.emptyNothing (s : State) (i : Slot) (j : Job) : State :=
  let s1 := (s.setLoad .none).post
    (event .trayMismatch (halves s.seq.tIssue (s.account j.lathe).tray) (lathe := some j.lathe) (job := some j.id))
  ((s1.recomputeAndFire j.lathe).evalHold j.lathe).completeActive i .plain

/-- DUMP BIN b (R133): the parts enter the bin, the other COLLECT jobs' blocks are evaluated, and the job
completes (log 10). -/
def State.dumpDone (s : State) (i : Slot) (j : Job) (b : BinNo) : State :=
  let s1 := (s.setLoad .none).setBin b
    { s.bin b with count := (s.bin b).count + (s.bin b).inFlight, inFlight := 0 }
  ((s1.setSlot i (some { j with parts := 0 })).evalBins b).completeActive i .dumped

/-- The bar record a PICK at a cradle finds: the cradle bar's, or where the lathe has emptied the cradle since the
issue a record of free values within the ranges of R67, its id the first not in use after a free value (R66, R68;
log 30). -/
def State.pickedRecord (s : State) (n : Lathe) : BarRecord × State :=
  match (s.account n).cradle with
  | some c => (c.bar, s)
  | none =>
    let v (k : Nat) : Nat := Config.freeValue (s.draws + k)
    let id := freeId Config.barIdMax s.barIds s.barIds.length (v 0 % 65536)
    (⟨id, 1000 + v 1 % 39001, BitVec.ofNat 16 (v 2), Fin.ofNat 24 (v 3), 1 + v 4 % 255, 1 + v 5 % 15, v 6 % 2 == 1⟩,
      s.setDraws (s.draws + 7))

/-- The cradle of lathe `n` emptied by a RETURN's PICK, and the account's answer to it (R26). -/
def State.emptyCradle (s : State) (n : Lathe) : State :=
  let s1 := s.setAccount n { s.account n with cradle := none }
  let s2 := if (s1.account n).wantsCompare then s1.rearm n else s1
  if (s2.account n).state = .await then s2.wantBar n else s2

/-- PICK LATHE n of a RETURN with a bar sensed (R135). -/
def State.returnPickBar (s : State) (i : Slot) (j : Job) : State :=
  let (b, s0) := s.pickedRecord j.lathe
  let s1 := (s0.setLoad .bar).setSlot i (some { j with bar := some b })
  (((s1.emptyCradle j.lathe).evalHold j.lathe).chooseDestination i b).afterOutcome i .three true

/-- PICK LATHE n of a RETURN with nothing sensed (R135): CRADLE_MISSING, and the job completes. -/
def State.returnPickMissing (s : State) (i : Slot) (j : Job) : State :=
  let (b, s0) := s.pickedRecord j.lathe
  let s1 := (s0.setLoad .none).post
    (event .cradleMissing (BitVec.ofNat 32 b.id) (lathe := some j.lathe) (job := some j.id))
  ((s1.emptyCradle j.lathe).evalHold j.lathe).completeActive i .plain

/-- The PLACE at the destination of a RETURN (R85, R86, R136). -/
def State.returnPlace (s : State) (i : Slot) (j : Job) : State :=
  match j.bar with
  | none => s
  | some b =>
    let s1 := (s.setLoad .none).setSlot i (some { j with bar := none })
    match j.lane with
    | some k =>
      let s2 := s1.setLane k
        { s1.lane k with bars := { b with returned := true } :: (s1.lane k).bars, reserved := 0 }
      (s2.stockGain k).completeActive i .plain
    | none => (s1.rejectBar).completeActive i .plain

/-- The outcome of a step with an accepted load, by the table of R120. -/
def State.takeOutcome (s : State) (i : Slot) (j : Job) (l : Load) : State :=
  match j.kind, j.step with
  | .deliver, .two =>
    match j.lane with
    | some k => if l = .bar then s.pickLaneBar i j k else s.pickLaneMissing i j k
    | none => s
  | .deliver, .four => if j.short then s.placeShort i j else s.placeLathe i j
  | .collect, .two => if l = .parts then s.emptyParts i j else s.emptyNothing i j
  | .collect, .four =>
    match j.bin with
    | some b => s.dumpDone i j b
    | none => s
  | .ret, .two => if l = .bar then s.returnPickBar i j else s.returnPickMissing i j
  | .ret, .four => s.returnPlace i j
  | _, .one => (s.setLoad l).afterOutcome i .two false
  | _, .three => (s.setLoad l).afterOutcome i .four false

/-- The completion of a step's order handed to the sequencer with the load sensed (R120, R121). -/
def State.stepOutcome (s : State) (o : OutOrder) (l : Load) : State :=
  match s.active with
  | none => s
  | some (i, j) => if j.accepts l then s.takeOutcome i j l else s.declareFault .load 0 o

end Sys2Proof.Machine
end

