-- ==== Sys2Proof/Machine/Characters.lean ====
section
/-! DEFINITION. Characters on a link line: how a message is sent bit by bit, and how the samples of a received
character decide what it is (R169 to R171, R179). -/
namespace Sys2Proof

/-! ### Sent characters (R169, R179) -/

/-- The parity bit that makes the count of ones among the data bits, the mark bit and itself even (R169). -/
def evenParity (b : Byte) (mark : Bool) : Bool :=
  (List.range 8).foldl (fun acc i => acc ^^ b.getLsbD i) mark

/-- The bits of a character in the order of R169: start, data from the least significant on, mark, parity where it is
on, stop. A high bit is `true`. -/
def charBits (parity mark : Bool) (b : Byte) : List Bool :=
  [false] ++ (List.range 8).map b.getLsbD ++ [mark] ++ (if parity then [evenParity b mark] else []) ++ [true]

/-- The characters of a message's bytes: the mark bit is 1 in the head and 0 in every other (R173, R179). -/
def sentChars (parity : Bool) : List Byte → List (List Bool)
  | [] => []
  | kind :: rest => charBits parity true kind :: rest.map (charBits parity false)

/-! ### Received characters (R170, R171) -/

/-- What a bit decides to: the majority of its three samples (R170). -/
def majority (x : Samples) : Bool :=
  (x.getLsbD 0 && x.getLsbD 1) || (x.getLsbD 0 && x.getLsbD 2) || (x.getLsbD 1 && x.getLsbD 2)

/-- The three samples of a bit do not all agree (R170). -/
def disagree (x : Samples) : Bool := x != 0 && x != 7

/-- The samples of a bit that stands undisturbed at `b`. -/
def steady (b : Bool) : Samples := if b then 7 else 0

/-- The byte that the data bits decide to, least significant first (R169, R170). -/
def RxChar.byte (c : RxChar) : Byte :=
  (List.finRange 8).foldl (fun v i => if majority (c.data.read i) then v ||| BitVec.twoPow 8 i.val else v) 0

/-- The noise mark: some bit of the character has samples that do not all agree; the parity bit is one of them only
with parity on (R170). -/
def RxChar.noise (c : RxChar) (parity : Bool) : Bool :=
  disagree c.start || (List.finRange 8).any (fun i => disagree (c.data.read i)) || disagree c.mark
    || (parity && disagree c.parity) || disagree c.stop

/-- What a candidate character turns out to be. -/
inductive Received where
  /-- the start bit decided high (R170) -/
  | falseStart
  /-- mark bit 1 (R170) -/
  | head (b : Byte)
  /-- mark bit 0 (R170) -/
  | data (b : Byte)
  /-- a character in error (R171) -/
  | error (e : CharError)
  deriving DecidableEq, Repr

/-- A head character. -/
def Received.isHead : Received → Bool
  | .head _ => true
  | _ => false

/-- A data character. -/
def Received.isData : Received → Bool
  | .data _ => true
  | _ => false

/-- A candidate character decided at a port's parity setting: a false start, a framing error, a parity error, which
there is with parity on only, or a head or data character (R170, R171). -/
def RxChar.received (c : RxChar) (parity : Bool) : Received :=
  if majority c.start then .falseStart
  else if !majority c.stop then .error .framing
  else if parity && majority c.parity != evenParity c.byte (majority c.mark) then .error .parity
  else if majority c.mark then .head c.byte
  else .data c.byte

/-- The character that an undisturbed line shows for these bits, its last bit the stop bit. -/
def RxChar.ofBits (bits : List Bool) : RxChar where
  fromHigh := true
  start := steady (bits.getD 0 true)
  data := Vector.ofFn fun i : Fin 8 => steady (bits.getD (i.val + 1) true)
  mark := steady (bits.getD 9 true)
  parity := steady (bits.getD 10 true)
  stop := steady (bits.getLastD true)

end Sys2Proof
end

