-- ==== Sys2Proof/Machine/Links.lean ====
section
/-! DEFINITION. The link ports: MESSAGE_BEGUN, DATA_CHARACTER, MESSAGE_COMPLETE, MESSAGE_TRUNCATED,
CHARACTER_ERROR, LINE_IDLE_LIMIT, LINK_BREAK, BREAK_END, TRANSMIT_START, TRANSMIT_DONE, RESTART_BREAK_SEND and
RESTART_BREAK_END (R21, R170 to R183). A row acts on a character that decides to what
the row names, and the receive state decides what the character does (log 18). -/
namespace Sys2Proof.Machine

open Sys2Proof

/-! ### Error counts (R181) -/

/-- A count raised by 1 up to 255. -/
def raiseCount (k : Nat) : Nat := min (k + 1) Config.errorMax

def ErrorCounts.addNoise (c : ErrorCounts) : ErrorCounts := { c with noise := raiseCount c.noise }
def ErrorCounts.addFraming (c : ErrorCounts) : ErrorCounts := { c with framing := raiseCount c.framing }
def ErrorCounts.addParity (c : ErrorCounts) : ErrorCounts := { c with parity := raiseCount c.parity }
def ErrorCounts.addOverrun (c : ErrorCounts) : ErrorCounts := { c with overrun := raiseCount c.overrun }
def ErrorCounts.addTruncated (c : ErrorCounts) : ErrorCounts := { c with truncated := raiseCount c.truncated }
def ErrorCounts.addBad (c : ErrorCounts) : ErrorCounts := { c with bad := raiseCount c.bad }

/-- The noise count of a character with its noise mark (R170). -/
def Port.noise (q : Port) (marked : Bool) : Port := if marked then { q with counts := q.counts.addNoise } else q
/-- A message counted bad (R174, R175). -/
def Port.bad (q : Port) : Port := { q with counts := q.counts.addBad }

/-! ### Characters (R170, R171, R174 to R176) -/

/-- A message in reception ended by a new head character or by the idle limit (R174). -/
def Port.truncate (q : Port) : Port :=
  match q.rx with
  | .inMessage _ => { q with counts := q.counts.addTruncated }
  | _ => q

/-- A head character received on port `p` (R174). -/
def Port.head (q : Port) (p : PortNo) (b : Byte) : Port :=
  if knownKind p b then { q.truncate with rx := .inMessage [b] } else { q.truncate.bad with rx := .discarding }

/-- A completed message offered to the mailbox, lost with an overrun when it is full (R176). -/
def Port.offer (q : Port) (bytes : List Byte) : Port :=
  match q.mailbox with
  | none => { q with mailbox := some bytes }
  | some _ => { q with counts := q.counts.addOverrun }

/-- A message in reception with its new byte joined: the LEN byte checked, the last byte completing it (R175). -/
def Port.join (q : Port) (bytes : List Byte) : Port :=
  let len := (bytes.getD 1 0).toNat
  if bytes.length = 2 then
    if 3 ≤ len && len ≤ 24 then { q with rx := .inMessage bytes } else { q.bad with rx := .discarding }
  else if bytes.length < len then { q with rx := .inMessage bytes }
  else if byteSum bytes = 0 then { q.offer bytes with rx := .lineIdle }
  else { q.bad with rx := .lineIdle }

/-- A data character received (R174, R175). -/
def Port.data (q : Port) (b : Byte) : Port :=
  match q.rx with
  | .inMessage bytes => q.join (bytes ++ [b])
  | _ => q

/-- A character in error received (R171). -/
def Port.errorChar (q : Port) (e : CharError) : Port :=
  { q with
    rx := .discarding
    counts := match e with
      | .framing => q.counts.addFraming
      | .parity => q.counts.addParity }

/-- A received character taken by the receive state; a false start leaves no trace (R170, R171, R174). -/
def Port.take (q : Port) (p : PortNo) (noise : Bool) : Received → Port
  | .falseStart => q
  | .head b => (q.noise noise).head p b
  | .data b => (q.noise noise).data b
  | .error e => (q.noise noise).errorChar e

/-- The receiver looks for a start bit: its line has been seen high since it last had to be, and is not broken (R170 to
R172). -/
def Port.looks (q : Port) (c : RxChar) : Bool := q.rx != .broken && (q.seenHigh || c.fromHigh)

/-- A candidate character on the line of port `p`: decided bit by bit at the port's setting, and, where it is what the
row names, taken by the receive state. A framing error leaves the receiver waiting for a high line (R170, R171). -/
def Port.hear (q : Port) (p : PortNo) (c : RxChar) (named : Received → Bool) : Port :=
  let r := c.received q.setting.parity
  if q.looks c && named r then
    { q.take p (c.noise q.setting.parity) r with seenHigh := r != .error .framing }
  else q

/-- MESSAGE_BEGUN (R174). -/
def execMessageBegun (p : PortNo) (c : RxChar) (s : State) : Host.Outcome State Fault Refusal :=
  .next (s.setPort p ((s.port p).hear p c Received.isHead))

/-- MESSAGE_TRUNCATED (R174). -/
def execMessageTruncated (p : PortNo) (c : RxChar) (s : State) : Host.Outcome State Fault Refusal :=
  .next (s.setPort p ((s.port p).hear p c Received.isHead))

/-- DATA_CHARACTER (R175). -/
def execDataCharacter (p : PortNo) (c : RxChar) (s : State) : Host.Outcome State Fault Refusal :=
  .next (s.setPort p ((s.port p).hear p c Received.isData))

/-- MESSAGE_COMPLETE (R175, R176). -/
def execMessageComplete (p : PortNo) (c : RxChar) (s : State) : Host.Outcome State Fault Refusal :=
  .next (s.setPort p ((s.port p).hear p c Received.isData))

/-- CHARACTER_ERROR (R171). -/
def execCharacterError (p : PortNo) (e : CharError) (c : RxChar) (s : State) : Host.Outcome State Fault Refusal :=
  .next (s.setPort p ((s.port p).hear p c (· == .error e)))

/-- LINE_IDLE_LIMIT (R174): a message in reception is truncated; in any other receive state nothing happens. -/
def execLineIdleLimit (p : PortNo) (s : State) : Host.Outcome State Fault Refusal :=
  .next <|
    match (s.port p).rx with
    | .inMessage _ => s.setPort p { (s.port p).truncate with rx := .lineIdle }
    | _ => s

/-! ### Breaks (R21, R172) -/

/-- The lathe of a port, if it is a lathe's. -/
def latheOf (p : PortNo) : Option Lathe := if h : p.val < 12 then some ⟨p.val, h⟩ else none

/-- Account `n` becomes LOST with this resume state (R21). -/
def State.loseLathe (s : State) (n : Lathe) (r : ResumeState) : State :=
  (s.setAccount n { s.account n with resume := r }).goTo n .lost

/-- A break in LOADING takes the bar as pushed, with the predictions recomputed as for LOADED (R21, R42). The
recomputation rewrites the deadlines of the lathe's jobs, though R91 says that they keep them through a break: the
model follows R21 and R42 (its own choice, log 34). -/
def State.breakLoading (s : State) (n : Lathe) : State :=
  let s1 := s.setAccount n { (s.account n).loadBar s.now with loadTimer := .stopped }
  (s1.loseLathe n .running).recomputeAndFire n

/-- The account's handling of a break, after LINK_BREAK (R21). -/
def State.breakByState (s : State) (n : Lathe) : State :=
  match (s.account n).state with
  | .noProg => s
  | .idle => s.loseLathe n .idle
  | .await => s.loseLathe n .await
  | .loading => s.breakLoading n
  | .running => s.loseLathe n .running
  | .stopped =>
    let s1 := s.loseLathe n (s.account n).resume
    if (s1.account n).wantsCompare then s1.rearm n else s1
  | .lost => s

/-- The account's break taken whole (R21, R23). -/
def State.accountBreak (s : State) (n : Lathe) : State :=
  let s1 := s.post (event .linkBreak (BitVec.ofNat 32 (s.account n).state.code) (lathe := some n))
  (s1.breakByState n).evalHold n

/-- LINK_BREAK (R172): the port goes to BROKEN, and a lathe's account takes the break. A port that is BROKEN already
reports no second break. -/
def execLinkBreak (p : PortNo) (s : State) : Host.Outcome State Fault Refusal :=
  .next <|
    match (s.port p).rx with
    | .broken => s
    | _ =>
      let s1 := s.setPort p { s.port p with rx := .broken }
      match latheOf p with
      | some n => s1.accountBreak n
      | none => s1

/-- BREAK_END (R172): the line of a BROKEN port is seen high, and the port goes to LINE_IDLE. -/
def execBreakEnd (p : PortNo) (s : State) : Host.Outcome State Fault Refusal :=
  .next <|
    match (s.port p).rx with
    | .broken => s.setPort p { s.port p with rx := .lineIdle, seenHigh := true }
    | _ => s

/-! ### Sending (R179, R180, R183) -/

/-- The characters that a port's transmitter sends for the message in its register, at the setting it runs at
(R179, R180). -/
def Port.sending (q : Port) : List (List Bool) :=
  match q.tx with
  | some m => sentChars q.txSetting.parity m.bytes
  | none => []

/-- TRANSMIT_START (R179): with the transmit register empty and no restart break to send, the head of the queue
moves into the register, at the setting held (R180). -/
def execTransmitStart (p : PortNo) (s : State) : Host.Outcome State Fault Refusal :=
  let q := s.port p
  .next <|
    match q.tx, q.queue with
    | none, m :: rest =>
      if q.breakMark || q.breaking then s
      else s.setPort p { q with tx := some m, queue := rest, txSetting := q.setting }
    | _, _ => s

/-- TRANSMIT_DONE (R179): the register is empty; a setting of LP12 that waited for its ACK is taken (R180). -/
def execTransmitDone (p : PortNo) (s : State) : Host.Outcome State Fault Refusal :=
  let q := s.port p
  .next <|
    match q.tx with
    | none => s
    | some _ =>
      match q.newSetting with
      | some x => s.setPort p { q with tx := none, setting := x, txSetting := x, newSetting := none }
      | none => s.setPort p { q with tx := none }

/-- RESTART_BREAK_SEND (R183): a port whose mark is set starts its break when its transmit register is empty. -/
def execRestartBreakSend (p : PortNo) (s : State) : Host.Outcome State Fault Refusal :=
  let q := s.port p
  .next <|
    if q.breakMark && q.tx.isNone && !q.breaking then s.setPort p { q with breaking := true, txSetting := q.setting }
    else s

/-- RESTART_BREAK_END (R183): the break has been sent and the mark is cleared. -/
def execRestartBreakEnd (p : PortNo) (s : State) : Host.Outcome State Fault Refusal :=
  let q := s.port p
  .next <| if q.breaking then s.setPort p { q with breaking := false, breakMark := false } else s

end Sys2Proof.Machine
end

