-- ==== Sys2Proof/Machine/LatheRequests.lean ====
section
/-! DEFINITION. The lathe requests: SETUP, READY, LOADED, STOP, RESUME and STATUS (R7 to R20, R111). Each handler
queues its reply before the notices its effects raise (R20, R178). -/
namespace Sys2Proof.Machine

open Sys2Proof

/-- A request taken on port `p` at the decoder: only while the port holds no reply not yet fully sent (R177;
log 1). -/
def State.taken (s : State) (p : PortNo) (f : State → State) : State :=
  if (s.port p).replyPending then s else f s

/-- ACK of a request of this kind, to port `p`. -/
def State.ack (s : State) (p : PortNo) (kind : Byte) : State := s.reply p (ackMsg p kind)
/-- REFUSED of a request of this kind, to port `p`. -/
def State.refuse (s : State) (p : PortNo) (kind : Byte) (c : RefusalCode) : State := s.reply p (refusedMsg p kind c)

/-! ### SETUP (R7 to R11) -/

/-- The SETUP sets "bar present". -/
def barPresent (m : SetupMsg) : Bool := m.options.getLsbD 0

/-- The field check of R7. -/
def setupWellFormed (m : SetupMsg) : Bool :=
  m.material != 0 && decide (1 ≤ m.diameter.toNat) && decide (m.diameter.toNat ≤ 15)
    && decide (10 ≤ m.part.toNat) && decide (m.part.toNat ≤ 20000) && m.capacity != 0 && decide (m.bin.toNat ≤ 7)
    && decide (m.options.toNat < 4) && (barPresent m == m.remaining.isSome)
    && match m.remaining with
      | some r => decide (1 ≤ r.toNat) && decide (r.toNat ≤ 40000)
      | none => true

/-- `v` brought into the range from `lo` to `hi`. -/
def clamp (lo hi v : Nat) : Nat := max lo (min v hi)

/-- The program held for a SETUP that passes R7: its fields clamped (R8). -/
def heldProgram (m : SetupMsg) : Program :=
  let capacity := clamp 1 999 m.capacity.toNat
  { material := m.material.toNat
    diameter := m.diameter.toNat
    part := m.part.toNat
    kerf := clamp 5 80 m.kerf.toNat
    face := clamp 0 100 m.face.toNat
    remnant := clamp 200 5000 m.remnant.toNat
    capacity := capacity
    threshold := clamp 1 capacity m.threshold.toNat
    bin := Fin.ofNat 8 m.bin.toNat
    nominal := clamp 1 36000 m.nominal.toNat
    edge := if m.options.getLsbD 1 then .falling else .rising }

/-- The lathe's DELIVER job is ACTIVE and the shuttle carries its bar (R9). -/
def State.delivering (s : State) (n : Lathe) : Bool :=
  match s.active with
  | some (_, j) => j.kind == .deliver && j.lathe == n && s.shuttle.load == .bar
  | none => false

/-- The refusal of a SETUP, if any: the field check first, then the state checks (R7, R9). -/
def State.setupRefusal (s : State) (n : Lathe) (m : SetupMsg) : Option RefusalCode :=
  if !setupWellFormed m then some .badField
  else
    match (s.account n).state with
    | .loading => some .wrongState
    | .running => some .barInSpindle
    | _ => if s.delivering n then some .deliveryInFlight else none

/-- The cancellation of the lathe's DELIVER job by STOP or SETUP (R111). -/
def State.cancelDeliver (s : State) (n : Lathe) (mark : CancelMark) : State :=
  match s.findJob n .deliver with
  | none => s
  | some i =>
    match s.job i with
    | none => s
    | some j =>
      match j.state with
      | .active =>
        if s.shuttle.load = .none then
          if s.seq.phase = .outstanding then s.setSlot i (some { j with cancel := mark }) else s.removeActive i
        else if mark == .stop && j.short then s.setSlot i (some { j with cancel := mark })
        else s
      | _ => s.cancelIdle i

/-- The current bar that a SETUP declares: untracked, of the reported remaining length (R3, R29). -/
def declaredBar (m : SetupMsg) (g : Program) : Option CurrentBar :=
  m.remaining.map fun r => ⟨0, r.toNat + g.face, 0, r.toNat, 0, false⟩

/-- An account with the new program installed and the spindle declared (R10 steps 1 to 3 and 5). -/
def Account.install (a : Account) (m : SetupMsg) (sel : TickSel) (now : Time) : Account :=
  let g := heldProgram m
  let held := m.remaining.isSome
  { a with
    program := some g
    cycle := some (cycleStart g.nominal sel)
    current := declaredBar m g
    partsLeft := none
    tOut := none
    tLast := if held then .fresh now else a.tLast
    sampleValid := if held then false else a.sampleValid
    loadFault := false
    stockShort := false
    resume := if a.state = .stopped then (if held then .running else .idle) else a.resume }

/-- The state that an accepted SETUP leaves (R10 step 4). -/
def AcctState.afterSetup (st : AcctState) (held : Bool) : AcctState :=
  if st = .stopped then .stopped else if held then .running else .idle

/-- The cradle bar compared with the new program: an unsuitable one asks for a RETURN job (R11 step 2). -/
def State.checkCradle (s : State) (n : Lathe) (g : Program) : State :=
  match (s.account n).cradle with
  | some c => if g.unsuitable c.bar then (s.request n .ret).dispatch else s
  | none => s

/-- The blocks of the lathe's COLLECT job under the new capacity (R100), and the threshold check (R11 step 3;
log 24). -/
def State.checkTray (s : State) (n : Lathe) : State :=
  let s1 := match s.findJob n .collect with
    | some i => (s.evalBinBlock i).dispatch
    | none => s
  s1.checkThreshold n

/-- The effects of an accepted SETUP (R10, R11). The request of a compare that fires at step 6 follows the
cancellation of the old DELIVER job (log 8). -/
def State.acceptSetup (s : State) (n : Lathe) (m : SetupMsg) : State :=
  let held := m.remaining.isSome
  let s1 := s.setAccount n ((s.account n).install m s.timer.sel s.now)
  let s2 := s1.goTo n ((s.account n).state.afterSetup held)
  let s3 := (((s2.recompute n).1.cancelDeliver n .setup).fireIf n (s2.recompute n).2)
  ((s3.checkCradle n (heldProgram m)).checkTray n).evalHold n

/-- SETUP handled whole: refused, or acknowledged and accepted. -/
def State.handleSetup (s : State) (n : Lathe) (m : SetupMsg) : State :=
  match s.setupRefusal n m with
  | some c => s.refuse (lathePort n) 0x21 c
  | none => (s.ack (lathePort n) 0x21).acceptSetup n m

/-! ### READY (R12, R13) -/

/-- The event of a bar end: BAR_END, or EARLY_BAR_END with parts left (R13). -/
def barEndEvent (n : Lathe) (g : Program) (c : CurrentBar) (left : Nat) : EventRec :=
  event (if left = 0 then .barEnd else .earlyBarEnd) (halves c.remaining (c.remaining - left * g.pitch))
    (lathe := some n)

/-- The bar end that READY reports in RUNNING: the event, the bar removed, the compare disarmed (R13). -/
def State.endBar (s : State) (n : Lathe) : State :=
  let a := s.account n
  let s1 := match a.program, a.current with
    | some g, some c => s.post (barEndEvent n g c (a.partsLeft.getD 0))
    | _, _ => s
  (s1.setAccount n a.dropBar).setCompare n (s1.compareOf n).disarm

/-- READY handled whole (R13). -/
def State.handleReady (s : State) (n : Lathe) : State :=
  let p := lathePort n
  match (s.account n).state with
  | .running => ((((s.ack p 0x22).endBar n).enterAwait n)).evalHold n
  | .idle => ((s.ack p 0x22).enterAwait n).evalHold n
  | .await => s.ack p 0x22
  | .loading => s.refuse p 0x22 .wrongState
  | .noProg => s.refuse p 0x22 .noProgram
  | .lost => s.refuse p 0x22 .linkLost
  | .stopped =>
    if (s.account n).loadFault then
      let s1 := s.ack p 0x22
      ((s1.setAccount n { s1.account n with loadFault := false }).enterAwait n).evalHold n
    else s.refuse p 0x22 .wrongState

/-! ### LOADED (R14, R15) -/

/-- A load completed: the timer stopped, the cradle bar current, RUNNING, the predictions and the compare (R14). -/
def State.completeLoad (s : State) (n : Lathe) : State :=
  let a := s.account n
  let s1 := s.setAccount n { a.loadBar s.now with loadTimer := .stopped }
  ((s1.goTo n .running).recomputeAndFire n).evalHold n

/-- LOADED handled whole (R14, R15). -/
def State.handleLoaded (s : State) (n : Lathe) : State :=
  let p := lathePort n
  let a := s.account n
  match a.state with
  | .loading => (s.ack p 0x23).completeLoad n
  | .stopped =>
    if a.loadFault && a.cradle.isSome then
      let s1 := s.ack p 0x23
      (s1.setAccount n { s1.account n with loadFault := false }).completeLoad n
    else s.refuse p 0x23 .wrongState
  | .noProg => s.refuse p 0x23 .noProgram
  | .lost => s.refuse p 0x23 .linkLost
  | .idle => s.refuse p 0x23 .wrongState
  | .await => s.refuse p 0x23 .wrongState
  | .running => s.refuse p 0x23 .wrongState

/-! ### STOP and RESUME (R17, R18) -/

/-- STOP taken in IDLE, AWAIT or RUNNING (R17). -/
def State.stopLathe (s : State) (n : Lathe) (r : ResumeState) : State :=
  let s1 := (s.setAccount n { s.account n with resume := r }).goTo n .stopped
  ((s1.settleCompare n).cancelDeliver n .stop).evalHold n

/-- STOP handled whole (R17). -/
def State.handleStop (s : State) (n : Lathe) : State :=
  let p := lathePort n
  match (s.account n).state with
  | .idle => (s.ack p 0x24).stopLathe n .idle
  | .await => (s.ack p 0x24).stopLathe n .await
  | .running => (s.ack p 0x24).stopLathe n .running
  | .stopped => s.ack p 0x24
  | .loading => s.refuse p 0x24 .loadingBusy
  | .noProg => s.refuse p 0x24 .noProgram
  | .lost => s.refuse p 0x24 .linkLost

/-- The return to the resume state with its effects (R18). -/
def State.toResume (s : State) (n : Lathe) : State :=
  match (s.account n).resume with
  | .running => (s.goTo n .running).recomputeAndFire n
  | .await => s.enterAwait n
  | .idle => s.goTo n .idle

/-- RESUME handled whole (R18). -/
def State.handleResume (s : State) (n : Lathe) : State :=
  let p := lathePort n
  let a := s.account n
  match a.state with
  | .stopped => if a.loadFault then s.refuse p 0x25 .loadFault else ((s.ack p 0x25).toResume n).evalHold n
  | .lost =>
    if a.loadFault then (((s.ack p 0x25).goTo n .stopped).settleCompare n).evalHold n
    else ((s.ack p 0x25).toResume n).evalHold n
  | .noProg => s.refuse p 0x25 .noProgram
  | .idle => s.ack p 0x25
  | .await => s.ack p 0x25
  | .loading => s.ack p 0x25
  | .running => s.ack p 0x25

/-- STATUS handled whole (R19). -/
def State.handleStatus (s : State) (n : Lathe) : State := s.reply (lathePort n) (accountMsg (s.account n))

/-! ### The commands -/

/-- SETUP. -/
def execSetup (n : Lathe) (m : SetupMsg) (s : State) : Host.Outcome State Fault Refusal :=
  .next (s.taken (lathePort n) fun s => s.handleSetup n m)
/-- READY. -/
def execReady (n : Lathe) (s : State) : Host.Outcome State Fault Refusal :=
  .next (s.taken (lathePort n) fun s => s.handleReady n)
/-- LOADED. -/
def execLoaded (n : Lathe) (s : State) : Host.Outcome State Fault Refusal :=
  .next (s.taken (lathePort n) fun s => s.handleLoaded n)
/-- STOP. -/
def execStop (n : Lathe) (s : State) : Host.Outcome State Fault Refusal :=
  .next (s.taken (lathePort n) fun s => s.handleStop n)
/-- RESUME. -/
def execResume (n : Lathe) (s : State) : Host.Outcome State Fault Refusal :=
  .next (s.taken (lathePort n) fun s => s.handleResume n)
/-- STATUS. -/
def execStatus (n : Lathe) (s : State) : Host.Outcome State Fault Refusal :=
  .next (s.taken (lathePort n) fun s => s.handleStatus n)

end Sys2Proof.Machine
end

