-- ==== Sys2Proof/Machine/RackRequests.lean ====
section
/-! DEFINITION. The supervisor's requests on the rack and the bins: LANE ASSIGN, LANE OPEN, LANE CLOSE, LANE READ,
STOCK, UNSTOCK, REJECT EMPTIED, BIN SET, BIN CLOSE and BIN EMPTIED (R71 to R76, R87, R143 to R146). -/
namespace Sys2Proof.Machine

open Sys2Proof

/-- ACK on LP12. -/
def State.ackSup (s : State) (kind : Byte) : State := s.ack supervisorPort kind
/-- REFUSED on LP12. -/
def State.refuseSup (s : State) (kind : Byte) (c : RefusalCode) : State := s.refuse supervisorPort kind c
/-- A data reply on LP12. -/
def State.answer (s : State) (m : Msg) : State := s.reply supervisorPort m

/-- A request that names a record by number: a number out of range is refused with BAD_FIELD before any other
check. -/
def State.numbered (s : State) (n : Nat) (kind number : Byte) (f : Fin n → State) : State :=
  if h : number.toNat < n then f ⟨number.toNat, h⟩ else s.refuseSup kind .badField

/-! ### Lanes (R71 to R76) -/

/-- LANE ASSIGN handled whole (R71). -/
def State.handleLaneAssign (s : State) (lane material diameter : Byte) : State :=
  s.numbered 24 0x65 lane fun k =>
    if (material = 0 && diameter != 0) || (material != 0 && !(decide (1 ≤ diameter.toNat) && decide (diameter.toNat ≤ 15)))
    then s.refuseSup 0x65 .badField
    else if !(s.lane k).bars.isEmpty || (s.lane k).reserved != 0 then s.refuseSup 0x65 .laneBusy
    else
      (s.setLane k { s.lane k with material := material.toNat, diameter := diameter.toNat }).ackSup 0x65

/-- LANE OPEN handled whole (R72). -/
def State.handleLaneOpen (s : State) (lane : Byte) : State :=
  s.numbered 24 0x66 lane fun k =>
    if (s.lane k).isOpen then s.ackSup 0x66
    else (((s.setLane k { s.lane k with isOpen := true }).ackSup 0x66).stockGain k).dispatch

/-- LANE CLOSE handled whole (R72). -/
def State.handleLaneClose (s : State) (lane : Byte) : State :=
  s.numbered 24 0x67 lane fun k => (s.setLane k { s.lane k with isOpen := false }).ackSup 0x67

/-- LANE READ handled whole (R76). -/
def State.handleLaneRead (s : State) (lane position : Byte) : State :=
  s.numbered 24 0x68 lane fun k =>
    if position.toNat < Config.lanePlaces then s.answer (laneMsg k (s.lane k) s.rack.reject position.toNat)
    else s.refuseSup 0x68 .badField

/-- The bar record that STOCK forms (R67, R73). -/
def stockedBar (k : LaneNo) (l : LaneRecord) (id length : Nat) (lot : BitVec 16) : BarRecord :=
  ⟨id, length, lot, k, l.material, l.diameter, false⟩

/-- The stock-short flag of lathe `n` cleared by a STOCK into lane `k` that matches its program, with the DELIVER
request or the compare's write that follows (R27, R74, R199). -/
def State.clearShort (s : State) (k : LaneNo) (n : Lathe) : State :=
  let a := s.account n
  let isMatch := match a.program with
    | some g => (s.lane k).matchesProgram g
    | none => false
  if a.stockShort && isMatch then
    let s1 := s.setStockShort n false
    if a.state = .await && a.cradle.isNone then
      (s1.setAccount n { s1.account n with awaitEntry := .fresh s.now }).wantBar n
    else if (s.compareOf n).armed then s1.rearm n
    else s1
  else s

/-- A bar entered at the back of lane `k` with an id from the allocator (R68, R73). -/
def State.stockBar (s : State) (k : LaneNo) (length : Nat) (lot : BitVec 16) : State :=
  let id := s.nextBarId
  let s1 := s.setRack { s.rack with lastBarId := id }
  s1.setLane k { s1.lane k with bars := (s1.lane k).bars ++ [stockedBar k (s1.lane k) id length lot] }

/-- STOCK handled whole (R73, R74): the claims of the stock gain come first, then the stock-short flags, lathe by
lathe. -/
def State.handleStock (s : State) (lane : Byte) (length lot : BitVec 16) : State :=
  s.numbered 24 0x69 lane fun k =>
    if !(decide (1000 ≤ length.toNat) && decide (length.toNat ≤ 40000)) then s.refuseSup 0x69 .badField
    else if !(s.lane k).assigned then s.refuseSup 0x69 .laneUnassigned
    else if Config.lanePlaces ≤ (s.lane k).bars.length + (s.lane k).reserved then s.refuseSup 0x69 .laneFull
    else
      let s1 := (s.stockBar k length.toNat lot).answer (barMsg 0x69 s.nextBarId)
      (List.finRange 12).foldl (init := (s1.stockGain k).dispatch) fun s n => s.clearShort k n

/-- UNSTOCK handled whole (R75). -/
def State.handleUnstock (s : State) (lane : Byte) : State :=
  s.numbered 24 0x6A lane fun k =>
    match (s.lane k).bars.getLast? with
    | none => s.refuseSup 0x6A .laneEmpty
    | some b =>
      if (s.lane k).available = 0 then s.refuseSup 0x6A .laneClaimed
      else (s.setLane k { s.lane k with bars := (s.lane k).bars.dropLast }).answer (barMsg 0x6A b.id)

/-! ### The reject rack (R87) -/

/-- A reject wait ended: the checks of the PLACE REJECT made again (R87, R125). -/
def State.endRejectWait (s : State) : State := if s.seq.phase = .rejectWait then s.takeUp else s

/-- REJECT EMPTIED handled whole (R87). -/
def State.handleRejectEmptied (s : State) : State :=
  ((s.setRack { s.rack with reject := 0 }).ackSup 0x6B).endRejectWait

/-! ### Bins (R143 to R146) -/

/-- The fit check of an active job in DUMP_WAIT for bin `b` made again; a bin that still does not fit leaves the
wait as it stands, with no new event (R132, R143 step 3). -/
def State.recheckDump (s : State) (b : BinNo) : State :=
  match s.active with
  | some (_, j) =>
    if s.seq.phase = .dumpWait && j.bin == some b && (s.bin b).fits j.parts then s.takeUp else s
  | none => s

/-- A bin request's record changed, answered with BIN, and reported to the sequencer and the schedule (R143). -/
def State.changeBin (s : State) (b : BinNo) (x : Bin) : State :=
  ((((s.setBin b x).answer (binMsg b x)).recheckDump b).evalBins b).dispatch

/-- The capacity held for a BIN SET (R144). -/
def Bin.newCapacity (x : Bin) (value : Nat) : Nat := max (clamp 1 9999 value) (x.count + x.inFlight)

/-- BIN SET handled whole (R144). -/
def State.handleBinSet (s : State) (bin : Byte) (capacity : BitVec 16) : State :=
  s.numbered 8 0x6C bin fun b => s.changeBin b { s.bin b with capacity := (s.bin b).newCapacity capacity.toNat }

/-- BIN CLOSE handled whole (R145). -/
def State.handleBinClose (s : State) (bin : Byte) : State :=
  s.numbered 8 0x6D bin fun b => s.changeBin b { s.bin b with isOpen := false }

/-- BIN EMPTIED handled whole (R146). -/
def State.handleBinEmptied (s : State) (bin : Byte) : State :=
  s.numbered 8 0x6E bin fun b => s.changeBin b { s.bin b with count := 0, isOpen := true }

/-! ### The commands -/

/-- LANE ASSIGN. -/
def execLaneAssign (lane material diameter : Byte) (s : State) : Host.Outcome State Fault Refusal :=
  .next (s.taken supervisorPort fun s => s.handleLaneAssign lane material diameter)
/-- LANE OPEN. -/
def execLaneOpen (lane : Byte) (s : State) : Host.Outcome State Fault Refusal :=
  .next (s.taken supervisorPort fun s => s.handleLaneOpen lane)
/-- LANE CLOSE. -/
def execLaneClose (lane : Byte) (s : State) : Host.Outcome State Fault Refusal :=
  .next (s.taken supervisorPort fun s => s.handleLaneClose lane)
/-- LANE READ. -/
def execLaneRead (lane position : Byte) (s : State) : Host.Outcome State Fault Refusal :=
  .next (s.taken supervisorPort fun s => s.handleLaneRead lane position)
/-- STOCK. -/
def execStock (lane : Byte) (length lot : BitVec 16) (s : State) : Host.Outcome State Fault Refusal :=
  .next (s.taken supervisorPort fun s => s.handleStock lane length lot)
/-- UNSTOCK. -/
def execUnstock (lane : Byte) (s : State) : Host.Outcome State Fault Refusal :=
  .next (s.taken supervisorPort fun s => s.handleUnstock lane)
/-- REJECT EMPTIED. -/
def execRejectEmptied (s : State) : Host.Outcome State Fault Refusal :=
  .next (s.taken supervisorPort fun s => s.handleRejectEmptied)
/-- BIN SET. -/
def execBinSet (bin : Byte) (capacity : BitVec 16) (s : State) : Host.Outcome State Fault Refusal :=
  .next (s.taken supervisorPort fun s => s.handleBinSet bin capacity)
/-- BIN CLOSE. -/
def execBinClose (bin : Byte) (s : State) : Host.Outcome State Fault Refusal :=
  .next (s.taken supervisorPort fun s => s.handleBinClose bin)
/-- BIN EMPTIED. -/
def execBinEmptied (bin : Byte) (s : State) : Host.Outcome State Fault Refusal :=
  .next (s.taken supervisorPort fun s => s.handleBinEmptied bin)

end Sys2Proof.Machine
end

