-- ==== Sys2Proof/Machine/PartRequests.lean ====
section
/-! DEFINITION. The supervisor's requests on the part: PARAM SET, PARAM GET, TICK SET, LINK SET, LINK READ, LATHE
READ, LATHE HOLD, LATHE RELEASE, EVENTS, PEEK, RESTART and IDENT (R54, R180, R181, R186 to R190, R193 to R198). -/
namespace Sys2Proof.Machine

open Sys2Proof

/-! ### Parameters (R185, R186) -/

/-- The range of parameter `k`, 1 to 9 (R185). -/
def paramRange : Nat → Option (Nat × Nat)
  | 1 => some (0, 1000000)
  | 2 => some (0, 1000000)
  | 3 => some (100, 60000)
  | 4 => some (100, 60000)
  | 5 => some (100, 60000)
  | 6 => some (100, 30000)
  | 7 => some (0, 255)
  | 8 => some (1, 64)
  | 9 => some (0, 4095)
  | _ => none

/-- The value held by parameter `k`. -/
def Params.value (p : Params) : Nat → Nat
  | 1 => p.lookahead
  | 2 => p.preemptMargin
  | 3 => p.loadLimit
  | 4 => p.guardWait
  | 5 => p.stepLimitMove
  | 6 => p.stepLimitHandle
  | 7 => p.cutDebounce
  | 8 => p.attnLevel
  | 9 => p.guardReport.toNat
  | _ => 0

/-- Parameter `k` holding `v`. -/
def Params.hold (p : Params) (k v : Nat) : Params :=
  match k with
  | 1 => { p with lookahead := v }
  | 2 => { p with preemptMargin := v }
  | 3 => { p with loadLimit := v }
  | 4 => { p with guardWait := v }
  | 5 => { p with stepLimitMove := v }
  | 6 => { p with stepLimitHandle := v }
  | 7 => { p with cutDebounce := v }
  | 8 => { p with attnLevel := v }
  | 9 => { p with guardReport := BitVec.ofNat 12 v }
  | _ => p

/-- ATTN driven to the result of its evaluation (R195). -/
def State.evalAttn (s : State) : State :=
  s.setEvents { s.events with attn := attnFor s.params.attnLevel s.events.records }

/-- PARAM SET handled whole (R186); a PARAM SET of ATTN_LEVEL evaluates ATTN (R195). -/
def State.handleParamSet (s : State) (number : Byte) (value : BitVec 32) : State :=
  match paramRange number.toNat with
  | none => s.refuseSup 0x60 .badField
  | some (lo, hi) =>
    let v := clamp lo hi value.toNat
    let s1 := (s.setParams (s.params.hold number.toNat v)).answer (paramMsg number v)
    if number.toNat = 8 then s1.evalAttn else s1

/-- PARAM GET handled whole (R186). -/
def State.handleParamGet (s : State) (number : Byte) : State :=
  match paramRange number.toNat with
  | none => s.refuseSup 0x61 .badField
  | some _ => s.answer (paramMsg number (s.params.value number.toNat))

/-! ### The tick (R54) -/

/-- The part is quiet: every account in NOPROG, no job and no deferred entry. -/
def State.quiet (s : State) : Bool :=
  (List.finRange 12).all (fun n => (s.account n).state == .noProg)
    && allSlots.all (fun i => (s.job i).isNone) && s.sched.deferred.isEmpty

/-- The hall timer after an accepted reselection: prescaler and hall time 0, every compare disarmed. -/
def HallTimer.reselect (t : HallTimer) (sel : TickSel) : HallTimer :=
  { t with binary := 0, decimal := 0, sel := sel, time := 0, compare := t.compare.each Compare.disarm }

/-- An accepted tick reselection (R54). -/
def State.reselect (s : State) (sel : TickSel) : State :=
  ((s.setTimer (s.timer.reselect sel)).setLines
    (s.lines.each fun l => { l with debounce := Config.debounceMax })).setAccounts
    (s.accounts.each fun a => { a with loadTimer := .stopped })

/-- TICK SET handled whole (R54). -/
def State.handleTickSet (s : State) (ms : Byte) : State :=
  match TickSel.ofMs ms.toNat with
  | none => s.refuseSup 0x62 .badField
  | some sel =>
    if sel = s.timer.sel then s.ackSup 0x62
    else if !s.quiet then s.refuseSup 0x62 .notQuiet
    else (s.reselect sel).ackSup 0x62

/-! ### Link settings and counts (R180, R181) -/

/-- The new setting applied to a port (R180): a lathe port's receiver takes it at once, LP12 after its ACK. -/
def Port.applySetting (q : Port) (p : PortNo) (x : LinkSetting) : Port :=
  if x = q.setting then q
  else if p = supervisorPort then { q with newSetting := some x }
  else
    { q with
      setting := x
      rx := match q.rx with
        | .inMessage _ => .discarding
        | r => r }

/-- The setting that a LINK SET names, if its codes are in range (R180). -/
def settingOf (rate parity : Byte) : Option LinkSetting :=
  if parity.toNat ≤ 1 then (Rate.ofCode rate.toNat).map fun r => ⟨r, parity = 1⟩ else none

/-- LINK SET handled whole (R180). -/
def State.handleLinkSet (s : State) (port rate parity : Byte) : State :=
  s.numbered 13 0x63 port fun p =>
    match settingOf rate parity with
    | none => s.refuseSup 0x63 .badField
    | some x => (s.setPort p ((s.port p).applySetting p x)).ackSup 0x63

/-- LINK READ handled whole (R181). -/
def State.handleLinkRead (s : State) (port : Byte) : State :=
  s.numbered 13 0x64 port fun p =>
    (s.setPort p { s.port p with counts := .zero }).answer (linkMsg p (s.port p))

/-! ### Lathe records (R188, R189) -/

/-- The id of the lathe's job of a kind, 0 where it has none (R188). Of two RETURN jobs of one lathe, which a conversion
can leave (R114), it is the one in the lower slot (the model's choice, log 35). -/
def State.jobIdOf (s : State) (n : Lathe) (k : JobKind) : Nat :=
  (((s.findJob n k).bind s.job).map fun j => j.id).getD 0

/-- LATHE READ handled whole (R188), with the HSENSE levels at the reply. -/
def State.handleLatheRead (s : State) (lathe : Byte) (hsense : BitVec 12) : State :=
  s.numbered 12 0x6F lathe fun n =>
    s.answer (latheMsg n (s.account n) (s.line n) (hsense.getLsbD n.val) (s.timer.capture.read n) (s.compareOf n)
      (s.jobIdOf n))

/-- The stored flag SUPERVISOR set to `v`, and the hold reason set evaluated (R189). -/
def State.supervise (s : State) (n : Lathe) (v : Bool) : State :=
  (s.setAccount n { s.account n with supervisor := v }).evalHold n

/-- LATHE HOLD handled whole (R189). -/
def State.handleLatheHold (s : State) (lathe : Byte) : State :=
  s.numbered 12 0x70 lathe fun n => (s.ackSup 0x70).supervise n true

/-- LATHE RELEASE handled whole (R189). -/
def State.handleLatheRelease (s : State) (lathe : Byte) : State :=
  s.numbered 12 0x71 lathe fun n => (s.ackSup 0x71).supervise n false

/-! ### The event queue (R193, R194) -/

/-- EVENTS handled whole (R193). -/
def State.handleEvents (s : State) : State :=
  let e := s.events
  let s1 := s.setEvents { e with records := e.records.drop 3, overflow := false }
  s1.evalAttn.answer (eventsMsg (e.records.take 3) e.overflow)

/-- PEEK handled whole (R194). -/
def State.handlePeek (s : State) : State := s.answer (eventsMsg (s.events.records.take 1) s.events.overflow)

/-- IDENT handled whole (R190). -/
def State.handleIdent (s : State) : State := s.answer identMsg

/-! ### RESTART (R6, R168, R183, R197, R198) -/

/-- RESTART is accepted (R168). -/
def State.mayRestart (s : State) : Bool :=
  s.shuttle.load == .none
    && (s.shuttle.state == .idle || s.shuttle.state == .halted || s.shuttle.state == .unhomed)

/-- The shuttle record after a warm restart (R151). -/
def Shuttle.restarted (sh : Shuttle) : Shuttle :=
  { sh with
    state := if sh.state = .unhomed then .unhomed else .halted
    load := .none
    outstanding := none
    noAnswer := 0
    haltPending := false
    fault := none
    homeFailed := false
    heldWord := none }

/-- The hall timer after a warm restart (R51, R53, R57, R58, R65). -/
def HallTimer.restarted (t : HallTimer) : HallTimer :=
  { HallTimer.powerOn with sel := t.sel }

/-- A line after a warm restart (R56, R63). -/
def Line.restarted (l : Line) : Line := { l with debounce := Config.debounceMax, mismatch := 0, agreement := 0 }

/-- A port after the first three steps of R183. -/
def Port.restarted (q : Port) (p : PortNo) : Port :=
  { q with
    queue := []
    breakMark := if p = supervisorPort then q.breakMark else true
    mailbox := none
    rx := match q.rx with
      | .inMessage _ => .discarding
      | r => r }

/-- An account after a warm restart, its hold reason set not yet evaluated (R6). -/
def Account.restarted (a : Account) : Account :=
  { Account.powerOn with
    cradle := a.cradle.map fun c => { c with loading := false }
    tray := a.tray
    holdSet := a.holdSet }

/-- The rack after a warm restart: claims and reservations 0 (R70). -/
def Rack.restarted (r : Rack) : Rack :=
  { r with lanes := r.lanes.each fun l => { l with claimed := 0, reserved := 0 } }

/-- The schedule after a warm restart: empty, with the last job id kept (R91). -/
def Schedule.restarted (sc : Schedule) : Schedule := { Schedule.powerOn with lastJobId := sc.lastJobId }

/-- The blocks after steps 1 to 4 of R198 and the accounts' values of R6. -/
def State.restartBlocks (s : State) : State :=
  ((((((((s.setShuttle s.shuttle.restarted).setSeq .clear).setSched s.sched.restarted).setRack s.rack.restarted).setBins
    (s.bins.each fun b => { b with inFlight := 0 })).setTimer s.timer.restarted).setLines
    (s.lines.each Line.restarted)).setPorts (s.ports.eachAt fun p q => q.restarted p)).setPointer supervisorPort
    |>.setAccounts (s.accounts.each Account.restarted)

/-- The value field of RESTARTED: records removed, and the overflow flag in the upper half (R198). -/
def restartedValue (e : EventQueue) : BitVec 32 := halves e.overflow.toNat e.records.length

/-- The event queue emptied and RESTARTED posted (R198 step 6). -/
def State.restartEvents (s : State) : State :=
  (s.setEvents { s.events with records := [], overflow := false }).post (event .restarted (restartedValue s.events))

/-- The effects of an accepted RESTART, in the order of R198. -/
def State.warmRestart (s : State) : State :=
  (((List.finRange 12).foldl (init := s.restartBlocks) fun s n => s.evalHold n).restartEvents).ackSup 0x79

/-- RESTART handled whole (R197). -/
def State.handleRestart (s : State) : State :=
  if s.mayRestart then s.warmRestart else s.refuseSup 0x79 .shuttleBusy

/-! ### The commands -/

/-- PARAM SET. -/
def execParamSet (number : Byte) (value : BitVec 32) (s : State) : Host.Outcome State Fault Refusal :=
  .next (s.taken supervisorPort fun s => s.handleParamSet number value)
/-- PARAM GET. -/
def execParamGet (number : Byte) (s : State) : Host.Outcome State Fault Refusal :=
  .next (s.taken supervisorPort fun s => s.handleParamGet number)
/-- TICK SET. -/
def execTickSet (ms : Byte) (s : State) : Host.Outcome State Fault Refusal :=
  .next (s.taken supervisorPort fun s => s.handleTickSet ms)
/-- LINK SET. -/
def execLinkSet (port rate parity : Byte) (s : State) : Host.Outcome State Fault Refusal :=
  .next (s.taken supervisorPort fun s => s.handleLinkSet port rate parity)
/-- LINK READ. -/
def execLinkRead (port : Byte) (s : State) : Host.Outcome State Fault Refusal :=
  .next (s.taken supervisorPort fun s => s.handleLinkRead port)
/-- LATHE READ. -/
def execLatheRead (lathe : Byte) (hsense : BitVec 12) (s : State) : Host.Outcome State Fault Refusal :=
  .next (s.taken supervisorPort fun s => s.handleLatheRead lathe hsense)
/-- LATHE HOLD. -/
def execLatheHold (lathe : Byte) (s : State) : Host.Outcome State Fault Refusal :=
  .next (s.taken supervisorPort fun s => s.handleLatheHold lathe)
/-- LATHE RELEASE. -/
def execLatheRelease (lathe : Byte) (s : State) : Host.Outcome State Fault Refusal :=
  .next (s.taken supervisorPort fun s => s.handleLatheRelease lathe)
/-- EVENTS. -/
def execEvents (s : State) : Host.Outcome State Fault Refusal :=
  .next (s.taken supervisorPort fun s => s.handleEvents)
/-- PEEK. -/
def execPeek (s : State) : Host.Outcome State Fault Refusal :=
  .next (s.taken supervisorPort fun s => s.handlePeek)
/-- RESTART. -/
def execRestart (s : State) : Host.Outcome State Fault Refusal :=
  .next (s.taken supervisorPort fun s => s.handleRestart)
/-- IDENT. -/
def execIdent (s : State) : Host.Outcome State Fault Refusal :=
  .next (s.taken supervisorPort fun s => s.handleIdent)

end Sys2Proof.Machine
end

