-- ==== Sys2Proof/Machine/ShuttleRequests.lean ====
section
/-! DEFINITION. The supervisor's requests on the schedule and the shuttle: JOB READ, JOB CANCEL, SHUTTLE RUN,
SHUTTLE HALT and SHUTTLE CLEAR (R115, R116, R162 to R167). -/
namespace Sys2Proof.Machine

open Sys2Proof

/-! ### Jobs (R115, R116, R167) -/

/-- JOB READ handled whole (R115). -/
def State.handleJobRead (s : State) (slot : Byte) : State :=
  s.numbered 32 0x72 slot fun i => s.answer (jobMsg i s.sched)

/-- JOB CANCEL of the active job in slot `i` (R167). -/
def State.cancelActive (s : State) (i : Slot) (j : Job) : State :=
  if s.shuttle.state != .fault && s.shuttle.state != .halted then s.refuseSup 0x73 .jobActive
  else
    match s.shuttle.load, j.kind with
    | .none, _ => (s.ackSup 0x73).removeActive i
    | .bar, .deliver => (s.ackSup 0x73).convertToReturn i
    | _, _ => s.refuseSup 0x73 .carrying

/-- JOB CANCEL handled whole (R116). -/
def State.handleJobCancel (s : State) (job : Byte) : State :=
  if job = 0 then s.refuseSup 0x73 .badField
  else
    match s.slotOfId job.toNat with
    | none => s.refuseSup 0x73 .noJob
    | some i =>
      match s.job i with
      | none => s.refuseSup 0x73 .noJob
      | some j =>
        match j.state with
        | .active => s.cancelActive i j
        | .waiting => (s.ackSup 0x73).cancelIdle i
        | .suspended => (s.ackSup 0x73).cancelIdle i

/-! ### The shuttle (R162 to R165) -/

/-- The SHUTTLE reply for the state as it stands (R162). -/
def State.shuttleReply (s : State) : State := s.answer (shuttleMsg s.shuttle (s.active.map fun a => a.2))

/-- The shuttle leaves HALTED (R163): an active job's step is taken up, after R106 at a step boundary with load NONE
(R104), and with no job the shuttle is free. -/
def State.leaveHalt (s : State) : State :=
  if s.active.isSome then (if s.seq.boundary then s.crossBoundary else s.takeUp)
  else (s.setShuttle { s.shuttle with state := .idle }).dispatch

/-- SHUTTLE RUN handled whole (R158, R163). -/
def State.handleShuttleRun (s : State) : State :=
  match s.shuttle.state with
  | .unhomed =>
    let s1 := s.issue .home (some .home) s.shuttle.load.speed .home
    (s1.setShuttle { s1.shuttle with state := .homing }).shuttleReply
  | .halted => s.leaveHalt.shuttleReply
  | .fault => s.refuseSup 0x74 .wrongState
  | .homing => (s.setShuttle { s.shuttle with haltPending := false }).shuttleReply
  | .idle => (s.setShuttle { s.shuttle with haltPending := false }).shuttleReply
  | .stepping => (s.setShuttle { s.shuttle with haltPending := false }).shuttleReply
  | .waiting => (s.setShuttle { s.shuttle with haltPending := false }).shuttleReply

/-- A wait ended by a halt: the guard-wait timer stopped, the phase UNISSUED (R139, R164). -/
def State.haltWait (s : State) : State :=
  let s1 := (s.setGuardWait .stopped).setSeq { s.seq with phase := .unissued, boundary := false }
  s1.setShuttle { s1.shuttle with state := .halted, haltPending := false }

/-- SHUTTLE HALT handled whole (R164). -/
def State.handleShuttleHalt (s : State) : State :=
  match s.shuttle.state with
  | .idle => (s.setShuttle { s.shuttle with state := .halted, haltPending := false }).shuttleReply
  | .waiting => s.haltWait.shuttleReply
  | .stepping => (s.setShuttle { s.shuttle with haltPending := true }).shuttleReply
  | .homing => (s.setShuttle { s.shuttle with haltPending := true }).shuttleReply
  | .fault => (s.setShuttle { s.shuttle with haltPending := true }).shuttleReply
  | .halted => s.shuttleReply
  | .unhomed => s.shuttleReply

/-- SHUTTLE CLEAR handled whole (R165). -/
def State.handleShuttleClear (s : State) : State :=
  if s.shuttle.state = .fault then
    (if s.shuttle.outstanding.isSome then s
      else s.issue .clear s.shuttle.lastTarget s.shuttle.load.speed .clear).shuttleReply
  else s.refuseSup 0x76 .wrongState

/-! ### The commands -/

/-- JOB READ. -/
def execJobRead (slot : Byte) (s : State) : Host.Outcome State Fault Refusal :=
  .next (s.taken supervisorPort fun s => s.handleJobRead slot)
/-- JOB CANCEL. -/
def execJobCancel (job : Byte) (s : State) : Host.Outcome State Fault Refusal :=
  .next (s.taken supervisorPort fun s => s.handleJobCancel job)
/-- SHUTTLE RUN. -/
def execShuttleRun (s : State) : Host.Outcome State Fault Refusal :=
  .next (s.taken supervisorPort fun s => s.handleShuttleRun)
/-- SHUTTLE HALT. -/
def execShuttleHalt (s : State) : Host.Outcome State Fault Refusal :=
  .next (s.taken supervisorPort fun s => s.handleShuttleHalt)
/-- SHUTTLE CLEAR. -/
def execShuttleClear (s : State) : Host.Outcome State Fault Refusal :=
  .next (s.taken supervisorPort fun s => s.handleShuttleClear)

end Sys2Proof.Machine
end

