-- ==== Sys2Proof/Machine/Decoder.lean ====
section
/-! DEFINITION. The request decoder: REQUEST_TAKE (R177, R178). -/
namespace Sys2Proof.Machine

open Sys2Proof

/-- A lathe request handed to its account (R178). -/
def State.handleLathe (s : State) (n : Lathe) (r : Request) : State :=
  match r with
  | .setup m => s.handleSetup n m
  | .ready => s.handleReady n
  | .loaded => s.handleLoaded n
  | .stop => s.handleStop n
  | .resume => s.handleResume n
  | .status => s.handleStatus n
  | _ => s.refuse (lathePort n) r.kind .badField

/-- A supervisor request handed to its owner (R178). -/
def State.handleSup (s : State) (hsense : BitVec 12) (r : Request) : State :=
  match r with
  | .paramSet k v => s.handleParamSet k v
  | .paramGet k => s.handleParamGet k
  | .tickSet ms => s.handleTickSet ms
  | .linkSet p rate parity => s.handleLinkSet p rate parity
  | .linkRead p => s.handleLinkRead p
  | .laneAssign k m d => s.handleLaneAssign k m d
  | .laneOpen k => s.handleLaneOpen k
  | .laneClose k => s.handleLaneClose k
  | .laneRead k i => s.handleLaneRead k i
  | .stock k l t => s.handleStock k l t
  | .unstock k => s.handleUnstock k
  | .rejectEmptied => s.handleRejectEmptied
  | .binSet b c => s.handleBinSet b c
  | .binClose b => s.handleBinClose b
  | .binEmptied b => s.handleBinEmptied b
  | .latheRead n => s.handleLatheRead n hsense
  | .latheHold n => s.handleLatheHold n
  | .latheRelease n => s.handleLatheRelease n
  | .jobRead i => s.handleJobRead i
  | .jobCancel j => s.handleJobCancel j
  | .shuttleRun => s.handleShuttleRun
  | .shuttleHalt => s.handleShuttleHalt
  | .shuttleClear => s.handleShuttleClear
  | .events => s.handleEvents
  | .peek => s.handlePeek
  | .restart => s.handleRestart
  | .ident => s.handleIdent
  | .setup _ => s.refuseSup r.kind .badField
  | .ready => s.refuseSup r.kind .badField
  | .loaded => s.refuseSup r.kind .badField
  | .stop => s.refuseSup r.kind .badField
  | .resume => s.refuseSup r.kind .badField
  | .status => s.refuseSup r.kind .badField

/-- A message taken from port `p` handled whole (R178): one whose LEN does not suit its kind is refused with
BAD_FIELD. -/
def State.handleMessage (s : State) (p : PortNo) (hsense : BitVec 12) (bytes : List Byte) : State :=
  match parseRequest bytes with
  | none => s.refuse p (bytes.headD 0) .badField
  | some r =>
    match latheOf p with
    | some n => s.handleLathe n r
    | none => s.handleSup hsense r

/-- The ports in the order in which the decoder looks at them: from the one after the pointer (R177). -/
def State.scanOrder (s : State) : List PortNo := (List.finRange 13).map fun k => s.pointer + 1 + k

/-- The port holds a message and no reply not yet fully sent (R177). -/
def State.eligiblePort (s : State) (p : PortNo) : Bool := (s.port p).mailbox.isSome && !(s.port p).replyPending

/-- REQUEST_TAKE (R177, R178): the next eligible message is taken from its mailbox and handled whole (log 2); with
none eligible nothing happens. -/
def execRequestTake (hsense : BitVec 12) (s : State) : Host.Outcome State Fault Refusal :=
  .next <|
    match s.scanOrder.find? s.eligiblePort with
    | none => s
    | some p =>
      match (s.port p).mailbox with
      | none => s
      | some bytes =>
        ((s.setPort p { s.port p with mailbox := none }).setPointer p).handleMessage p hsense bytes

end Sys2Proof.Machine
end

