-- ==== Sys2Proof/Machine/Drive.lean ====
section
/-! DEFINITION. The drive's side of the shuttle port: polls, and the commands NO_ANSWER_FAULT, STEP_TIMER_EXPIRY,
ORDER_COMPLETE and CLEAR_COMPLETE (R154 to R160, R165, R166). -/
namespace Sys2Proof.Machine

open Sys2Proof

/-! ### Polls (R154, R156) -/

/-- An answered word becomes the last status word: position and no-answer count follow it (R154). -/
def State.noteStatus (s : State) (w : Word) : State :=
  s.setShuttle { s.shuttle with lastStatus := some w, position := statusPosition w, noAnswer := 0 }

/-- The word ends the outstanding order: its expected DONE pattern (R157), or READY for a CLEAR (R166). -/
def endsOrder (w : Word) (o : OutOrder) : Bool :=
  match o.kind with
  | .clear => statusState w == 0
  | _ => matchesOrder w o

/-- An answered word evaluated against the outstanding order by the table of R156. A word that ends the order is
held for ORDER_COMPLETE or CLEAR_COMPLETE, which evaluates it (log 5). -/
def State.evaluatePoll (s : State) (w : Word) (o : OutOrder) : State :=
  if endsOrder w o then s.setShuttle { s.shuttle with heldWord := some w }
  else
    let s1 := s.noteStatus w
    if statusState w = 3 then s1.declareFault .drive (statusDriveCode w) o
    else if statusState w = 2 && statusEcho w == o.kind.code && o.kind != .clear then s1.declareFault .position 0 o
    else s1

/-- The poll of a tick with the status word it shifts in (R154, R156). No poll is made while an order's end is held
for its own command: a held word, or the third unanswered poll (log 5). -/
def State.poll (s : State) (w : Word) : State :=
  match s.shuttle.outstanding with
  | none => s
  | some o =>
    if s.shuttle.heldWord.isSome || decide (3 ≤ s.shuttle.noAnswer) then s
    else
      let s1 := s.exchange .poll
      if answered w then s1.evaluatePoll w o
      else s1.setShuttle { s1.shuttle with noAnswer := s1.shuttle.noAnswer + 1 }

/-! ### NO_ANSWER_FAULT and STEP_TIMER_EXPIRY -/

/-- NO_ANSWER_FAULT (R154, R159): taken when the no-answer count has reached 3 with an order outstanding, otherwise
nothing happens (log 3). -/
def execNoAnswerFault (s : State) : Host.Outcome State Fault Refusal :=
  .next <|
    match s.shuttle.outstanding with
    | some o =>
      if 3 ≤ s.shuttle.noAnswer then
        (s.setShuttle { s.shuttle with position := .unknown }).declareFault .noAnswer 0 o
      else s
    | none => s

/-- STEP_TIMER_EXPIRY (R160): taken when the step timer has run out, otherwise nothing happens (log 3). -/
def execStepTimerExpiry (s : State) : Host.Outcome State Fault Refusal :=
  .next <|
    match s.timer.stepTimer with
    | .expired =>
      let s1 := s.setStepTimer .stopped
      match s1.shuttle.outstanding with
      | some o => (s1.declareFault .timeout 0 o).exchange .stop
      | none => s1
    | _ => s

/-! ### ORDER_COMPLETE and CLEAR_COMPLETE -/

/-- The outstanding order ended by the recognition of its word: the step timer stopped, the word evaluated (R154,
R157). -/
def State.endOrder (s : State) (w : Word) : State :=
  let s1 := (s.noteStatus w).setStepTimer .stopped
  s1.setShuttle { s1.shuttle with outstanding := none, heldWord := none }

/-- A HOME completed (R158). -/
def State.homeDone (s : State) (o : OutOrder) (l : Load) : State :=
  if l = .none then
    if s.shuttle.haltPending then
      s.setShuttle { s.shuttle with state := .halted, haltPending := false, homeFailed := false }
    else (s.setShuttle { s.shuttle with state := .idle, homeFailed := false }).dispatch
  else s.declareFault .unknownLoad 0 o

/-- The completion of an order handed on by its purpose (R157). A CLEAR is ended by CLEAR_COMPLETE. -/
def State.handOn (s : State) (o : OutOrder) (l : Load) : State :=
  match o.purpose with
  | .step => s.stepOutcome o l
  | .home => s.homeDone o l
  | .clear => s

/-- ORDER_COMPLETE (R157): taken while a poll's word that completes the outstanding order is held, otherwise nothing
happens (log 3). -/
def execOrderComplete (s : State) : Host.Outcome State Fault Refusal :=
  .next <|
    match s.shuttle.outstanding, s.shuttle.heldWord with
    | some o, some w => if o.kind = .clear then s else (s.endOrder w).handOn o (sensedLoad w)
    | _, _ => s

/-- The speed class of a HOME issued again: slow after UNKNOWN_LOAD, fast otherwise (R153, R166; log 14). -/
def rehomeSpeed (f : Option FaultRecord) : Speed :=
  match f with
  | some r => if r.code = .unknownLoad then .slow else .fast
  | none => .fast

/-- What follows a CLEAR that ended with READY, in the order of cases of R166. -/
def State.afterClear (s : State) (sp : Speed) : State :=
  if s.shuttle.homeFailed then
    let s1 := s.issue .home (some .home) sp .home
    s1.setShuttle { s1.shuttle with state := .homing }
  else if s.shuttle.haltPending then s.setShuttle { s.shuttle with state := .halted, haltPending := false }
  else if s.active.isSome then s.takeUp
  else (s.setShuttle { s.shuttle with state := .idle }).dispatch

/-- CLEAR_COMPLETE (R166): taken while a poll's READY for the outstanding CLEAR is held, otherwise nothing happens
(log 3). -/
def execClearComplete (s : State) : Host.Outcome State Fault Refusal :=
  .next <|
    match s.shuttle.outstanding, s.shuttle.heldWord with
    | some o, some w =>
      if o.kind = .clear then
        let s1 := s.endOrder w
        (s1.setShuttle { s1.shuttle with fault := none }).afterClear (rehomeSpeed s.shuttle.fault)
      else s
    | _, _ => s

end Sys2Proof.Machine
end

