-- ==== Sys2Proof/Machine/Ticks.lean ====
section
/-! DEFINITION. Time and the lathe lines: POWER_ON_RESET, HALL_TICK, DELIVERY_COMPARE_FIRE, LOAD_TIMER_EXPIRY,
GUARD_WAIT_EXPIRY and CUT_EDGE (chapter 3, R16, R101, R124). -/
namespace Sys2Proof.Machine

open Sys2Proof

/-- The lathes in rising order. -/
def allLathes : List Lathe := List.finRange 12

/-- A pin vector with the bit of lathe `n` set to `b`. -/
def setPin (v : BitVec 12) (n : Lathe) (b : Bool) : BitVec 12 :=
  if b then v ||| BitVec.twoPow 12 n.val else v &&& ~~~(BitVec.twoPow 12 n.val)

/-- POWER_ON_RESET (R5): every field takes its power-on value. The waiting commands, the pins and the count of free
values are not the part's to reset. -/
def execPowerOnReset (s : State) : Host.Outcome State Fault Refusal :=
  .next (((State.reset.setPending s.pending).setPins s.pins).setDraws s.draws)

/-! ### The tick's own counting (R51, R53, R56, R64) -/

/-- The hall timer after a tick: both prescaler counts back at 0, the hall time raised, its two timers counted. -/
def HallTimer.tick (t : HallTimer) : HallTimer :=
  { t with
    binary := 0
    decimal := 0
    time := t.time + 1
    guardWait := t.guardWait.tick
    stepTimer := t.stepTimer.tick }

/-- An account after a tick: its load timer counted and its held times aged (R39, R64, R199; log 12). The predictions
stand as they were formed (R42). -/
def Account.tick (a : Account) (now : Time) : Account :=
  { a with
    loadTimer := a.loadTimer.tick
    tLast := a.tLast.tick now
    awaitEntry := a.awaitEntry.tick now }

/-- A line after a tick: its debounce age raised, up to 255 (R56). -/
def Line.tick (l : Line) : Line := { l with debounce := min (l.debounce + 1) Config.debounceMax }

/-- A job after a tick: its deadline and creation time aged (R102; log 12). -/
def Job.tick (j : Job) (now : Time) : Job :=
  { j with deadline := ageTime j.deadline now, created := ageTime j.created now }

/-- What a tick counts by itself. -/
def State.countTick (s : State) : State :=
  let now := s.now + 1
  (((s.setTimer s.timer.tick).setAccounts (s.accounts.each fun a => a.tick now)).setLines (s.lines.each Line.tick)).setSched
    { s.sched with slots := s.sched.slots.each fun o => o.map fun j => j.tick now }

/-! ### GUARD inputs (R60, R61, R101, R124) -/

/-- A guard change to closed ends a guard wait for that lathe: the timer stops and the step is taken up again
(R124). -/
def State.endGuardWait (s : State) (n : Lathe) : State :=
  match s.active with
  | some (_, j) =>
    if s.seq.phase = .guardPending && j.lathe == n then (s.setGuardWait .stopped).takeUp else s
  | none => s

/-- The job of slot `i` freed of GUARD_PARKED if it is a job of lathe `n`: a COLLECT job takes its bin block (R101). -/
def State.unpark (s : State) (n : Lathe) (i : Slot) : State :=
  match s.job i with
  | some j =>
    if j.lathe = n && j.block == .guardParked then (s.setSlot i (some { j with block := .none })).evalBinBlock i else s
  | none => s

/-- GUARD_PARKED cleared from the jobs of lathe `n`, and the dispatch that may follow (R101). -/
def State.clearParked (s : State) (n : Lathe) : State :=
  (allSlots.foldl (init := s) fun s i => s.unpark n i).dispatch

/-- A guard change of lathe `n` handed to the event queue and the job sequencer (R61). -/
def State.guardChanged (s : State) (n : Lathe) (closed : Bool) : State :=
  let s1 :=
    if s.params.guardReport.getLsbD n.val then
      s.post (event .guardChange (if closed then 0 else 1) (lathe := some n))
    else s
  if closed then (s1.endGuardWait n).clearParked n else s1

/-- GUARDn sampled at a tick (R60). At the first tick after a power-on reset the held level is the sample. -/
def State.sampleGuard (s : State) (n : Lathe) (closed : Bool) : State :=
  let l := s.line n
  if !s.guardSeen then s.setLine n { l with guardClosed := closed }
  else if closed = l.guardClosed then s.setLine n { l with settle := 0 }
  else if l.settle = 0 then s.setLine n { l with settle := 1 }
  else (s.setLine n { l with guardClosed := closed, settle := 0 }).guardChanged n closed

/-- The GUARD inputs of all lathes sampled, lathe by lathe (log 4). -/
def State.sampleGuards (s : State) (guards : BitVec 12) : State :=
  (allLathes.foldl (init := s) fun s n => s.sampleGuard n (guards.getLsbD n.val)).setGuardSeen true

/-! ### HOLD sense (R63) -/

/-- A line after HOLD sense is compared with the command. -/
def Line.sense (l : Line) (sensed : Bool) : Line :=
  if sensed = l.holdCmd then
    { l with
      mismatch := 0
      agreement := min (l.agreement + 1) 3
      reported := l.reported && decide (l.agreement + 1 < 3) }
  else
    { l with
      agreement := 0
      mismatch := min (l.mismatch + 1) 3
      reported := l.reported || decide (3 ≤ l.mismatch + 1) }

/-- The comparison raises HOLD_MISMATCH: the count reaches 3 with the flag clear. -/
def Line.mismatched (l : Line) (sensed : Bool) : Bool :=
  sensed != l.holdCmd && decide (3 ≤ l.mismatch + 1) && !l.reported

/-- HOLD sense of lathe `n` at a tick (R63). -/
def State.senseHold (s : State) (n : Lathe) (sensed : Bool) : State :=
  let l := s.line n
  let s1 := s.setLine n (l.sense sensed)
  if l.mismatched sensed then
    s1.post (event .holdMismatch (BitVec.ofNat 32 (l.holdCmd.toNat + 256 * sensed.toNat)) (lathe := some n))
  else s1

/-- HOLD sense of all lathes, lathe by lathe (log 4). -/
def State.senseHolds (s : State) (hsense : BitVec 12) : State :=
  allLathes.foldl (init := s) fun s n => s.senseHold n (hsense.getLsbD n.val)

/-! ### Delivery compares (R59) -/

/-- The compare of lathe `n` tested against the hall time: armed, unspent and reached it fires, is marked spent and
asks for a DELIVER job (R46, R59). -/
def State.testCompare (s : State) (n : Lathe) : State :=
  let c := s.compareOf n
  if c.armed && !c.spent && atOrBefore c.value s.now then (s.setCompare n { c with spent := true }).deliverOnFire n
  else s

/-- Every compare tested, lathe by lathe (R59; log 33). -/
def State.testCompares (s : State) : State := allLathes.foldl (init := s) fun s n => s.testCompare n

/-- HALL_TICK (R53): the counts, then the poll, the guards, the HOLD sense inputs and the compares, in the order of
log 4. -/
def execHallTick (guards hsense : BitVec 12) (shin : BitVec 64) (s : State) : Host.Outcome State Fault Refusal :=
  let s1 := (((s.countTick).poll (statusShifted shin)).sampleGuards guards).senseHolds hsense
  .next (s1.setPins { s1.pins with guards := guards, hsense := hsense }).testCompares

/-! ### Expiries and firings -/

/-- DELIVERY_COMPARE_FIRE (R46, R59): the test of one lathe's compare. One that is not armed, is spent or is not
reached does not fire (log 3): after a HALL_TICK, which tests every compare, the row finds none left to fire
(log 33). -/
def execDeliveryCompareFire (n : Lathe) (s : State) : Host.Outcome State Fault Refusal := .next (s.testCompare n)

/-- The load given up (R16): STOPPED with resume state AWAIT, LOAD_FAULT, the loading mark cleared, LOAD_TIMEOUT. -/
def State.loadTimeout (s : State) (n : Lathe) : State :=
  let a := s.account n
  let s1 := s.setAccount n
    { a with
      resume := .await
      loadFault := true
      cradle := a.cradle.map fun c => { c with loading := false } }
  let s2 := s1.post
    (event .loadTimeout (BitVec.ofNat 32 ((a.cradle.map fun c => c.bar.id).getD 0)) (lathe := some n))
  (s2.goTo n .stopped).evalHold n

/-- LOAD_TIMER_EXPIRY (R16): taken when load timer `n` has run out, otherwise nothing happens (log 3). -/
def execLoadTimerExpiry (n : Lathe) (s : State) : Host.Outcome State Fault Refusal :=
  .next <|
    match (s.account n).loadTimer with
    | .expired =>
      let s1 := s.setAccount n { s.account n with loadTimer := .stopped }
      if (s.account n).state = .loading then s1.loadTimeout n else s1
    | _ => s

/-- The active job parked (R101, R124): WAITING at step 1 with GUARD_PARKED, and the shuttle passes on. A guard that
is closed already clears the block at once. -/
def State.parkActive (s : State) (i : Slot) (n : Lathe) : State :=
  let s1 := s.updateJob i fun j => { j with state := .waiting, step := .one, block := .guardParked }
  let s2 := (s1.setSeq .clear).releaseShuttle
  if (s2.line n).guardClosed then s2.clearParked n else s2.dispatch

/-- A guard wait that goes on with a load: GUARD_OVERDUE, and the timer started again (R124). -/
def State.guardOverdue (s : State) (j : Job) : State :=
  let k := min (s.seq.expiries + 1) Config.expiriesMax
  ((s.setSeq { s.seq with expiries := k }).post
    (event .guardOverdue (BitVec.ofNat 32 k) (lathe := some j.lathe) (job := some j.id))).setGuardWait
    (.running s.params.guardWait)

/-- GUARD_WAIT_EXPIRY (R101, R124): taken when the guard-wait timer has run out, otherwise nothing happens
(log 3). -/
def execGuardWaitExpiry (s : State) : Host.Outcome State Fault Refusal :=
  .next <|
    match s.timer.guardWait with
    | .expired =>
      let s1 := s.setGuardWait .stopped
      match s1.active with
      | some (i, j) =>
        if s1.seq.phase = .guardPending then
          if s1.shuttle.load = .none then s1.parkActive i j.lathe else s1.guardOverdue j
        else s1
      | none => s1
    | _ => s

/-! ### CUT edges (R55 to R57) -/

/-- The level of CUTn seen. -/
def State.seeCut (s : State) (n : Lathe) (e : Edge) : State :=
  s.setPins { s.pins with cut := setPin s.pins.cut n (e == .rising) }

/-- An edge accepted: the debounce age back at 0, the hall time captured, the cut handed to the account (R56,
R57). -/
def State.acceptCut (s : State) (n : Lathe) : State :=
  let s1 := s.setLine n { s.line n with debounce := 0 }
  (s1.setTimer { s1.timer with capture := s1.timer.capture.write n s1.now }).takeCut n

/-- CUT_EDGE (R55, R56): a change in the active direction of a lathe with a program is accepted at a debounce age of
CUT_DEBOUNCE or more; any other change is passed over. -/
def execCutEdge (n : Lathe) (edge : Edge) (s : State) : Host.Outcome State Fault Refusal :=
  let s1 := s.seeCut n edge
  .next <|
    match (s1.account n).program with
    | some g =>
      if g.edge = edge && decide (s1.params.cutDebounce ≤ (s1.line n).debounce) then s1.acceptCut n else s1
    | none => s1

end Sys2Proof.Machine
end

