-- ==== Sys2Proof/Machine/Dispatch.lean ====
section
/-! DEFINITION. The dispatch of a command to its meaning, one arm per row of spec/opcode_table.json. -/
namespace Sys2Proof.Machine

open Sys2Proof

/-- The effect of a command on everything but the queue. -/
def exec (i : Instr) (s : State) : Host.Outcome State Fault Refusal :=
  match i with
  | .powerOnReset => Sys2Proof.Machine.execPowerOnReset s
  | .hallTick guards hsense shin => Sys2Proof.Machine.execHallTick guards hsense shin s
  | .noAnswerFault => Sys2Proof.Machine.execNoAnswerFault s
  | .deliveryCompareFire n => Sys2Proof.Machine.execDeliveryCompareFire n s
  | .loadTimerExpiry n => Sys2Proof.Machine.execLoadTimerExpiry n s
  | .guardWaitExpiry => Sys2Proof.Machine.execGuardWaitExpiry s
  | .stepTimerExpiry => Sys2Proof.Machine.execStepTimerExpiry s
  | .cutEdge n edge => Sys2Proof.Machine.execCutEdge n edge s
  | .messageComplete p c => Sys2Proof.Machine.execMessageComplete p c s
  | .messageTruncated p c => Sys2Proof.Machine.execMessageTruncated p c s
  | .characterError p e c => Sys2Proof.Machine.execCharacterError p e c s
  | .lineIdleLimit p => Sys2Proof.Machine.execLineIdleLimit p s
  | .linkBreak p => Sys2Proof.Machine.execLinkBreak p s
  | .breakEnd p => Sys2Proof.Machine.execBreakEnd p s
  | .requestTake hsense => Sys2Proof.Machine.execRequestTake hsense s
  | .transmitStart p => Sys2Proof.Machine.execTransmitStart p s
  | .transmitDone p => Sys2Proof.Machine.execTransmitDone p s
  | .restartBreakSend p => Sys2Proof.Machine.execRestartBreakSend p s
  | .setup n m => Sys2Proof.Machine.execSetup n m s
  | .ready n => Sys2Proof.Machine.execReady n s
  | .loaded n => Sys2Proof.Machine.execLoaded n s
  | .stop n => Sys2Proof.Machine.execStop n s
  | .resume n => Sys2Proof.Machine.execResume n s
  | .status n => Sys2Proof.Machine.execStatus n s
  | .paramSet number value => Sys2Proof.Machine.execParamSet number value s
  | .paramGet number => Sys2Proof.Machine.execParamGet number s
  | .tickSet ms => Sys2Proof.Machine.execTickSet ms s
  | .linkSet port rate parity => Sys2Proof.Machine.execLinkSet port rate parity s
  | .linkRead port => Sys2Proof.Machine.execLinkRead port s
  | .laneAssign lane material diameter => Sys2Proof.Machine.execLaneAssign lane material diameter s
  | .laneOpen lane => Sys2Proof.Machine.execLaneOpen lane s
  | .laneClose lane => Sys2Proof.Machine.execLaneClose lane s
  | .laneRead lane position => Sys2Proof.Machine.execLaneRead lane position s
  | .stock lane length lot => Sys2Proof.Machine.execStock lane length lot s
  | .unstock lane => Sys2Proof.Machine.execUnstock lane s
  | .rejectEmptied => Sys2Proof.Machine.execRejectEmptied s
  | .binSet bin capacity => Sys2Proof.Machine.execBinSet bin capacity s
  | .binClose bin => Sys2Proof.Machine.execBinClose bin s
  | .binEmptied bin => Sys2Proof.Machine.execBinEmptied bin s
  | .latheRead lathe hsense => Sys2Proof.Machine.execLatheRead lathe hsense s
  | .latheHold lathe => Sys2Proof.Machine.execLatheHold lathe s
  | .latheRelease lathe => Sys2Proof.Machine.execLatheRelease lathe s
  | .jobRead slot => Sys2Proof.Machine.execJobRead slot s
  | .jobCancel job => Sys2Proof.Machine.execJobCancel job s
  | .shuttleRun => Sys2Proof.Machine.execShuttleRun s
  | .shuttleHalt => Sys2Proof.Machine.execShuttleHalt s
  | .shuttleClear => Sys2Proof.Machine.execShuttleClear s
  | .events => Sys2Proof.Machine.execEvents s
  | .peek => Sys2Proof.Machine.execPeek s
  | .restart => Sys2Proof.Machine.execRestart s
  | .ident => Sys2Proof.Machine.execIdent s
  | .orderComplete => Sys2Proof.Machine.execOrderComplete s
  | .clearComplete => Sys2Proof.Machine.execClearComplete s
  | .messageBegun p c => Sys2Proof.Machine.execMessageBegun p c s
  | .dataCharacter p c => Sys2Proof.Machine.execDataCharacter p c s
  | .restartBreakEnd p => Sys2Proof.Machine.execRestartBreakEnd p s

end Sys2Proof.Machine
end

