-- ==== Sys2Proof/Machine/Step.lean ====
section
/-! DEFINITION. One step: the command at the front of the queue, or a REFCLK period on an empty queue. -/
namespace Sys2Proof.Machine

open Sys2Proof

/-- The prescaler after a REFCLK period (R51). The period that gives a tick is HALL_TICK's: here the counts wait at
their top (log 7). -/
def HallTimer.refclk (t : HallTimer) : HallTimer :=
  if t.binary < Config.binaryTop then { t with binary := t.binary + 1 }
  else if t.decimal + 1 < t.sel.ms then { t with binary := 0, decimal := t.decimal + 1 }
  else t

/-- The part with no command waiting: a REFCLK period passes (log 7). -/
def State.idle (s : State) : State := s.setTimer s.timer.refclk

/-- One step: the command at the front of the queue is taken and carried out; with none waiting the part idles. -/
def step (s : State) : Host.Outcome State Fault Refusal :=
  match s.pending with
  | [] => .next s.idle
  | c :: rest => exec c (s.setPending rest)

/-- The state with the command that a word spells at the front of its queue; no word spells one (log 26). -/
def State.withFetchWord (s : State) (nbits w : Nat) : State :=
  match decodeTableWord nbits w with
  | some c => s.setPending (c :: s.pending)
  | none => s

end Sys2Proof.Machine
end

