-- ==== Sys2Proof/Safety.lean ====
section
/-! DEFINITION. What a well-kept state is: the conditions that the spec gives the part at all times, in the terms the
statements use. -/
namespace Sys2Proof

/-- The bits of a candidate character that stand at a parity setting: the parity bit is one only with parity on
(R169). -/
def RxChar.bits (c : RxChar) (parity : Bool) : List Samples :=
  [c.start] ++ c.data.toList ++ [c.mark] ++ (if parity then [c.parity] else []) ++ [c.stop]

/-- At least two of the three samples are high (R170). -/
def isHigh (x : Samples) : Bool := decide (x = 3 ∨ x = 5 ∨ x = 6 ∨ x = 7)
/-- Some bit's three samples do not all agree (R170). -/
def RxChar.noisy (c : RxChar) (parity : Bool) : Bool := (c.bits parity).any fun x => x != 0 && x != 7
/-- The ones among the data bits, the mark bit and the parity bit (R169). -/
def RxChar.ones (c : RxChar) : Nat := (c.data.toList ++ [c.mark, c.parity]).countP isHigh
/-- The candidate is a character without error, with this mark bit and this byte: start bit low, stop bit high, and with
parity on an even count of ones (R169 to R171). -/
def RxChar.reads (c : RxChar) (parity mark : Bool) (b : Byte) : Prop :=
  isHigh c.start = false ∧ isHigh c.stop = true ∧ isHigh c.mark = mark ∧
    (∀ i : Fin 8, b.getLsbD i.val = isHigh (c.data.read i)) ∧ (parity = true → c.ones % 2 = 0)

end Sys2Proof

namespace Sys2Proof.Machine

open Sys2Proof

/-- The event queue: at most 64 records (R192), ATTN as R195 gives it. -/
def State.eventsOk (s : State) : Prop :=
  s.events.records.length ≤ 64 ∧ s.events.attn = decide (s.params.attnLevel ≤ s.events.records.length)

/-- Every parameter lies in its range (R185). GUARD_REPORT does by its width. -/
def State.paramsOk (s : State) : Prop :=
  s.params.lookahead ≤ 1000000 ∧ s.params.preemptMargin ≤ 1000000 ∧
    (100 ≤ s.params.loadLimit ∧ s.params.loadLimit ≤ 60000) ∧
    (100 ≤ s.params.guardWait ∧ s.params.guardWait ≤ 60000) ∧
    (100 ≤ s.params.stepLimitMove ∧ s.params.stepLimitMove ≤ 60000) ∧
    (100 ≤ s.params.stepLimitHandle ∧ s.params.stepLimitHandle ≤ 30000) ∧ s.params.cutDebounce ≤ 255 ∧
    (1 ≤ s.params.attnLevel ∧ s.params.attnLevel ≤ 64)

/-- A bin's capacity is 1 to 9999 and its count plus dump in flight is at most the capacity (R141). -/
def Bin.ok (x : Bin) : Prop := 1 ≤ x.capacity ∧ x.capacity ≤ 9999 ∧ x.count + x.inFlight ≤ x.capacity
/-- Every bin is as R141 gives. -/
def State.binsOk (s : State) : Prop := ∀ b, (s.bin b).ok

/-- The hold reason set held is the one the account's fields give, and HOLD is commanded asserted exactly when it is
not empty (R22, R23). -/
def State.holdOkAt (s : State) (n : Lathe) : Prop :=
  (s.account n).holdSet = (s.account n).reasons ∧ (s.line n).holdCmd = (s.account n).holdSet.nonempty
/-- Every lathe's hold is as R22 gives. -/
def State.holdOk (s : State) : Prop := ∀ n, s.holdOkAt n

/-- The replies a port holds, waiting or in its transmit register. -/
def Port.replies (q : Port) : Nat :=
  (q.queue.filter fun m => !m.isNotice).length + (match q.tx with
    | some m => if m.isNotice then 0 else 1
    | none => 0)
/-- The notices that wait in a port's queue. -/
def Port.notices (q : Port) : List Msg := q.queue.filter Msg.isNotice
/-- A port's queue: at most one reply not yet fully sent (R177, R179), at most one notice of each kind, at most four
messages (R179). -/
def Port.ok (q : Port) : Prop := q.replies ≤ 1 ∧ (q.notices.map (·.kind)).Nodup ∧ q.queue.length ≤ 4
/-- Every port's queue is as R179 gives, and LP12 is given replies alone. -/
def State.portsOk (s : State) : Prop :=
  (∀ p, (s.port p).ok) ∧ (s.port supervisorPort).notices = []

/-- A cradle bar with the loading mark (R4). -/
def Account.marked (a : Account) : Bool :=
  match a.cradle with
  | some c => c.loading
  | none => false
/-- The load timer runs, or has an expiry to hand on, in LOADING only (R16), and a cradle bar carries the loading
mark in LOADING only (R4). -/
def Account.loadOk (a : Account) : Prop :=
  (a.loadTimer ≠ .stopped → a.state = .loading) ∧ (a.marked = true → a.state = .loading)
/-- Every account's load is as R4 and R16 give. -/
def State.loadOk (s : State) : Prop := ∀ n, (s.account n).loadOk

/-- An account is in NOPROG exactly while its program is absent (R2). -/
def State.programOk (s : State) : Prop := ∀ n, (s.account n).state = .noProg ↔ (s.account n).program = none

/-- A line's counts lie in their ranges (R56, R60, R63). -/
def Line.ok (l : Line) : Prop := l.debounce ≤ 255 ∧ l.settle ≤ 1 ∧ l.mismatch ≤ 3 ∧ l.agreement ≤ 3
/-- A port's six error counts are at most 255 (R181). -/
def ErrorCounts.ok (c : ErrorCounts) : Prop :=
  c.noise ≤ 255 ∧ c.framing ≤ 255 ∧ c.parity ≤ 255 ∧ c.overrun ≤ 255 ∧ c.truncated ≤ 255 ∧ c.bad ≤ 255
/-- The prescaler's counts (R51), the lines' counts, the tray counts (R41) and the error counts lie in their
ranges. -/
def State.countersOk (s : State) : Prop :=
  (s.timer.binary ≤ 16383 ∧ s.timer.decimal < s.timer.sel.ms) ∧ (∀ n, (s.line n).ok) ∧
    (∀ n, (s.account n).tray ≤ 1023) ∧ ∀ p, (s.port p).counts.ok

/-- The receiver takes a falling edge as a candidate: the line was seen high before it, and is not broken (R170,
R172). -/
def Port.listens (q : Port) (c : RxChar) : Prop := q.rx ≠ .broken ∧ (q.seenHigh = true ∨ c.fromHigh = true)

/-! ### The books of the rack, the schedule and the shuttle -/

/-- A nonzero bar id stands in at most one place (R68). -/
def State.idsOk (s : State) : Prop := (s.barIds.filter (· != 0)).Nodup

/-- The DELIVER jobs that hold a claim on lane `k` (R77). -/
def State.claimants (s : State) (k : LaneNo) : List Slot :=
  allSlots.filter fun i => (s.job i).any fun j => j.kind == .deliver && j.claim && j.lane == some k

/-- The return reservation of lane `k` as the active job calls for it: held for a RETURN on its way there (R84). -/
def State.reservedFor (s : State) (k : LaneNo) : Nat :=
  match s.active with
  | some (_, j) => if j.kind = .ret ∧ j.lane = some k then 1 else 0
  | none => 0

/-- The lanes: bars and reservation within 12 places, claims within the bars and one for each claimant, a reservation
exactly for a RETURN on its way (R66, R77, R84). -/
def State.lanesOk (s : State) : Prop :=
  ∀ k, (s.lane k).bars.length + (s.lane k).reserved ≤ 12 ∧ (s.lane k).claimed ≤ (s.lane k).bars.length ∧
    (s.lane k).claimed = (s.claimants k).length ∧ (s.lane k).reserved = s.reservedFor k

/-- The schedule: at most one DELIVER and one COLLECT job a lathe, a pairing deferred once, and job ids distinct (R89,
R92, R94). A conversion may give a lathe a second RETURN job (R114). -/
def State.jobsOk (s : State) : Prop :=
  (∀ i i' j j', s.job i = some j → s.job i' = some j' → j.lathe = j'.lathe → j.kind = j'.kind → j.kind ≠ .ret → i = i') ∧
    s.sched.deferred.Nodup ∧ s.jobIds.Nodup

/-- At most one job is ACTIVE, the one the step record names; a job is SUSPENDED exactly when it is on the stack, which
holds at most two, each once (R103, R105, R117). -/
def State.stackOk (s : State) : Prop :=
  (∀ i, s.seq.job = some i ↔ ∃ j, s.job i = some j ∧ j.state = .active) ∧
    (∀ i, i ∈ s.sched.stack ↔ ∃ j, s.job i = some j ∧ j.state = .suspended) ∧ s.sched.stack.Nodup ∧
    s.sched.stack.length ≤ 2

/-- The load a job carries at its step by the table of R118. -/
def Job.carried (j : Job) : Load :=
  match j.kind, j.step with
  | _, .one | _, .two => .none
  | .collect, _ => .parts
  | _, _ => .bar

/-- What a job's record holds agrees with its kind, state and step: a bar or parts only as it carries them, a claim
exactly while a DELIVER job has a lane to pick from, a lane that a RETURN names only on its way to it (R77, R81, R88,
R97, R101). -/
def Job.ok (j : Job) : Prop :=
  (j.bar.isSome = true ↔ j.carried = .bar) ∧ (j.parts ≠ 0 → j.carried = .parts) ∧
    (j.state ≠ .active → j.step = .one) ∧
    (j.kind ≠ .deliver → j.claim = false ∧ j.short = false ∧ j.cancel = .none) ∧
    (j.kind = .deliver → j.block ≠ .guardParked ∧
      (j.claim = true ↔ (j.step = .one ∨ j.step = .two) ∧ j.block ≠ .noStock) ∧
      (j.claim = true → j.lane.isSome = true) ∧ (j.short = true → j.carried = .bar)) ∧
    (j.kind = .collect → j.bin.isSome = true) ∧ (j.kind = .ret → j.lane.isSome = true → j.carried = .bar) ∧
    (j.state ≠ .waiting → j.block = .none)

/-- The shuttle load is what the active job carries, and NONE without one (R103, R149). -/
def State.loadsOk (s : State) : Prop :=
  (∀ i j, s.job i = some j → j.ok) ∧
    s.shuttle.load = (match s.active with
      | some (_, j) => j.carried
      | none => .none)

/-- The step record, the shuttle state and the outstanding order stand together (R117, R150): an order of purpose STEP
is the active job's present one, phase OUTSTANDING and STEPPING; one of purpose HOME is HOMING; a CLEAR stays in FAULT;
a wait is WAITING, a guard wait one for a lathe; no job is active in UNHOMED, HOMING or IDLE. -/
def State.stepOk (s : State) : Prop :=
  (s.seq.job = none → s.seq.phase = .unissued) ∧
    (s.shuttle.state = .stepping ↔ s.seq.phase = .outstanding) ∧
    (s.shuttle.state = .stepping ↔ ∃ o, s.shuttle.outstanding = some o ∧ o.purpose = .step) ∧
    (s.shuttle.state = .waiting ↔
      s.seq.phase = .guardPending ∨ s.seq.phase = .rejectWait ∨ s.seq.phase = .dumpWait) ∧
    (s.shuttle.state = .homing ↔ ∃ o, s.shuttle.outstanding = some o ∧ o.purpose = .home) ∧
    (∀ o, s.shuttle.outstanding = some o → o.purpose = .clear → s.shuttle.state = .fault) ∧
    (s.shuttle.state = .unhomed ∨ s.shuttle.state = .homing ∨ s.shuttle.state = .idle → s.seq.job = none) ∧
    ∀ i j, s.active = some (i, j) →
      (s.seq.phase = .guardPending → ∃ k n, j.order = some ⟨k, .lathe n⟩) ∧
      ∀ o, s.shuttle.outstanding = some o → o.purpose = .step →
        (j.order.map fun x => (x.kind, some x.target)) = some (o.kind, o.target)

/-- FAULT holds its fault record, home failed is a fault's or a re-issued HOME's with no job active (R159, R166), the
reject rack holds at most 20 bars, and an outstanding PLACE REJECT has a place there (R86, R125). -/
def State.faultOk (s : State) : Prop :=
  (s.shuttle.state = .fault ↔ s.shuttle.fault.isSome = true) ∧
    (s.shuttle.homeFailed = true → (s.shuttle.state = .fault ∨ s.shuttle.state = .homing) ∧ s.seq.job = none) ∧
    s.rack.reject ≤ 20 ∧
    ∀ i j, s.active = some (i, j) → s.seq.phase = .outstanding → j.order = some ⟨.place, .reject⟩ →
      s.rack.reject < 20

/-- The books of the rack, the schedule and the shuttle, taken together. -/
structure State.BooksOk (s : State) : Prop where
  ids : s.idsOk
  lanes : s.lanesOk
  jobs : s.jobsOk
  stack : s.stackOk
  loads : s.loadsOk
  step : s.stepOk
  fault : s.faultOk

/-- The shuttle record after a fault of order `o` is declared (R159): state FAULT, no order outstanding, and a fault
record of the code, the drive fault code, the load the last status word sensed, and the order that failed, which for a
CLEAR is the one that failed before it. -/
def Shuttle.faulted (sh : Shuttle) (code : FaultCode) (drive : Byte) (o : OutOrder) : Shuttle :=
  { sh with
    state := .fault
    outstanding := none
    heldWord := none
    noAnswer := 0
    fault := some
      { code := code
        failed := if o.purpose = .clear then (sh.fault.map (·.failed)).getD o else o
        driveCode := drive
        loadSensed := (sh.lastStatus.map sensedLoad).getD .none }
    homeFailed := sh.homeFailed || o.purpose == .home }

/-- The value field of DRIVE_FAULT (R159): fault code, failed order kind, drive fault code and load sensed, from the
top byte down. -/
def driveFaultValue (r : FaultRecord) : BitVec 32 :=
  BitVec.ofNat 32
    (r.code.code * 2 ^ 24 + r.failed.kind.code * 2 ^ 16 + r.driveCode.toNat * 2 ^ 8 + r.loadSensed.code)

/-- Station kind and station index of a station in a message (R152, R184), zeros for none. -/
def stationBytes : Option Station → List Byte
  | none => [0, 0]
  | some (.lane k) => [1, BitVec.ofNat 8 k.val]
  | some (.lathe n) => [2, BitVec.ofNat 8 n.val]
  | some (.bin b) => [3, BitVec.ofNat 8 b.val]
  | some .reject => [4, 0]
  | some .home => [5, 0]

/-- Order kind of an order in a message (R152, R184). -/
def orderByte : OrderKind → Byte
  | .home => 1 | .move => 2 | .pick => 3 | .place => 4 | .empty => 5 | .dump => 6 | .stop => 7 | .clear => 8 | .poll => 9

/-- Load of the shuttle in a message (R184). -/
def loadByte : Load → Byte
  | .none => 0 | .bar => 1 | .parts => 2

/-- Shuttle state in a message (R184). -/
def shuttleStateByte : ShuttleState → Byte
  | .unhomed => 0 | .homing => 1 | .idle => 2 | .stepping => 3 | .waiting => 4 | .halted => 5 | .fault => 6

/-- Position kind and index in a message: a station's, 6 for BETWEEN and 7 for UNKNOWN (R184). -/
def positionBytes : Position → List Byte
  | .at st => stationBytes (some st)
  | .between => [6, 0]
  | .unknown => [7, 0]

/-- Purpose of an order in a message (R184). -/
def purposeByte : Purpose → Byte
  | .step => 0 | .home => 1 | .clear => 2

/-- Fault code in a message (R159). -/
def faultByte : FaultCode → Byte
  | .drive => 1 | .position => 2 | .noAnswer => 3 | .timeout => 4 | .load => 5 | .unknownLoad => 6

/-- Step index in a message (R184). -/
def stepByte : StepIx → Byte
  | .one => 1 | .two => 2 | .three => 3 | .four => 4

/-- The 18 bytes of the SHUTTLE reply's fields as R162 and R184 give them, in their order: state; position; load; flags;
outstanding order, its target and its purpose; no-answer count; fault code, failed order and its target, drive fault
code and load sensed; active job id and step index. What is absent is sent as zeros (the model's reading, log 22). -/
def State.shuttleFields (s : State) : List Byte :=
  [shuttleStateByte s.shuttle.state] ++ positionBytes s.shuttle.position ++
    [loadByte s.shuttle.load,
      BitVec.ofNat 8
        (s.shuttle.haltPending.toNat + 2 * s.shuttle.homeFailed.toNat + 4 * s.shuttle.fault.isSome.toNat +
          8 * s.shuttle.outstanding.isSome.toNat)] ++
    (match s.shuttle.outstanding with
      | some o => [orderByte o.kind] ++ stationBytes o.target ++ [purposeByte o.purpose]
      | none => [0, 0, 0, 0]) ++
    [BitVec.ofNat 8 s.shuttle.noAnswer] ++
    (match s.shuttle.fault with
      | some f => [faultByte f.code, orderByte f.failed.kind] ++ stationBytes f.failed.target ++
          [f.driveCode, loadByte f.loadSensed]
      | none => [0, 0, 0, 0, 0, 0]) ++
    (match s.active with
      | some (_, j) => [BitVec.ofNat 8 j.id, stepByte j.step]
      | none => [0, 0])

/-- The state `s` with the SHUTTLE reply of its own fields queued on LP12 (R162). -/
def State.reported (s : State) : State := s.reply supervisorPort ⟨0x59, s.shuttleFields⟩

/-- The active job, if any, carries no cancel mark. -/
def State.unmarked (s : State) : Prop := ∀ i j, s.active = some (i, j) → j.cancel = .none

/-- No job stands ready to take the shuttle: the suspension stack is empty and no slot's job is eligible (R103). -/
def State.noneReady (s : State) : Prop := s.sched.stack = [] ∧ ∀ i j, s.job i = some j → j.eligible = false

/-- Every GUARD of this vector shows the level held for it (R60). -/
def State.guardsQuiet (s : State) (guards : BitVec 12) : Prop :=
  s.guardSeen = true ∧ ∀ n : Lathe, guards.getLsbD n.val = (s.line n).guardClosed

/-- An order of a step ends: the outstanding order `o`, no CLEAR, has the held word `w` that completes it. -/
def State.completes (s : State) (o : OutOrder) (w : Word) : Prop :=
  s.shuttle.outstanding = some o ∧ s.shuttle.heldWord = some w ∧ o.purpose = .step ∧ o.kind ≠ .clear

/-- No job but that of slot `i` stands ready to take the shuttle. -/
def State.noOtherReady (s : State) (i : Slot) : Prop :=
  s.sched.stack = [] ∧ ∀ i' j', i' ≠ i → s.job i' = some j' → j'.eligible = false

/-- The job of slot `i` goes before that of slot `i'`: the earlier deadline, then the earlier creation time, then the
lower slot (R99, R103). -/
def goesBefore (i : Slot) (j : Job) (i' : Slot) (j' : Job) : Prop :=
  isBefore j.deadline j'.deadline = true ∨
    (j.deadline = j'.deadline ∧
      (isBefore j.created j'.created = true ∨ (j.created = j'.created ∧ i < i')))

/-- The block that the gate of bin record `x` gives a COLLECT job at a tray capacity (R147). -/
def gateOf (x : Bin) (capacity : Nat) : BlockReason :=
  if x.isOpen = false then .binClosed else if x.capacity - x.count - x.inFlight < capacity then .binFull else .none

/-- A job as R93 makes it: WAITING at step 1 with no block, lane, claim, bin, load or mark. -/
def madeJob (id : Nat) (k : JobKind) (n : Lathe) (created deadline : Time) : Job :=
  { id := id, kind := k, lathe := n, lane := none, claim := false, bin := none, state := .waiting, block := .none
    deadline := deadline, created := created, step := .one, short := false, bar := none, parts := 0, retries := 0
    cancel := .none }

/-- The home lane of a bar is fit for its return: open, of its material and class, with a place free (R84). -/
abbrev homeFit (home : LaneRecord) (b : BarRecord) : Prop :=
  home.isOpen = true ∧ home.material = b.material ∧ home.diameter = b.diameter ∧
    home.bars.length + home.reserved < 12

/-- Lane record `l` takes a claim for program `g`: open, of its material and class, with available stock (R78). -/
def takesClaim (l : LaneRecord) (g : Program) : Prop :=
  l.isOpen = true ∧ l.material = g.material ∧ l.diameter = g.diameter ∧ l.claimed < l.bars.length

/-- `k` is the lowest of these lanes that takes a claim for program `g` (R78). -/
def firstLane (lanes : LaneNo → LaneRecord) (g : Program) (k : LaneNo) : Prop :=
  takesClaim (lanes k) g ∧ ∀ k', k' < k → ¬takesClaim (lanes k') g

/-- The shuttle record once a step's order has been issued with a speed class (R155). -/
def Shuttle.issued (sh : Shuttle) (k : OrderKind) (st : Station) (sp : Speed) : Shuttle :=
  { sh with
    state := .stepping
    outstanding := some ⟨k, some st, sp, .step⟩
    noAnswer := 0
    lastTarget := some st
    shout := some (exchangeBits k (some st) sp)
    heldWord := none }

/-- The shuttle record once its outstanding order has ended with the word `w` and the load is `l` (R120, R154). -/
def Shuttle.ended (sh : Shuttle) (w : Word) (l : Load) : Shuttle :=
  { sh with
    lastStatus := some w
    position := statusPosition w
    noAnswer := 0
    outstanding := none
    heldWord := none
    load := l }

/-- How the order `o` of the step of job `j` is taken up from state `s` with shuttle record `sh`, `t` being the state
after it: at an open guard it waits in GUARD_PENDING, a PLACE REJECT with 20 bars on the reject rack in REJECT_WAIT with
REJECT_FULL, a DUMP that does not fit in DUMP_WAIT with BIN_WAIT, and any other is issued, an EMPTY noting the tray
count as T_issue and a DUMP its parts as the dump in flight (R119, R123, R125, R130, R132, R148, R155). -/
def State.stepTaken (s t : State) (sh : Shuttle) (j : Job) (o : Order) : Prop :=
  let free (b : BinNo) : Nat := (s.bin b).capacity - (s.bin b).count - (s.bin b).inFlight
  let guarded : Prop := ∃ n, o.target = .lathe n ∧ (s.line n).guardClosed = false
  let noPlace : Prop := o = ⟨.place, .reject⟩ ∧ 20 ≤ s.rack.reject
  let noRoom : Prop := ∃ b, o = ⟨.dump, .bin b⟩ ∧ ((s.bin b).isOpen = false ∨ free b < j.parts)
  let seq (ph : Phase) : StepRecord := { s.seq with phase := ph, order := some o, expiries := 0, boundary := false }
  let waiting : Shuttle := { sh with state := .waiting }
  (guarded →
    t.shuttle = waiting ∧ t.seq = seq .guardPending ∧ t.timer.guardWait = .running s.params.guardWait ∧
      t.events = s.events ∧ t.bins = s.bins) ∧
  (noPlace →
    t.shuttle = waiting ∧ t.seq = seq .rejectWait ∧ t.timer.guardWait = s.timer.guardWait ∧ t.bins = s.bins ∧
      t.events.records = s.events.records ++
        [⟨.rejectFull, s.now, none, none, none, some j.id, BitVec.ofNat 32 ((j.bar.map (·.id)).getD 0)⟩]) ∧
  (noRoom →
    t.shuttle = waiting ∧ t.seq = seq .dumpWait ∧ t.timer.guardWait = s.timer.guardWait ∧ t.bins = s.bins ∧
      ∀ b, o.target = .bin b → t.events.records = s.events.records ++
        [⟨.binWait, s.now, some j.lathe, none, some b, some j.id, halves j.parts (free b)⟩]) ∧
  (¬guarded → ¬noPlace → ¬noRoom →
    t.shuttle = sh.issued o.kind o.target sh.load.speed ∧
      t.seq =
        { seq .outstanding with
          tIssue := if o.kind = .empty then (s.account j.lathe).tray else s.seq.tIssue } ∧
      t.timer.stepTimer =
        .running (if o.kind = .move then s.params.stepLimitMove else s.params.stepLimitHandle) ∧
      t.timer.guardWait = s.timer.guardWait ∧ t.events = s.events ∧
      ∀ b, t.bin b =
        if o = ⟨.dump, .bin b⟩ then { s.bin b with inFlight := j.parts } else s.bin b)

/-- The compare of lathe `n` fires when it is tested at hall time `now`: armed, not spent, its value at or before it
(R59). -/
def State.reaches (s : State) (n : Lathe) (now : Time) : Bool :=
  (s.compareOf n).armed && !(s.compareOf n).spent && atOrBefore (s.compareOf n).value now

/-- What the DELIVERY_COMPARE_FIRE rows of lathes 0 to 11, run in turn, make of the state `u`: the tests that a tick
makes of the compares, last in it (R59; the model's place for them, log 33). -/
def State.compareRows (u : State) : Host.Outcome State Fault Refusal :=
  (List.finRange 12).foldl (init := .next u) fun o n =>
    match o with
    | .next v => exec (.deliveryCompareFire n) v
    | .fault r => .fault r
    | .refused r => .refused r

/-- A time that account `a` predicts, as it is used at hall time `now` between recomputations: the one `held`, or past
the age limit of t_last t_last + min(count × C, 2^30) with t_last 2^30 ticks before the present hall time (R39, R43 to
R45; the model's reading, log 12). -/
def Account.used (a : Account) (now held : Time) (count cycle : Nat) : Time :=
  if 1073741824 ≤ a.tLast.age then now - 1073741824#32 + BitVec.ofNat 32 (min (count * cycle) 1073741824) else held

/-- The bar id `x` is in use: a bar of a lane, of a job, on a cradle or in a spindle has it (R68). -/
def State.barIdUsed (s : State) (x : Nat) : Prop :=
  (∃ k, ∃ b ∈ (s.lane k).bars, b.id = x) ∨ (∃ i j b, s.job i = some j ∧ j.bar = some b ∧ b.id = x) ∨
    (∃ n c, (s.account n).cradle = some c ∧ c.bar.id = x) ∨ ∃ n c, (s.account n).current = some c ∧ c.id = x

/-- What no command of the lathes, the sequencer or the drive changes: the waiting commands, the parameters, the input
pins, the decoder's pointer, the hall time, the prescaler, the tick selection and the capture registers. -/
structure Kept (s t : State) : Prop where
  pending : t.pending = s.pending
  params : t.params = s.params
  guardSeen : t.guardSeen = s.guardSeen
  pins : t.pins = s.pins
  pointer : t.pointer = s.pointer
  now : t.now = s.now
  binary : t.timer.binary = s.timer.binary
  decimal : t.timer.decimal = s.timer.decimal
  sel : t.timer.sel = s.timer.sel
  capture : t.timer.capture = s.timer.capture

/-- The command of a request's own row, for a request taken from port `p` with the HSENSE levels `hsense`. None where
the request is not one of the port's kinds (R174). -/
def requestRow (p : PortNo) (hsense : BitVec 12) (r : Request) : Option Instr :=
  match latheOf p, r with
  | some n, .setup m => some (.setup n m)
  | some n, .ready => some (.ready n)
  | some n, .loaded => some (.loaded n)
  | some n, .stop => some (.stop n)
  | some n, .resume => some (.resume n)
  | some n, .status => some (.status n)
  | some _, _ => none
  | none, .paramSet k v => some (.paramSet k v)
  | none, .paramGet k => some (.paramGet k)
  | none, .tickSet ms => some (.tickSet ms)
  | none, .linkSet q rate parity => some (.linkSet q rate parity)
  | none, .linkRead q => some (.linkRead q)
  | none, .laneAssign k m d => some (.laneAssign k m d)
  | none, .laneOpen k => some (.laneOpen k)
  | none, .laneClose k => some (.laneClose k)
  | none, .laneRead k i => some (.laneRead k i)
  | none, .stock k l t => some (.stock k l t)
  | none, .unstock k => some (.unstock k)
  | none, .rejectEmptied => some .rejectEmptied
  | none, .binSet b c => some (.binSet b c)
  | none, .binClose b => some (.binClose b)
  | none, .binEmptied b => some (.binEmptied b)
  | none, .latheRead n => some (.latheRead n hsense)
  | none, .latheHold n => some (.latheHold n)
  | none, .latheRelease n => some (.latheRelease n)
  | none, .jobRead i => some (.jobRead i)
  | none, .jobCancel j => some (.jobCancel j)
  | none, .shuttleRun => some .shuttleRun
  | none, .shuttleHalt => some .shuttleHalt
  | none, .shuttleClear => some .shuttleClear
  | none, .events => some .events
  | none, .peek => some .peek
  | none, .restart => some .restart
  | none, .ident => some .ident
  | none, _ => none

end Sys2Proof.Machine
end

