-- ==== Sys2Proof/Certificates/Slice0/Obligations.lean ====
section
/-! DEFINITION. The statements for the provers.

Three choices of the model stand in many hypotheses. A request's own row acts only on a port that holds no reply not
yet fully sent, `replyPending = false` (log 1). A poll's word that ends the outstanding order is held until its own row
takes it, `heldWord = some w` (log 5). A timer that has run out is held as `.expired` until its own row takes it
(log 6). -/

open Sys2Proof Sys2Proof.Machine

/-! ### The queue, the clock and the commands as a whole -/

/-- The commands wait first in, first out: a step carries out the front one with the rest of the queue (the model's
queue, log 26). -/
def Obligations.StepRunsFrontCommand : Prop :=
  ∀ (c : Instr) (rest : List Instr) (s : State), step (s.setPending (c :: rest)) = exec c (s.setPending rest)

/-- No command stops the part (the model's reading of a spec that names no such stop, log 27), and none touches the
commands that wait (the model's queue, log 26). -/
def Obligations.EveryCommandCompletes : Prop :=
  ∀ (c : Instr) (s : State), ∃ t, exec c s = .next t ∧ t.pending = s.pending

/-- With no command waiting a step is one REFCLK period of the prescaler: the binary count advances to 16383, its
return to 0 advances the decimal count, and at both tops the counts wait for HALL_TICK (the model's choice, log 7).
Nothing else changes. -/
def Obligations.IdleStepCountsRefclk : Prop :=
  ∀ s : State, s.pending = [] →
    step s = .next (s.setTimer
      { s.timer with
        binary :=
          if s.timer.binary < 16383 then s.timer.binary + 1
          else if s.timer.decimal + 1 < s.timer.sel.ms then 0 else s.timer.binary
        decimal :=
          if s.timer.binary < 16383 then s.timer.decimal
          else if s.timer.decimal + 1 < s.timer.sel.ms then s.timer.decimal + 1 else s.timer.decimal })

/-- The message of every request of R184 reads back as that request, whatever its fields: KIND first, LEN the count
of its bytes and within 3 to 24, all bytes summing to 0 modulo 256. On the line, with parity on or off, the characters
of any message read back as its head character and its data characters, without noise or error. -/
def Obligations.RequestMessageReadsBack : Prop :=
  (∀ r : Request,
    parseRequest r.bytes = some r ∧ r.bytes[0]? = some r.kind ∧
      r.bytes[1]? = some (BitVec.ofNat 8 r.bytes.length) ∧ 3 ≤ r.bytes.length ∧ r.bytes.length ≤ 24 ∧
      byteSum r.bytes = 0) ∧
  ∀ (parity : Bool) (kind : Byte) (rest : List Byte),
    let chars := sentChars parity (kind :: rest)
    chars.map (fun bits => (RxChar.ofBits bits).received parity) = .head kind :: rest.map Received.data ∧
      ∀ bits ∈ chars, bits.length = (if parity then 12 else 11) ∧ (RxChar.ofBits bits).noise parity = false

/-- POWER_ON_RESET brings every account to the values of R5, commands every HOLD asserted, queues nothing and leaves
the event queue empty. -/
def Obligations.PowerOnResetAccounts : Prop :=
  ∀ s : State, ∃ t, exec .powerOnReset s = .next t ∧
    (∀ n, t.account n =
      { state := .noProg, resume := .idle, program := none, current := none, cradle := none, tray := 0
        cycle := none, tLast := ⟨0, 0⟩, sampleValid := false, partsLeft := none, tOut := none, tFull := none
        loadFault := false, supervisor := false, stockShort := false, loadTimer := .stopped
        awaitEntry := ⟨0, 0⟩, holdSet := ⟨true, false, false, false, false, false, false⟩ } ∧
      (t.line n).holdCmd = true ∧ (t.port (lathePort n)).queue = [] ∧ (t.port (lathePort n)).tx = none) ∧
    t.events.records = []

/-- POWER_ON_RESET brings every other block to its power-on values. The waiting commands (log 26), the levels seen on
the input pins (log 15) and the model's count of free values (log 30) stand: the model's choices; so are the empty order
of the cleared step record (log 32) and the line not seen high (log 31). -/
def Obligations.PowerOnResetBlocks : Prop :=
  ∀ s : State, ∃ t, exec .powerOnReset s = .next t ∧
    (∀ k, t.lane k = ⟨0, 0, true, [], 0, 0⟩) ∧ t.rack.reject = 0 ∧ t.rack.lastBarId = 0 ∧
    (∀ i, t.job i = none) ∧ t.sched.deferred = [] ∧ t.sched.stack = [] ∧ t.sched.lastJobId = 0 ∧
    t.seq = ⟨none, .unissued, none, 0, 0, false⟩ ∧ (∀ b, t.bin b = ⟨2000, 0, true, 0⟩) ∧
    t.shuttle.state = .unhomed ∧ t.shuttle.position = .unknown ∧ t.shuttle.load = .none ∧
    t.shuttle.outstanding = none ∧ t.shuttle.lastStatus = none ∧ t.shuttle.noAnswer = 0 ∧
    t.shuttle.haltPending = false ∧ t.shuttle.fault = none ∧ t.shuttle.homeFailed = false ∧
    (t.timer.binary = 0 ∧ t.timer.decimal = 0 ∧ t.timer.sel = .ms10 ∧ t.now = 0 ∧ t.timer.guardWait = .stopped ∧
      t.timer.stepTimer = .stopped) ∧
    (∀ n, t.compareOf n = ⟨false, 0, false⟩ ∧ t.timer.capture.read n = 0 ∧
      t.line n = ⟨255, false, 0, true, 0, 0, false⟩) ∧ t.guardSeen = false ∧
    (∀ p, (t.port p).setting = ⟨.b19200, true⟩ ∧ (t.port p).rx = .lineIdle ∧ (t.port p).seenHigh = false ∧
      (t.port p).mailbox = none ∧ (t.port p).queue = [] ∧ (t.port p).tx = none ∧ (t.port p).breakMark = false ∧
      (t.port p).counts = ⟨0, 0, 0, 0, 0, 0⟩) ∧
    t.pointer = 12 ∧ t.params = ⟨60000, 6000, 12000, 3000, 6000, 2000, 20, 1, 4095⟩ ∧
    t.events = ⟨[], false, false⟩ ∧ t.pending = s.pending ∧ t.pins = s.pins ∧ t.draws = s.draws

/-! ### Ticks -/

/-- HALL_TICK in every state: the hall time is raised by 1 and both prescaler counts are 0; every debounce age is
raised by 1 up to 255; every GUARD is sampled by R60; the pins take the levels seen; the parameters, the tick
selection, the capture registers and the bar lists stand. A guard change, alone at its tick and with no order
outstanding, is the first event posted where GUARD_REPORT has the lathe's bit, and is no event otherwise. A change to
open leaves the shuttle and the step record. A change to closed ends a guard wait at that lathe, and the order that
waited is issued; with no guard wait and the shuttle not free it clears GUARD_PARKED from the lathe's WAITING jobs, a
COLLECT job taking its bin's block, and from no other lathe's. Every armed, unspent compare that the new hall time
has reached is spent, and no other changes; its lathe then has a DELIVER job or a deferred request for one, unless it
is stock-short. (The model's choices: the poll comes first, the lathes are sampled one by one and the compares are
tested last, logs 4 and 33; GUARD_CHANGE is posted before what the sequencer's handling of the change posts, log 20.) -/
def Obligations.HallTickCountsAndSamples : Prop :=
  ∀ (guards hsense : BitVec 12) (shin : BitVec 64) (s : State), ∃ u t : State,
    exec (.hallTick guards hsense shin) s = .next t ∧ u.compareRows = .next t ∧
    (∀ n, u.compareOf n = s.compareOf n ∧
      t.compareOf n = if s.reaches n (s.now + 1) then { s.compareOf n with spent := true } else s.compareOf n) ∧
    (∀ n, s.reaches n (s.now + 1) = true → (s.account n).program.isSome = true →
      t.hasJob n .deliver = true ∨ (n, JobKind.deliver) ∈ t.sched.deferred ∨ (s.account n).stockShort = true) ∧
    t.now = s.now + 1 ∧ t.timer.binary = 0 ∧ t.timer.decimal = 0 ∧ t.timer.sel = s.timer.sel ∧
    t.timer.capture = s.timer.capture ∧ t.params = s.params ∧ t.guardSeen = true ∧ t.pins.guards = guards ∧
    t.pins.hsense = hsense ∧ t.pins.cut = s.pins.cut ∧ (∀ k, (t.lane k).bars = (s.lane k).bars) ∧
    (∀ n : Lathe,
      (t.line n).debounce = min ((s.line n).debounce + 1) 255 ∧
      (t.line n).guardClosed =
        (if s.guardSeen = false ∨ ((s.line n).settle ≠ 0 ∧ guards.getLsbD n.val ≠ (s.line n).guardClosed)
          then guards.getLsbD n.val else (s.line n).guardClosed) ∧
      (t.line n).settle =
        (if s.guardSeen = false then (s.line n).settle
          else if guards.getLsbD n.val ≠ (s.line n).guardClosed ∧ (s.line n).settle = 0 then 1 else 0)) ∧
    ∀ n : Lathe, s.guardSeen = true → s.shuttle.outstanding = none → (s.line n).settle ≠ 0 →
      (∀ m : Lathe, guards.getLsbD m.val ≠ (s.line m).guardClosed ↔ m = n) → s.events.records.length < 64 →
      let closed := guards.getLsbD n.val
      (∃ more, u.events.records = s.events.records ++
          ((if s.params.guardReport.getLsbD n.val then
            [⟨.guardChange, s.now + 1, some n, none, none, none, if closed then 0 else 1⟩] else []) ++ more) ∧
        ∀ e ∈ more, e.kind ≠ .guardChange) ∧
      (closed = false → u.seq = s.seq ∧ u.shuttle = s.shuttle ∧ u.sched.stack = s.sched.stack) ∧
      (∀ i j k, closed = true → s.seq.phase = .guardPending → s.active = some (i, j) → j.lathe = n →
        j.order = some ⟨k, .lathe n⟩ →
        (j.kind = .ret → j.step = .two → ∃ c, (s.account n).cradle = some c ∧ c.loading = false) →
        u.shuttle = s.shuttle.issued k (.lathe n) s.shuttle.load.speed ∧ u.seq.phase = .outstanding ∧
          u.seq.job = some i ∧ u.timer.guardWait = .stopped ∧
          u.timer.stepTimer = .running (if k = .move then s.params.stepLimitMove else s.params.stepLimitHandle)) ∧
      (closed = true → s.seq.phase ≠ .guardPending → s.shuttleFree = false →
        ∀ i j, s.job i = some j → j.state = .waiting → j.block = .guardParked →
          ∃ j', u.job i = some j' ∧ j'.id = j.id ∧ j'.state = .waiting ∧
            (j.lathe ≠ n → j'.block = .guardParked) ∧
            (j.lathe = n → j.kind ≠ .collect → j'.block = .none) ∧
            ∀ b g, j.lathe = n → j.kind = .collect → j.bin = some b →
              (s.account n).program = some g → j'.block = gateOf (s.bin b) g.capacity)

/-- A quiet tick: no order outstanding and every GUARD showing its held level. Each account's, line's and job's count
moves by its own rule, every HOLD sense is judged by R63, HOLD_MISMATCH is raised lathe by lathe, and no
other block changes. (The model's choices: the order of the lathes, log 4; a timer that runs out is held as expired,
log 6; every held time, deadline and creation time is aged at every tick, log 12.) Last in the tick every compare is
tested (the model's place for it, log 33), and with none reached nothing comes of it. -/
def Obligations.QuietTickChangesCountsOnly : Prop :=
  ∀ (guards hsense : BitVec 12) (shin : BitVec 64) (s : State),
    s.shuttle.outstanding = none → s.guardsQuiet guards → s.events.records.length + 12 ≤ 64 →
    ∃ u t : State, exec (.hallTick guards hsense shin) s = .next t ∧ u.compareRows = .next t ∧
      ((∀ n, s.reaches n (s.now + 1) = false) → t = u) ∧
      (∀ n : Lathe, u.line n =
        { s.line n with
          debounce := min ((s.line n).debounce + 1) 255
          settle := 0
          mismatch :=
            if hsense.getLsbD n.val = (s.line n).holdCmd then 0 else min ((s.line n).mismatch + 1) 3
          agreement :=
            if hsense.getLsbD n.val = (s.line n).holdCmd then min ((s.line n).agreement + 1) 3 else 0
          reported :=
            if hsense.getLsbD n.val = (s.line n).holdCmd then
              (s.line n).reported && decide ((s.line n).agreement + 1 < 3)
            else (s.line n).reported || decide (3 ≤ (s.line n).mismatch + 1) }) ∧
      u.events.records = s.events.records ++
        ((List.finRange 12).filter fun n =>
          hsense.getLsbD n.val != (s.line n).holdCmd && decide (3 ≤ (s.line n).mismatch + 1) &&
            !(s.line n).reported).map (fun n =>
          ⟨.holdMismatch, s.now + 1, some n, none, none, none,
            BitVec.ofNat 32 ((s.line n).holdCmd.toNat + 256 * (hsense.getLsbD n.val).toNat)⟩) ∧
      u.events.overflow = s.events.overflow ∧
      (∀ n : Lathe, u.account n =
        { s.account n with
          loadTimer := match (s.account n).loadTimer with
            | .running r => if r ≤ 1 then .expired else .running (r - 1)
            | x => x
          tLast := (s.account n).tLast.tick (s.now + 1)
          awaitEntry := (s.account n).awaitEntry.tick (s.now + 1) }) ∧
      (∀ i : Slot, u.job i = (s.job i).map fun j =>
        { j with
          deadline := ageTime j.deadline (s.now + 1)
          created := ageTime j.created (s.now + 1) }) ∧
      u.sched.deferred = s.sched.deferred ∧ u.sched.stack = s.sched.stack ∧
      u.sched.lastJobId = s.sched.lastJobId ∧ u.timer.compare = s.timer.compare ∧
      u.timer.guardWait = (match s.timer.guardWait with
        | .running r => if r ≤ 1 then .expired else .running (r - 1)
        | x => x) ∧
      u.timer.stepTimer = (match s.timer.stepTimer with
        | .running r => if r ≤ 1 then .expired else .running (r - 1)
        | x => x) ∧
      u.rack = s.rack ∧ u.seq = s.seq ∧ u.bins = s.bins ∧ u.shuttle = s.shuttle ∧ u.ports = s.ports ∧
      u.pointer = s.pointer ∧ u.draws = s.draws ∧ u.pending = s.pending

/-! ### The drive's polls and faults -/

/-- A tick's poll that neither ends nor fails the outstanding order, with every GUARD quiet: POLL goes out with the
target of the order last issued and the speed class of the load, a filler word of zeros behind it, and the status word
is what SHIN shows at the last 32 of the 64 clocks; an unanswered word raises the no-answer count; an answered one
becomes the last status word and gives the position; one that ends the order is held for its own command (the model's
choice, log 5). The order stays outstanding and the sequencer is not reached; the tests of the compares follow (logs 4
and 33). -/
def Obligations.PollGoesOn : Prop :=
  ∀ (guards hsense : BitVec 12) (shin : BitVec 64) (s : State) (o : OutOrder),
    s.shuttle.outstanding = some o → s.shuttle.heldWord = none → s.shuttle.noAnswer < 3 → s.guardsQuiet guards →
    let word : Word := shin.extractLsb' 0 32
    ¬(answered word = true ∧ endsOrder word o = false ∧
      (statusState word = 3 ∨ (statusState word = 2 ∧ statusEcho word = o.kind.code ∧ o.kind ≠ .clear))) →
    ∃ u t : State, exec (.hallTick guards hsense shin) s = .next t ∧ u.compareRows = .next t ∧
      u.shuttle =
        (if answered word = false then
          { s.shuttle with
            noAnswer := s.shuttle.noAnswer + 1
            shout := some (exchangeBits .poll s.shuttle.lastTarget s.shuttle.load.speed) }
        else if endsOrder word o = true then
          { s.shuttle with
            heldWord := some word
            shout := some (exchangeBits .poll s.shuttle.lastTarget s.shuttle.load.speed) }
        else
          { s.shuttle with
            noAnswer := 0
            lastStatus := some word
            position := statusPosition word
            shout := some (exchangeBits .poll s.shuttle.lastTarget s.shuttle.load.speed) }) ∧
      (∃ out, u.shuttle.shout = some out ∧ out.extractLsb' 60 4 = 9 ∧ out.extractLsb' 0 32 = 0) ∧
      u.seq = s.seq ∧ u.rack = s.rack ∧ u.bins = s.bins ∧ u.ports = s.ports ∧ u.sched.stack = s.sched.stack

/-- A tick's poll that fails the outstanding order, with every GUARD quiet: drive state FAULT gives a DRIVE fault with
the word's drive fault code, DONE with the order's echo at another station a POSITION fault. The step timer stops, a
step's phase returns to UNISSUED, a DUMP's parts in flight are released, and DRIVE_FAULT is the first record the tick
posts (the model polls before it samples the lines and tests the compares, logs 4 and 33). With a cancel mark and load
NONE, a failed step's DELIVER job is removed before the event, which then names no job, and no other job is but aged
(log 12); with a load it stays as it is. (For the removal: nothing is deferred and a claimed lane is closed. The empty
order of the cleared step record is the model's choice, log 32.) -/
def Obligations.PollFaultsOrder : Prop :=
  ∀ (guards hsense : BitVec 12) (shin : BitVec 64) (s : State) (o : OutOrder),
    s.shuttle.outstanding = some o → s.shuttle.heldWord = none → s.shuttle.noAnswer < 3 → s.guardsQuiet guards →
    let word : Word := shin.extractLsb' 0 32
    s.events.records.length < 64 → answered word = true → endsOrder word o = false →
    (statusState word = 3 ∨ (statusState word = 2 ∧ statusEcho word = o.kind.code ∧ o.kind ≠ .clear)) →
    let failed : Shuttle :=
      Shuttle.faulted
        { s.shuttle with
          lastStatus := some word
          position := statusPosition word
          shout := some (exchangeBits .poll s.shuttle.lastTarget s.shuttle.load.speed) }
        (if statusState word = 3 then .drive else .position)
        (if statusState word = 3 then statusDriveCode word else 0) o
    let fault (u : State) (id : Option Nat) : Prop :=
      ∃ f, failed.fault = some f ∧
        u.events.records[s.events.records.length]? =
          some ⟨.driveFault, s.now + 1, none, none, none, id, driveFaultValue f⟩
    ∃ u t : State, exec (.hallTick guards hsense shin) s = .next t ∧ u.compareRows = .next t ∧ u.shuttle = failed ∧
      u.timer.stepTimer = .stopped ∧ u.ports = s.ports ∧
      (s.unmarked ∨ o.purpose ≠ .step ∨ s.shuttle.load ≠ .none →
        fault u (s.active.map (·.2.id)) ∧
          u.seq = (if o.purpose = .step then { s.seq with phase := .unissued } else s.seq) ∧
          (∀ b, u.bin b =
            if o.purpose = .step ∧ o.kind = .dump ∧ o.target = some (.bin b) then { s.bin b with inFlight := 0 }
            else s.bin b) ∧
          u.rack = s.rack) ∧
      ∀ i j, s.active = some (i, j) → j.kind = .deliver → j.cancel ≠ .none → o.purpose = .step →
        s.shuttle.load = .none → s.sched.deferred = [] →
        (∀ k, j.claim = true → j.lane = some k → (s.lane k).isOpen = false) →
        fault u none ∧ u.job i = none ∧
          (∀ i', i' ≠ i → u.job i' = (s.job i').map fun j' =>
            { j' with
              deadline := ageTime j'.deadline (s.now + 1)
              created := ageTime j'.created (s.now + 1) }) ∧
          u.seq = ⟨none, .unissued, none, 0, 0, false⟩ ∧
          ∀ k, u.lane k =
            if j.claim = true ∧ j.lane = some k then { s.lane k with claimed := (s.lane k).claimed - 1 }
            else s.lane k

/-- NO_ANSWER_FAULT at a no-answer count of 3 and STEP_TIMER_EXPIRY of a timer that has run out, each with an order
outstanding: a fault NO_ANSWER with the position UNKNOWN, or a fault TIMEOUT followed by a STOP exchange. With no cancel
mark on the active job, DRIVE_FAULT is posted, a step's phase returns to UNISSUED, a DUMP's parts in flight are
released, and nothing else changes. With a mark and load NONE, a failed step's DELIVER job is removed before the event,
which then names no job; with a load it stays as it is. (For the removal: nothing is deferred and a claimed lane is
closed. The empty order of the cleared step record is the model's choice, log 32.) -/
def Obligations.SilentDriveFaultsOrder : Prop :=
  ∀ (s : State) (o : OutOrder), s.shuttle.outstanding = some o → s.events.records.length < 64 →
    let after (t : State) (sh : Shuttle) (code : FaultCode) : Prop :=
      (∃ f, (sh.faulted code 0 o).fault = some f ∧
        t.events.records = s.events.records ++
          [⟨.driveFault, s.now, none, none, none, s.active.map (·.2.id), driveFaultValue f⟩]) ∧
      t.events.overflow = s.events.overflow ∧
      t.timer = { s.timer with stepTimer := .stopped } ∧
      t.seq = (if o.purpose = .step then { s.seq with phase := .unissued } else s.seq) ∧
      (∀ b, t.bin b =
        if o.purpose = .step ∧ o.kind = .dump ∧ o.target = some (.bin b) then { s.bin b with inFlight := 0 }
        else s.bin b) ∧
      t.accounts = s.accounts ∧ t.lines = s.lines ∧ t.rack = s.rack ∧ t.sched = s.sched ∧ t.ports = s.ports ∧
      t.params = s.params ∧ t.pins = s.pins ∧ t.pointer = s.pointer
    let lost : Shuttle := { s.shuttle with position := .unknown }
    (s.unmarked ∨ o.purpose ≠ .step ∨ s.shuttle.load ≠ .none →
      (3 ≤ s.shuttle.noAnswer →
        ∃ t, exec .noAnswerFault s = .next t ∧ t.shuttle = lost.faulted .noAnswer 0 o ∧ after t lost .noAnswer) ∧
      (s.timer.stepTimer = .expired →
        ∃ t, exec .stepTimerExpiry s = .next t ∧
          t.shuttle =
            { s.shuttle.faulted .timeout 0 o with
              shout := some (exchangeBits .stop s.shuttle.lastTarget s.shuttle.load.speed) } ∧
          after t s.shuttle .timeout)) ∧
    ∀ i j, s.active = some (i, j) → j.kind = .deliver → j.cancel ≠ .none → o.purpose = .step →
      s.shuttle.load = .none → s.sched.deferred = [] →
      (∀ k, j.claim = true → j.lane = some k → (s.lane k).isOpen = false) →
      let removed (t : State) (sh : Shuttle) (code : FaultCode) : Prop :=
        t.job i = none ∧ (∀ i', i' ≠ i → t.job i' = s.job i') ∧ t.seq = ⟨none, .unissued, none, 0, 0, false⟩ ∧
          t.timer.stepTimer = .stopped ∧
          (∀ k, t.lane k =
            if j.claim = true ∧ j.lane = some k then { s.lane k with claimed := (s.lane k).claimed - 1 }
            else s.lane k) ∧
          ∃ f, (sh.faulted code 0 o).fault = some f ∧
            t.events.records = s.events.records ++ [⟨.driveFault, s.now, none, none, none, none, driveFaultValue f⟩]
      (3 ≤ s.shuttle.noAnswer →
        ∃ t, exec .noAnswerFault s = .next t ∧ t.shuttle = lost.faulted .noAnswer 0 o ∧ removed t lost .noAnswer) ∧
      (s.timer.stepTimer = .expired →
        ∃ t, exec .stepTimerExpiry s = .next t ∧
          t.shuttle =
            { s.shuttle.faulted .timeout 0 o with
              shout := some (exchangeBits .stop s.shuttle.lastTarget s.shuttle.load.speed) } ∧
          removed t s.shuttle .timeout)

/-! ### Expiries, firings and cuts -/

/-- DELIVERY_COMPARE_FIRE: a compare that is disarmed, spent or not reached does not fire; one that fires is marked
spent, and asks for a DELIVER job unless the lathe has one or is stock-short. With a slot empty and nothing deferred the
job is created in it, due at T_out, on the lowest lane a claim may be taken on; with no such lane it is blocked NO_STOCK
and the event raised; with no slot empty the request is deferred once. (HALL_TICK makes the same test of every compare,
log 33. The shuttle is not free: what dispatch does is stated elsewhere. Past the age limit of t_last the model forms
that T_out from the aged t_last, log 12.) -/
def Obligations.CompareFireAsksForDelivery : Prop :=
  ∀ (n : Lathe) (s : State), s.shuttleFree = false →
    let c := s.compareOf n
    let spent := s.setCompare n { c with spent := true }
    (c.armed = false ∨ c.spent = true ∨ atOrBefore c.value s.now = false →
      exec (.deliveryCompareFire n) s = .next s) ∧
    (c.armed = true → c.spent = false → atOrBefore c.value s.now = true →
      ((s.hasJob n .deliver = true ∨ (s.account n).stockShort = true) →
        exec (.deliveryCompareFire n) s = .next spent) ∧
      (s.hasJob n .deliver = false → (s.account n).stockShort = false →
        (s.emptySlot = none → (n, JobKind.deliver) ∉ s.sched.deferred →
          exec (.deliveryCompareFire n) s =
            .next (spent.setSched { s.sched with deferred := s.sched.deferred ++ [(n, .deliver)] })) ∧
        (∀ i g cur held left cyc, s.emptySlot = some i → s.sched.deferred = [] → (s.account n).program = some g →
          (s.account n).current = some cur → (s.account n).tOut = some held → (s.account n).partsLeft = some left →
          (s.account n).cycle = some cyc →
          let due := (s.account n).used s.now held left cyc
          (∀ k, s.claimLane g = some k →
            exec (.deliveryCompareFire n) s = .next
              ((spent.setLane k { s.lane k with claimed := (s.lane k).claimed + 1 }).setSched
                { s.sched with
                  slots := s.sched.slots.write i (some
                    { id := s.nextJobId, kind := .deliver, lathe := n, lane := some k, claim := true, bin := none
                      state := .waiting, block := .none, deadline := due, created := s.now, step := .one
                      short := false, bar := none, parts := 0, retries := 0, cancel := .none })
                  lastJobId := s.nextJobId })) ∧
          (s.claimLane g = none →
            exec (.deliveryCompareFire n) s = .next
              ((spent.setSched
                { s.sched with
                  slots := s.sched.slots.write i (some
                    { id := s.nextJobId, kind := .deliver, lathe := n, lane := none, claim := false, bin := none
                      state := .waiting, block := .noStock, deadline := due, created := s.now, step := .one
                      short := false, bar := none, parts := 0, retries := 0, cancel := .none })
                  lastJobId := s.nextJobId }).post
                ⟨.noStock, 0, some n, none, none, some s.nextJobId, halves g.material g.diameter⟩)))))

/-- The id allocators: the id issued next is in range and in use nowhere, and every id passed over on the way to it from
the last id issued, past the top id on to 1 where it comes to that, is in use. And every step keeps the books of the
rack, the schedule and the shuttle: a nonzero bar id stands in one place; a lane's bars and reservation are within 12,
its claims one for each claimant and within its bars; a lathe has one DELIVER and one COLLECT job at most, a pairing is
deferred once, job ids are distinct; the one ACTIVE job is the step record's, the SUSPENDED ones are the two the stack
can hold; a job's record agrees with its step, and the load with the active job; the step record, the shuttle state and
the outstanding order stand together; FAULT holds its record and the reject rack 20 bars at most. (The bar record of
log 30 has a free id.) -/
def Obligations.AllocatorsIssueFreeIds : Prop :=
  (∀ s : State,
    (s.sched.lastJobId ≤ 255 →
      (∀ i j, s.job i = some j → j.id ≠ s.nextJobId) ∧
      ∃ d, 1 ≤ d ∧ d ≤ 255 ∧ s.nextJobId = (s.sched.lastJobId + d - 1) % 255 + 1 ∧
        ∀ e, 1 ≤ e → e < d → ∃ i j, s.job i = some j ∧ j.id = (s.sched.lastJobId + e - 1) % 255 + 1) ∧
    (s.rack.lastBarId ≤ 65535 → s.barIds.length < 65535 →
      ¬s.barIdUsed s.nextBarId ∧
      ∃ d, 1 ≤ d ∧ d ≤ 65535 ∧ s.nextBarId = (s.rack.lastBarId + d - 1) % 65535 + 1 ∧
        ∀ e, 1 ≤ e → e < d → s.barIdUsed ((s.rack.lastBarId + e - 1) % 65535 + 1))) ∧
  ∀ s t : State, s.BooksOk → step s = .next t → t.BooksOk

/-- LOAD_TIMER_EXPIRY of a load timer that has run out in LOADING gives the load up: STOPPED with resume state AWAIT,
LOAD_FAULT set, the loading mark cleared, LOAD_TIMEOUT and then LATHE_STATE raised, and the hold reason set evaluated.
The schedule, the rack and every other lathe stand. -/
def Obligations.LoadTimerExpiryGivesUp : Prop :=
  ∀ (n : Lathe) (s : State), (s.account n).loadTimer = .expired → (s.account n).state = .loading →
    s.events.records.length + 2 ≤ 64 →
    ∃ (t : State) (a : Account), exec (.loadTimerExpiry n) s = .next t ∧
      a = { s.account n with
        state := .stopped
        resume := .await
        loadFault := true
        loadTimer := .stopped
        cradle := (s.account n).cradle.map fun c : CradleBar => { c with loading := false } } ∧
      t.account n = { a with holdSet := a.reasons } ∧
      (∀ m, m ≠ n → t.account m = s.account m) ∧
      t.events.records = s.events.records ++
        [⟨.loadTimeout, s.now, some n, none, none, none,
            BitVec.ofNat 32 (((s.account n).cradle.map (·.bar.id)).getD 0)⟩,
          ⟨.latheState, s.now, some n, none, none, none, BitVec.ofNat 32 (5 + 256 * 2 + 65536 * 3)⟩] ∧
      (a.reasons ≠ (s.account n).holdSet →
        (t.line n).holdCmd = true ∧
        (t.port (lathePort n)).queue =
          (s.port (lathePort n)).queue.filter (fun x => x.kind != 0x46) ++ [⟨0x46, [b1 a.reasons.code]⟩]) ∧
      t.sched = s.sched ∧ t.rack = s.rack ∧ t.seq = s.seq ∧ t.shuttle = s.shuttle ∧ t.bins = s.bins ∧
      t.timer = s.timer ∧ t.params = s.params

/-- GUARD_WAIT_EXPIRY of a timer that has run out in a guard wait. With a load: GUARD_OVERDUE with the raised count,
and the timer started again. With load NONE, the lathe's guard open, no halt pending and no other job ready: the job
is WAITING at step 1 with GUARD_PARKED, the step record is cleared and the shuttle IDLE. Nothing else changes. (The
empty order of the cleared step record is the model's choice, log 32.) -/
def Obligations.GuardWaitExpiryActs : Prop :=
  ∀ (s : State) (i : Slot) (j : Job), s.timer.guardWait = .expired → s.active = some (i, j) →
    s.seq.phase = .guardPending →
    (s.shuttle.load ≠ .none →
      exec .guardWaitExpiry s = .next
        (((s.setSeq { s.seq with expiries := min (s.seq.expiries + 1) 65535 }).post
          ⟨.guardOverdue, 0, some j.lathe, none, none, some j.id,
            BitVec.ofNat 32 (min (s.seq.expiries + 1) 65535)⟩).setTimer
          { s.timer with guardWait := .running s.params.guardWait })) ∧
    (s.shuttle.load = .none → (s.line j.lathe).guardClosed = false → s.shuttle.haltPending = false →
      s.shuttle.state = .waiting → s.sched.stack = [] →
      (∀ k j', k ≠ i → s.job k = some j' → j'.eligible = false) →
      exec .guardWaitExpiry s = .next
        ((((s.setTimer { s.timer with guardWait := .stopped }).setSched
          { s.sched with
            slots := s.sched.slots.write i
              (some { j with state := .waiting, step := .one, block := .guardParked }) }).setSeq
          ⟨none, .unissued, none, 0, 0, false⟩).setShuttle { s.shuttle with state := .idle }))

/-- CUT_EDGE accepted with a current bar in RUNNING, STOPPED or LOST is counted to the bar and the tray: the sample
and the estimate, t_last, R, parts made, parts left, the tray count, T_out and T_full. The first cut past parts left
0 raises BAR_OVERRUN. The debounce age returns to 0 and the capture register takes the hall time. In RUNNING and LOST
with an empty cradle the delivery compare is written at T_out less LOOKAHEAD and is spent at once where that is reached;
otherwise it is disarmed. With the shuttle not free the deadline of the lathe's DELIVER job becomes T_out and that of
its COLLECT job T_full, and no other lathe's job changes. -/
def Obligations.CutCountedToBar : Prop :=
  ∀ (n : Lathe) (e : Edge) (s : State) (g : Program) (c : CurrentBar) (cyc : Nat),
    (s.account n).program = some g → g.edge = e → s.params.cutDebounce ≤ (s.line n).debounce →
    (s.account n).current = some c → (s.account n).cycle = some cyc →
    ((s.account n).state = .running ∨ (s.account n).state = .stopped ∨ (s.account n).state = .lost) →
    s.events.records.length < 64 →
    let a := s.account n
    let sample := min (s.now - a.tLast.read s.now).toNat 16777215
    let est :=
      if a.sampleValid = false ∨ 4 * cyc < sample ∨ sample < cyc / 4 then cyc
      else max 1 (min ((7 * cyc + sample + 4) / 8) 16777215)
    let rem := c.remaining - (g.part + g.kerf)
    let left := if g.remnant ≤ rem then (rem - g.remnant) / (g.part + g.kerf) else 0
    let tray := min (a.tray + 1) 1023
    ∃ (t : State) (b : Account), exec (.cutEdge n e) s = .next t ∧
      b = { a with
        current := some
          { c with
            remaining := rem
            made := min (c.made + 1) 1023
            overrun := c.overrun || a.partsLeft.getD 0 == 0 }
        cycle := some est
        sampleValid := true
        tLast := ⟨s.now, 0⟩
        tray := tray
        partsLeft := some left
        tOut := some (s.now + BitVec.ofNat 32 (min (left * est) 1073741824))
        tFull := some (s.now + BitVec.ofNat 32 (min ((g.capacity - tray) * est) 1073741824)) } ∧
      t.account n = { b with holdSet := b.reasons } ∧ (∀ m, m ≠ n → t.account m = s.account m) ∧
      t.timer.capture.read n = s.now ∧ (∀ m, m ≠ n → t.timer.capture.read m = s.timer.capture.read m) ∧
      (t.line n).debounce = 0 ∧ t.now = s.now ∧ t.params = s.params ∧
      (let out := s.now + BitVec.ofNat 32 (min (left * est) 1073741824)
        let value := out - BitVec.ofNat 32 s.params.lookahead
        let full := s.now + BitVec.ofNat 32 (min ((g.capacity - tray) * est) 1073741824)
        (∀ m, t.compareOf m =
          if m ≠ n then s.compareOf m
          else if a.state ≠ .stopped ∧ a.cradle = none then ⟨true, value, atOrBefore value s.now⟩
          else { s.compareOf n with armed := false, spent := false }) ∧
        (s.shuttleFree = false →
          (∀ i j, s.findJob n .deliver = some i → s.job i = some j →
            t.job i = some { j with deadline := out }) ∧
          (∀ i j, s.findJob n .collect = some i → s.job i = some j →
            t.job i = some { j with deadline := full }) ∧
          ∀ i j, s.job i = some j → j.lathe ≠ n → t.job i = some j)) ∧
      ∃ more, t.events.records = s.events.records ++
        (if a.partsLeft.getD 0 = 0 ∧ c.overrun = false then
          [⟨.barOverrun, s.now, some n, none, none, none, halves c.id (min (c.made + 1) 1023)⟩] else []) ++ more

/-- CUT_EDGE that is passed over (a lathe without a program, a change against the polarity, or an edge before the
debounce age reaches CUT_DEBOUNCE) changes only the level seen on the pin. One accepted in IDLE, AWAIT or LOADING is
counted to the tray only and raises STRAY_CUT; without a current bar in RUNNING, STOPPED or LOST it is counted to the
tray only and raises none. C, the sample-valid flag and the bar stand. Without a current bar and with the shuttle not
free, a tray at the collect threshold asks for a COLLECT job unless the lathe has one: it is made in the first empty
slot, due at T_full, for the program's output bin and with its gate's block, or deferred once; below the threshold the
schedule changes only in the deadline of the COLLECT job the lathe has. -/
def Obligations.CutCountedToTrayOnly : Prop :=
  ∀ (n : Lathe) (e : Edge) (s : State),
    ((∀ g, (s.account n).program = some g → g.edge ≠ e ∨ (s.line n).debounce < s.params.cutDebounce) →
      exec (.cutEdge n e) s = .next (s.setPins { s.pins with cut := setPin s.pins.cut n (e == .rising) })) ∧
    ∀ g : Program, (s.account n).program = some g → g.edge = e → s.params.cutDebounce ≤ (s.line n).debounce →
    s.events.records.length < 64 →
    let a := s.account n
    let stray := a.state = .idle ∨ a.state = .await ∨ a.state = .loading
    (stray ∨ ((a.state = .running ∨ a.state = .stopped ∨ a.state = .lost) ∧ a.current = none)) →
    let tray := min (a.tray + 1) 1023
    let full := a.tLast.read s.now + BitVec.ofNat 32 (min ((g.capacity - tray) * a.cycle.getD 0) 1073741824)
    ∃ t, exec (.cutEdge n e) s = .next t ∧
      (t.account n).tray = tray ∧ (t.account n).current = a.current ∧
      (t.account n).cycle = a.cycle ∧ (t.account n).sampleValid = a.sampleValid ∧
      (t.account n).state = a.state ∧ (t.account n).cradle = a.cradle ∧ (t.account n).tFull = some full ∧
      (∀ m, m ≠ n → t.account m = s.account m) ∧
      t.timer.capture.read n = s.now ∧ (t.line n).debounce = 0 ∧
      t.events.records = s.events.records ++
        (if stray then [⟨.strayCut, s.now, some n, none, none, none, halves a.state.code tray⟩] else []) ∧
      (a.current = none → s.shuttleFree = false →
        (∀ i, s.findJob n .collect = some i →
          t.sched = { s.sched with
            slots := s.sched.slots.write i ((s.job i).map fun j => { j with deadline := full }) }) ∧
        (s.findJob n .collect = none → tray < g.threshold → t.sched = s.sched) ∧
        (s.findJob n .collect = none → g.threshold ≤ tray →
          (s.emptySlot = none → t.sched =
            { s.sched with
              deferred := if (n, .collect) ∈ s.sched.deferred then s.sched.deferred
                else s.sched.deferred ++ [(n, .collect)] }) ∧
          ∀ i, s.emptySlot = some i → s.sched.deferred = [] → t.sched =
            { s.sched with
              slots := s.sched.slots.write i (some
                { madeJob s.nextJobId .collect n s.now full with
                  bin := some g.bin, block := gateOf (s.bin g.bin) g.capacity })
              lastJobId := s.nextJobId }))

/-! ### The links -/

/-- A head character on a port whose receiver takes it (MESSAGE_BEGUN, or MESSAGE_TRUNCATED with a message in
reception): a KIND known for the port begins a new message, any other is counted bad and discarded; a message in
reception is counted truncated; a character with samples of a bit that differ is counted noisy. On a BROKEN port, or on
a line not seen high since a framing error, it is not received (the model's choice of how that is held, log 31). -/
def Obligations.HeadCharacterBeginsMessage : Prop :=
  ∀ (p : PortNo) (c : RxChar) (b : Byte) (s : State),
    let q := s.port p
    c.reads q.setting.parity true b →
    let up (k : Nat) : Nat := min (k + 1) 255
    let known : Prop :=
      (p.val ≤ 11 ∧ 0x21 ≤ b.toNat ∧ b.toNat ≤ 0x26) ∨ (p.val = 12 ∧ 0x60 ≤ b.toNat ∧ b.toNat ≤ 0x7A)
    let received (inMessage : Bool) : Port :=
      { q with
        rx := if known then .inMessage [b] else .discarding
        seenHigh := true
        counts :=
          { q.counts with
            noise := if c.noisy q.setting.parity then up q.counts.noise else q.counts.noise
            truncated := if inMessage then up q.counts.truncated else q.counts.truncated
            bad := if known then q.counts.bad else up q.counts.bad } }
    (q.listens c → (q.rx = .lineIdle ∨ q.rx = .discarding) →
      exec (.messageBegun p c) s = .next (s.setPort p (received false))) ∧
    (∀ bytes, q.listens c → q.rx = .inMessage bytes →
      exec (.messageTruncated p c) s = .next (s.setPort p (received true))) ∧
    (¬q.listens c → exec (.messageBegun p c) s = .next s ∧ exec (.messageTruncated p c) s = .next s)

/-- A data character. In a message it adds its byte: a second byte outside 3 to 24 makes the message bad, and the byte
that fills LEN completes it: with all bytes summing to 0 it goes into an empty mailbox or is lost with an overrun,
otherwise it is bad. Outside a message it is passed over; a receiver that takes no candidate does not receive it.
DATA_CHARACTER is the row while the message is not complete, MESSAGE_COMPLETE the row of its last byte. -/
def Obligations.DataCharacterJoinsMessage : Prop :=
  ∀ (p : PortNo) (c : RxChar) (b : Byte) (s : State),
    let q := s.port p
    c.reads q.setting.parity false b →
    let up (k : Nat) : Nat := min (k + 1) 255
    let counted : ErrorCounts :=
      { q.counts with noise := if c.noisy q.setting.parity then up q.counts.noise else q.counts.noise }
    let heard : Port := { q with seenHigh := true, counts := counted }
    (¬q.listens c → exec (.dataCharacter p c) s = .next s ∧ exec (.messageComplete p c) s = .next s) ∧
    (q.listens c →
      (q.rx = .lineIdle ∨ q.rx = .discarding → exec (.dataCharacter p c) s = .next (s.setPort p heard)) ∧
      (∀ kind, q.rx = .inMessage [kind] →
        exec (.dataCharacter p c) s = .next (s.setPort p
          (if 3 ≤ b.toNat ∧ b.toNat ≤ 24 then { heard with rx := .inMessage [kind, b] }
            else { heard with counts := { counted with bad := up counted.bad }, rx := .discarding }))) ∧
      ∀ kind len rest, q.rx = .inMessage (kind :: len :: rest) →
        let bytes := kind :: len :: (rest ++ [b])
        (bytes.length < len.toNat →
          exec (.dataCharacter p c) s = .next (s.setPort p { heard with rx := .inMessage bytes })) ∧
        (bytes.length = len.toNat →
          exec (.messageComplete p c) s = .next (s.setPort p
            (if byteSum bytes = 0 then
              if q.mailbox = none then { heard with rx := .lineIdle, mailbox := some bytes }
              else { heard with counts := { counted with overrun := up counted.overrun }, rx := .lineIdle }
            else { heard with counts := { counted with bad := up counted.bad }, rx := .lineIdle }))))

/-- A candidate character with a low start bit and a low stop bit is a framing error, one with a high stop bit and, with
parity on, an odd count of ones a parity error: it is counted and ends a message in reception, and after a framing error
the line must be seen high before the next start bit. With parity off there is no parity error, and a start bit that
decides high, a false start, changes nothing. The idle limit truncates a message in reception; a broken line seen high
returns to LINE_IDLE. Each leaves everything else. -/
def Obligations.LineConditionsMoveReceiver : Prop :=
  ∀ (p : PortNo) (c : RxChar) (s : State),
    let q := s.port p
    let up (k : Nat) : Nat := min (k + 1) 255
    let failed (e : CharError) : Port :=
      { q with
        rx := .discarding
        seenHigh := decide (e = .parity)
        counts :=
          { q.counts with
            noise := if c.noisy q.setting.parity then up q.counts.noise else q.counts.noise
            framing := if e = .framing then up q.counts.framing else q.counts.framing
            parity := if e = .parity then up q.counts.parity else q.counts.parity } }
    (q.listens c → isHigh c.start = false → isHigh c.stop = false →
      exec (.characterError p .framing c) s = .next (s.setPort p (failed .framing))) ∧
    (q.listens c → isHigh c.start = false → isHigh c.stop = true → q.setting.parity = true → c.ones % 2 = 1 →
      exec (.characterError p .parity c) s = .next (s.setPort p (failed .parity))) ∧
    (q.setting.parity = false → exec (.characterError p .parity c) s = .next s) ∧
    (isHigh c.start = true ∨ ¬q.listens c →
      (∀ e, exec (.characterError p e c) s = .next s) ∧ exec (.messageBegun p c) s = .next s ∧
        exec (.messageTruncated p c) s = .next s ∧ exec (.dataCharacter p c) s = .next s ∧
        exec (.messageComplete p c) s = .next s) ∧
    (∀ bytes, q.rx = .inMessage bytes →
      exec (.lineIdleLimit p) s = .next (s.setPort p
        { q with rx := .lineIdle, counts := { q.counts with truncated := up q.counts.truncated } })) ∧
    ((∀ bytes, q.rx ≠ .inMessage bytes) → exec (.lineIdleLimit p) s = .next s) ∧
    (q.rx = .broken →
      exec (.breakEnd p) s = .next (s.setPort p { q with rx := .lineIdle, seenHigh := true })) ∧
    (q.rx ≠ .broken → exec (.breakEnd p) s = .next s)

/-- LINK_BREAK. On LP12 the port goes to BROKEN and no block is told; on a port BROKEN already nothing happens. On LPn
the port goes to BROKEN, LINK_BREAK is posted with the state at the break, and the account moves by the table of R21:
a break in LOADING takes the cradle bar as pushed, and with the shuttle not free the deadlines of the lathe's DELIVER
and COLLECT jobs become T_out and T_full (against R91's words, the model's choice, log 34). A break in STOPPED with a
current bar and an empty cradle arms the compare at T_out less LOOKAHEAD, which where it is reached asks for a DELIVER
job due at T_out (past the age limit of t_last the model forms that T_out from the aged t_last, its own choice, log
12). The schedule stands elsewhere. LATHE_STATE follows where the state changes, LINK is a hold reason in every state
but NOPROG, and where the hold reason set changes HOLD is commanded by it and HOLD-CHANGE queued in place of an older
one. -/
def Obligations.LinkBreakLosesLathe : Prop :=
  ∀ (p : PortNo) (s : State),
    ((s.port p).rx = .broken → exec (.linkBreak p) s = .next s) ∧
    ((s.port p).rx ≠ .broken → p.val = 12 →
      exec (.linkBreak p) s = .next (s.setPort p { s.port p with rx := .broken })) ∧
    ∀ n : Lathe, p = lathePort n → (s.port p).rx ≠ .broken → s.events.records.length < 64 →
      let a := s.account n
      ∃ t more, exec (.linkBreak p) s = .next t ∧ (t.port p).rx = .broken ∧
        (t.port p).mailbox = (s.port p).mailbox ∧ (t.port p).tx = (s.port p).tx ∧
        (t.port p).counts = (s.port p).counts ∧
        t.events.records = s.events.records ++
          (⟨.linkBreak, s.now, some n, none, none, none, BitVec.ofNat 32 a.state.code⟩ :: more) ∧
        (t.account n).state = (if a.state = .noProg then .noProg else .lost) ∧
        (t.account n).resume = (match a.state with
          | .idle => .idle
          | .await => .await
          | .loading => .running
          | .running => .running
          | .noProg => a.resume
          | .stopped => a.resume
          | .lost => a.resume) ∧
        (t.account n).loadFault = a.loadFault ∧ (t.account n).tray = a.tray ∧
        (a.state = .noProg ∨ a.state = .lost → more = []) ∧
        (a.state ≠ .noProg → a.state ≠ .lost → s.events.records.length + 2 ≤ 64 →
          ∃ rest, more = ⟨.latheState, s.now, some n, none, none, none,
              BitVec.ofNat 32 (6 + 256 * (t.account n).resume.code + 65536 * a.state.code)⟩ :: rest ∧
            ∀ e ∈ rest, e.kind = .noStock) ∧
        (t.account n).holdSet = (t.account n).reasons ∧
        ((t.account n).holdSet.link = true ↔ a.state ≠ .noProg) ∧
        (t.port p).queue =
          (if (t.account n).holdSet = a.holdSet then (s.port p).queue
            else (s.port p).queue.filter (fun x => x.kind != 0x46) ++ [⟨0x46, [b1 (t.account n).holdSet.code]⟩]) ∧
        (t.line n).holdCmd =
          (if (t.account n).holdSet = a.holdSet then (s.line n).holdCmd else (t.account n).holdSet.nonempty) ∧
        (∀ g c, a.state = .loading → a.program = some g → a.cradle = some c →
          (t.account n).current = some ⟨c.bar.id, c.bar.length, c.bar.lot, c.bar.length - g.face, 0, false⟩ ∧
          (t.account n).cradle = none ∧ (t.account n).tLast = ⟨s.now, 0⟩ ∧ (t.account n).sampleValid = false ∧
          (t.account n).loadTimer = .stopped ∧
          (t.compareOf n).armed = true ∧
          some (t.compareOf n).value = (t.account n).tOut.map (· - BitVec.ofNat 32 s.params.lookahead) ∧
          (s.shuttleFree = false →
            (∀ i j, s.findJob n .deliver = some i → s.job i = some j →
              some (t.job i) = (t.account n).tOut.map fun due => some { j with deadline := due }) ∧
            (∀ i j, s.findJob n .collect = some i → s.job i = some j →
              some (t.job i) = (t.account n).tFull.map fun due => some { j with deadline := due }) ∧
            ∀ i j, s.job i = some j → j.lathe ≠ n → t.job i = some j)) ∧
        (a.state ≠ .loading →
          (t.account n).current = a.current ∧ (t.account n).cradle = a.cradle ∧ (t.account n).tLast = a.tLast ∧
            (let b : Account :=
              { a with
                state := if a.state = .noProg then .noProg else .lost
                resume := match a.state with
                  | .idle => .idle
                  | .await => .await
                  | .running => .running
                  | _ => a.resume }
            t.account n = { b with holdSet := b.reasons })) ∧
        (a.state = .stopped → a.current = none ∨ a.cradle.isSome = true →
          t.sched = s.sched ∧ t.compareOf n = s.compareOf n) ∧
        (∀ cur held left cyc, a.state = .stopped → a.current = some cur → a.cradle = none → a.tOut = some held →
          a.partsLeft = some left → a.cycle = some cyc → a.program.isSome = true →
          let due := a.used s.now held left cyc
          let value := due - BitVec.ofNat 32 s.params.lookahead
          t.compareOf n = ⟨true, value, atOrBefore value s.now⟩ ∧
            (atOrBefore value s.now = false ∨ s.hasJob n .deliver = true ∨ a.stockShort = true →
              t.sched = s.sched ∧ t.rack = s.rack) ∧
            (atOrBefore value s.now = true → s.hasJob n .deliver = false → a.stockShort = false →
              s.shuttleFree = false → s.sched.deferred = [] → ∀ i, s.emptySlot = some i →
              ∃ j, t.job i = some j ∧ j.kind = .deliver ∧ j.lathe = n ∧ j.state = .waiting ∧ j.step = .one ∧
                j.deadline = due ∧ j.created = s.now)) ∧
        (a.state ≠ .loading → a.state ≠ .stopped → t.sched = s.sched ∧ t.compareOf n = s.compareOf n) ∧
        (∀ m, m ≠ n → t.account m = s.account m) ∧
        ∀ k, (t.lane k).bars = (s.lane k).bars

/-- Sending. TRANSMIT_START moves the head of the queue into an empty transmit register unless a restart break stands
to be sent, and the characters of its bytes go out at the setting held: start bit low, the data bits from the least
significant on, the mark bit 1 in the head alone, with parity on a bit that makes the ones even, stop bit high.
TRANSMIT_DONE empties the register, and a setting of LP12 that waited for its ACK is taken, with its reception as it
stood (the model's choice, log 17). RESTART_BREAK_SEND starts the marked break on an empty register, and
RESTART_BREAK_END clears the mark, one set again meanwhile too (the model's choice, log 23). -/
def Obligations.SendingMovesQueue : Prop :=
  ∀ (p : PortNo) (s : State),
    let q := s.port p
    (∀ m rest, q.tx = none → q.queue = m :: rest → q.breakMark = false → q.breaking = false →
      let started : Port := { q with tx := some m, queue := rest, txSetting := q.setting }
      exec (.transmitStart p) s = .next (s.setPort p started) ∧
      started.sending.length = m.bytes.length ∧
      ∀ (k : Fin m.bytes.length) (bits : List Bool), started.sending[k.val]? = some bits →
        bits.length = (if q.setting.parity then 12 else 11) ∧ bits.head? = some false ∧
        (∀ i : Fin 8, bits[i.val + 1]? = some (m.bytes[k].getLsbD i.val)) ∧ bits[9]? = some (decide (k.val = 0)) ∧
        bits.getLast? = some true ∧ (q.setting.parity = true → ((bits.drop 1).take 10).count true % 2 = 0)) ∧
    ((q.tx ≠ none ∨ q.queue = [] ∨ q.breakMark = true ∨ q.breaking = true) →
      exec (.transmitStart p) s = .next s) ∧
    (∀ m, q.tx = some m →
      exec (.transmitDone p) s = .next (s.setPort p
        { q with
          tx := none
          setting := q.newSetting.getD q.setting
          txSetting := q.newSetting.getD q.txSetting
          newSetting := none })) ∧
    (q.breakMark = true → q.tx = none → q.breaking = false →
      exec (.restartBreakSend p) s = .next (s.setPort p { q with breaking := true, txSetting := q.setting })) ∧
    (q.breaking = true →
      exec (.restartBreakEnd p) s = .next (s.setPort p { q with breaking := false, breakMark := false }))

/-- REQUEST_TAKE. With no port holding a message and free of replies nothing happens. Otherwise the first such port
after the pointer, counting LP0 after LP12, has its mailbox emptied and the pointer named after it, and its message is
handled: a request of the port's own kinds as its own row does, a message that spells no request refused with
BAD_FIELD. -/
def Obligations.RequestTakeServesNextPort : Prop :=
  ∀ (hsense : BitVec 12) (s : State),
    ((∀ p, (s.port p).mailbox = none ∨ (s.port p).replyPending = true) →
      exec (.requestTake hsense) s = .next s) ∧
    ∀ (p : PortNo) (bytes : List Byte), (s.port p).mailbox = some bytes → (s.port p).replyPending = false →
      (∀ q : PortNo, (q.val + 12 - s.pointer.val) % 13 < (p.val + 12 - s.pointer.val) % 13 →
        (s.port q).mailbox = none ∨ (s.port q).replyPending = true) →
      let taken := (s.setPort p { s.port p with mailbox := none }).setPointer p
      (∀ r c, parseRequest bytes = some r → requestRow p hsense r = some c →
        exec (.requestTake hsense) s = exec c taken) ∧
      (parseRequest bytes = none →
        exec (.requestTake hsense) s = .next (taken.setPort p
          { s.port p with
            mailbox := none
            queue := (s.port p).queue ++ [⟨if p.val = 12 then 0x51 else 0x42, [bytes.headD 0, 1]⟩] }))

/-! ### Lathe requests -/

/-- SETUP is refused with BAD_FIELD when any field is out of the range that R7 gives, whatever the state; one that
passes is refused WRONG_STATE in LOADING, BAR_IN_SPINDLE in RUNNING, and DELIVERY_IN_FLIGHT while the lathe's DELIVER
job is ACTIVE with its bar aboard. A refusal changes nothing but the reply queue. -/
def Obligations.SetupRefusals : Prop :=
  ∀ (n : Lathe) (m : SetupMsg) (s : State), (s.port (lathePort n)).replyPending = false →
    let bad : Prop :=
      m.material.toNat = 0 ∨ m.diameter.toNat < 1 ∨ 15 < m.diameter.toNat ∨ m.part.toNat < 10 ∨
        20000 < m.part.toNat ∨ m.capacity.toNat = 0 ∨ 7 < m.bin.toNat ∨ 4 ≤ m.options.toNat ∨
        (m.options.getLsbD 0 = false ∧ m.remaining ≠ none) ∨ (m.options.getLsbD 0 = true ∧ m.remaining = none) ∨
        (∃ r, m.remaining = some r ∧ (r.toNat = 0 ∨ 40000 < r.toNat))
    let refused (code : Byte) : State := s.reply (lathePort n) ⟨0x42, [0x21, code]⟩
    (bad → exec (.setup n m) s = .next (refused 1)) ∧
    (¬bad →
      ((s.account n).state = .loading → exec (.setup n m) s = .next (refused 2)) ∧
      ((s.account n).state = .running → exec (.setup n m) s = .next (refused 4)) ∧
      (∀ i j, (s.account n).state ≠ .loading → (s.account n).state ≠ .running → s.active = some (i, j) →
        j.kind = .deliver → j.lathe = n → s.shuttle.load = .bar → exec (.setup n m) s = .next (refused 5)))

/-- SETUP accepted: the clamped program, C0, the declared bar or none, the state and resume state by the table of R10,
LOAD_FAULT and stock-short cleared, the predictions formed, the hold reason set evaluated; ACK queued ahead of any
HOLD-CHANGE. LATHE_STATE is the first event where the state changes. The delivery compare is armed in RUNNING with an
empty cradle, at T_out less LOOKAHEAD, and spent at once where that is reached, the lathe then having a DELIVER job or a
deferred request for one; it is disarmed otherwise, and no other lathe's changes. The tray, the cradle bar, SUPERVISOR,
every other lathe's account, every bar list, the parameters, the input pins, the decoder's pointer, the hall time, the
prescaler, the tick selection and the capture registers stand. With no bar declared, nothing deferred and the shuttle
not free, the lathe's jobs follow: its DELIVER job without a claim is removed while WAITING and marked SETUP while
ACTIVE with load NONE and its order outstanding; an unsuitable cradle bar gets a RETURN job; a tray at the new threshold
gets a COLLECT job for the new bin, while a COLLECT job that exists keeps its bin and takes its deadline and its block
from the new program (that block evaluation is log 24; the order of the DELIVER cancellation and a firing is log 8). -/
def Obligations.SetupInstallsProgram : Prop :=
  ∀ (n : Lathe) (m : SetupMsg) (s : State), (s.port (lathePort n)).replyPending = false →
    s.setupRefusal n m = none →
    let a := s.account n
    let cl (lo hi v : Nat) : Nat := max lo (min v hi)
    let cap := cl 1 999 m.capacity.toNat
    let g : Program :=
      { material := m.material.toNat, diameter := m.diameter.toNat, part := m.part.toNat
        kerf := cl 5 80 m.kerf.toNat, face := cl 0 100 m.face.toNat, remnant := cl 200 5000 m.remnant.toNat
        capacity := cap, threshold := cl 1 cap m.threshold.toNat, bin := Fin.ofNat 8 m.bin.toNat
        nominal := cl 1 36000 m.nominal.toNat
        edge := if m.options.getLsbD 1 then .falling else .rising }
    let c0 := g.nominal * (100 / s.timer.sel.ms)
    let base := if m.remaining = none then a.tLast.read s.now else s.now
    let left := m.remaining.map fun r =>
      if g.remnant ≤ r.toNat then (r.toNat - g.remnant) / (g.part + g.kerf) else 0
    ∃ (t : State) (b : Account), exec (.setup n m) s = .next t ∧
      b = { a with
        state := if a.state = .stopped then .stopped else if m.remaining = none then .idle else .running
        resume := if a.state = .stopped then (if m.remaining = none then .idle else .running) else a.resume
        program := some g
        current := m.remaining.map fun r => ⟨0, r.toNat + g.face, 0, r.toNat, 0, false⟩
        cycle := some c0
        tLast := if m.remaining = none then { a.tLast with time := base } else ⟨s.now, 0⟩
        sampleValid := if m.remaining = none then a.sampleValid else false
        partsLeft := left
        tOut := left.map fun x => base + BitVec.ofNat 32 (min (x * c0) 1073741824)
        tFull := some (base + BitVec.ofNat 32 (min ((cap - a.tray) * c0) 1073741824))
        loadFault := false
        stockShort := false } ∧
      t.account n = { b with holdSet := b.reasons } ∧ (∀ k, k ≠ n → t.account k = s.account k) ∧
      (t.port (lathePort n)).queue =
        (if b.reasons = a.holdSet then (s.port (lathePort n)).queue ++ [⟨0x41, [0x21]⟩]
          else ((s.port (lathePort n)).queue ++ [(⟨0x41, [0x21]⟩ : Msg)]).filter (fun x => x.kind != 0x46) ++
            [⟨0x46, [b1 b.reasons.code]⟩]) ∧
      (∀ k, (t.lane k).bars = (s.lane k).bars) ∧ Kept s t ∧
      (s.events.records.length < 64 → ∃ more, t.events.records = s.events.records ++
          ((if b.state = a.state then [] else [⟨.latheState, s.now, some n, none, none, none,
            BitVec.ofNat 32 (b.state.code + 256 * b.resume.code + 65536 * a.state.code)⟩]) ++ more) ∧
        ∀ e ∈ more, e.kind = .noStock) ∧
      (∀ k, k ≠ n → t.compareOf k = s.compareOf k) ∧
      (b.state ≠ .running ∨ a.cradle.isSome = true →
        t.compareOf n = { s.compareOf n with armed := false, spent := false }) ∧
      (∀ out, b.state = .running → a.cradle = none → b.tOut = some out →
        let value := out - BitVec.ofNat 32 s.params.lookahead
        t.compareOf n = ⟨true, value, atOrBefore value s.now⟩ ∧
          (atOrBefore value s.now = true →
            (t.hasJob n .deliver = true ∨ (n, JobKind.deliver) ∈ t.sched.deferred) ∧
            ∀ i, s.findJob n .deliver = none → s.emptySlot = some i → s.sched.deferred = [] →
              s.shuttleFree = false →
              t.job i = some
                { madeJob s.nextJobId .deliver n s.now out with
                  lane := s.claimLane g, claim := (s.claimLane g).isSome
                  block := if s.claimLane g = none then .noStock else .none })) ∧
      let full := base + BitVec.ofNat 32 (min ((cap - a.tray) * c0) 1073741824)
      let suits (x : BarRecord) : Prop :=
        x.material = g.material ∧ x.diameter = g.diameter ∧
          ((g.part + g.kerf : Nat) : Int) ≤ (x.length : Int) - g.face - g.remnant
      let noReturn : Prop := ∀ x, a.cradle = some x → suits x.bar ∨ s.hasJob n .ret = true
      let noCollect : Prop := s.hasJob n .collect = false ∧ a.tray < g.threshold
      (m.remaining = none → s.shuttleFree = false → s.sched.deferred = [] →
        (noReturn → noCollect →
          (s.findJob n .deliver = none → t.sched = s.sched) ∧
          ∀ i j, s.findJob n .deliver = some i → s.job i = some j →
            (j.state = .waiting → j.claim = false →
              t.sched = { s.sched with slots := s.sched.slots.write i none, stack := s.sched.stack.erase i }) ∧
            (j.state = .active → s.shuttle.load = .none → s.seq.phase = .outstanding →
              t.sched = { s.sched with slots := s.sched.slots.write i (some { j with cancel := .setup }) })) ∧
        (s.findJob n .deliver = none →
          (∀ i x, noCollect → a.cradle = some x → ¬suits x.bar → s.hasJob n .ret = false → s.emptySlot = some i →
            t.sched = { s.sched with
              slots := s.sched.slots.write i
                (some (madeJob s.nextJobId .ret n s.now (s.now + BitVec.ofNat 32 s.params.preemptMargin)))
              lastJobId := s.nextJobId }) ∧
          (∀ i, noReturn → s.hasJob n .collect = false → g.threshold ≤ a.tray → s.emptySlot = some i →
            t.sched = { s.sched with
              slots := s.sched.slots.write i (some
                { madeJob s.nextJobId .collect n s.now full with
                  bin := some g.bin, block := gateOf (s.bin g.bin) g.capacity })
              lastJobId := s.nextJobId }) ∧
          ∀ i j k, noReturn → s.findJob n .collect = some i → s.job i = some j → j.bin = some k →
            j.state = .waiting → (j.block = .none ∨ j.block = .binFull ∨ j.block = .binClosed) →
            t.sched = { s.sched with
              slots := s.sched.slots.write i
                (some { j with deadline := full, block := gateOf (s.bin k) g.capacity }) }))

/-- READY that enters AWAIT with a bar on the cradle: from RUNNING (the bar ends with BAR_END or EARLY_BAR_END, its id
freed, the compare disarmed), from IDLE, or as a retry in STOPPED with LOAD_FAULT, which leave the compare. Without a
RETURN job of the lathe LOAD-GO is queued after the ACK, the cradle bar takes the loading mark, the load timer starts
and the state is LOADING; for a RETURN job the bar is held, no LOAD-GO is sent and the state is AWAIT. -/
def Obligations.ReadyStartsLoading : Prop :=
  ∀ (n : Lathe) (s : State) (g : Program) (c : CradleBar),
    let a := s.account n
    (s.port (lathePort n)).replyPending = false → a.program = some g → a.cradle = some c →
    s.events.records.length + 2 ≤ 64 →
    let heldBack := s.hasJob n .ret
    let enters (cleared : Account) (first : List EventRec) (compare : Compare) : Prop :=
      let b : Account :=
        if heldBack then { cleared with state := .await, awaitEntry := ⟨s.now, 0⟩ }
        else
          { cleared with
            state := .loading
            cradle := some { c with loading := true }
            loadTimer := .running s.params.loadLimit
            awaitEntry := ⟨s.now, 0⟩ }
      let acked := (s.port (lathePort n)).queue ++ [(⟨0x41, [0x22]⟩ : Msg)]
      let sent :=
        if heldBack then acked
        else
          acked.filter (fun x => x.kind != 0x44) ++
            [⟨0x44, b2 c.bar.id ++ b2 c.bar.length ++ bytes16 c.bar.lot⟩]
      ∃ t : State, exec (.ready n) s = .next t ∧ t.account n = { b with holdSet := b.reasons } ∧
        (∀ k, k ≠ n → t.account k = s.account k) ∧
        (∀ k, t.compareOf k = if k = n then compare else s.compareOf k) ∧
        t.events.records = s.events.records ++ first ++
          [⟨.latheState, s.now, some n, none, none, none,
            BitVec.ofNat 32 ((if heldBack then 2 else 3) + 256 * a.resume.code + 65536 * a.state.code)⟩] ∧
        (t.port (lathePort n)).queue =
          (if b.reasons = a.holdSet then sent
            else sent.filter (fun x => x.kind != 0x46) ++ [⟨0x46, [b1 b.reasons.code]⟩]) ∧
        t.sched = s.sched ∧ t.rack = s.rack ∧ t.shuttle = s.shuttle ∧ t.seq = s.seq ∧ t.bins = s.bins ∧ Kept s t
    (∀ cur, a.state = .running → a.current = some cur →
      enters { a with current := none, partsLeft := none, tOut := none }
        [⟨if a.partsLeft.getD 0 = 0 then .barEnd else .earlyBarEnd, s.now, some n, none, none, none,
          halves cur.remaining (cur.remaining - a.partsLeft.getD 0 * (g.part + g.kerf))⟩]
        { s.compareOf n with armed := false, spent := false }) ∧
    (a.state = .idle → enters a [] (s.compareOf n)) ∧
    (a.state = .stopped → a.loadFault = true → enters { a with loadFault := false } [] (s.compareOf n))

/-- READY that enters AWAIT with an empty cradle, from RUNNING or IDLE, or in STOPPED with LOAD_FAULT, which it
clears: the AWAIT entry time is the present hall time. A DELIVER job the lathe has is due at it; a stock-short lathe
asks for none; otherwise, with a slot empty and nothing deferred, one is created due at it, on the lowest lane a claim
may be taken on or blocked NO_STOCK. (The shuttle is not free: what dispatch does is stated elsewhere.) -/
def Obligations.ReadyAsksForBar : Prop :=
  ∀ (n : Lathe) (s : State) (g : Program),
    let a := s.account n
    (s.port (lathePort n)).replyPending = false → a.program = some g → a.cradle = none →
    (a.state = .running ∨ (a.state = .idle ∧ a.current = none) ∨
      (a.state = .stopped ∧ a.loadFault = true ∧ a.current = none)) → s.shuttleFree = false →
    ∃ t : State, exec (.ready n) s = .next t ∧ (t.account n).state = .await ∧ (t.account n).current = none ∧
      (t.account n).awaitEntry = ⟨s.now, 0⟩ ∧ (t.account n).tray = a.tray ∧
      (t.account n).loadFault = (a.loadFault && decide (a.state ≠ .stopped)) ∧
      (∀ k, k ≠ n → t.account k = s.account k) ∧
      (∀ i, s.findJob n .deliver = some i →
        t.sched = { s.sched with slots := s.sched.slots.write i ((s.job i).map fun j => { j with deadline := s.now }) } ∧
          t.rack = s.rack) ∧
      (s.findJob n .deliver = none → a.stockShort = true → t.sched = s.sched ∧ t.rack = s.rack) ∧
      (∀ i, s.findJob n .deliver = none → a.stockShort = false → s.emptySlot = some i → s.sched.deferred = [] →
        t.job i = some
          { id := s.nextJobId, kind := .deliver, lathe := n, lane := s.claimLane g
            claim := (s.claimLane g).isSome, bin := none, state := .waiting
            block := if s.claimLane g = none then .noStock else .none, deadline := s.now, created := s.now
            step := .one, short := false, bar := none, parts := 0, retries := 0, cancel := .none } ∧
        t.sched.lastJobId = s.nextJobId ∧
        ∀ k, t.lane k = if s.claimLane g = some k then { s.lane k with claimed := (s.lane k).claimed + 1 }
          else s.lane k) ∧
      t.shuttle = s.shuttle ∧ t.seq = s.seq ∧ t.bins = s.bins ∧ Kept s t

/-- The lathe requests that are refused or merely acknowledged by the account's state, for READY, LOADED, STOP and
RESUME. Each changes nothing but the reply queue. -/
def Obligations.LatheRequestsByState : Prop :=
  ∀ (n : Lathe) (s : State), (s.port (lathePort n)).replyPending = false →
    let a := s.account n
    let ack (kind : Byte) : State := s.reply (lathePort n) ⟨0x41, [kind]⟩
    let refused (kind code : Byte) : State := s.reply (lathePort n) ⟨0x42, [kind, code]⟩
    (a.state = .await → exec (.ready n) s = .next (ack 0x22)) ∧
    (a.state = .loading ∨ (a.state = .stopped ∧ a.loadFault = false) →
      exec (.ready n) s = .next (refused 0x22 2)) ∧
    (a.state = .noProg →
      exec (.ready n) s = .next (refused 0x22 3) ∧ exec (.loaded n) s = .next (refused 0x23 3) ∧
        exec (.stop n) s = .next (refused 0x24 3) ∧ exec (.resume n) s = .next (refused 0x25 3)) ∧
    (a.state = .lost →
      exec (.ready n) s = .next (refused 0x22 8) ∧ exec (.loaded n) s = .next (refused 0x23 8) ∧
        exec (.stop n) s = .next (refused 0x24 8)) ∧
    (a.state = .idle ∨ a.state = .await ∨ a.state = .running ∨
        (a.state = .stopped ∧ (a.loadFault = false ∨ a.cradle = none)) →
      exec (.loaded n) s = .next (refused 0x23 2)) ∧
    (a.state = .loading → exec (.stop n) s = .next (refused 0x24 6)) ∧
    (a.state = .stopped → exec (.stop n) s = .next (ack 0x24)) ∧
    (a.state = .stopped → a.loadFault = true → exec (.resume n) s = .next (refused 0x25 7)) ∧
    (a.state = .idle ∨ a.state = .await ∨ a.state = .loading ∨ a.state = .running →
      exec (.resume n) s = .next (ack 0x25))

/-- LOADED in LOADING, and a late load in STOPPED with LOAD_FAULT and a cradle bar: the cradle bar becomes the current
bar with R = L − F, the load timer stops, LOAD_FAULT is cleared, the state is RUNNING, the predictions are formed and
the delivery compare is armed at T_out less LOOKAHEAD, spent at once where that is reached. -/
def Obligations.LoadedMakesBarCurrent : Prop :=
  ∀ (n : Lathe) (s : State) (g : Program) (c : CradleBar) (cyc : Nat),
    let a := s.account n
    (s.port (lathePort n)).replyPending = false → a.program = some g → a.cradle = some c → a.cycle = some cyc →
    ((a.state = .loading ∧ a.loadFault = false) ∨ (a.state = .stopped ∧ a.loadFault = true)) →
    let rem := c.bar.length - g.face
    let left := if g.remnant ≤ rem then (rem - g.remnant) / (g.part + g.kerf) else 0
    let due := s.now + BitVec.ofNat 32 (min (left * cyc) 1073741824)
    let value := due - BitVec.ofNat 32 s.params.lookahead
    ∃ (t : State) (b : Account), exec (.loaded n) s = .next t ∧
      b = { a with
        state := .running
        current := some ⟨c.bar.id, c.bar.length, c.bar.lot, rem, 0, false⟩
        cradle := none
        tLast := ⟨s.now, 0⟩
        sampleValid := false
        partsLeft := some left
        tOut := some due
        tFull := some (s.now + BitVec.ofNat 32 (min ((g.capacity - a.tray) * cyc) 1073741824))
        loadFault := false
        loadTimer := .stopped } ∧
      t.account n = { b with holdSet := b.reasons } ∧ (∀ k, k ≠ n → t.account k = s.account k) ∧
      t.compareOf n = ⟨true, value, atOrBefore value s.now⟩ ∧
      (t.port (lathePort n)).queue =
        (if b.reasons = a.holdSet then (s.port (lathePort n)).queue ++ [⟨0x41, [0x23]⟩]
          else ((s.port (lathePort n)).queue ++ [(⟨0x41, [0x23]⟩ : Msg)]).filter (fun x => x.kind != 0x46) ++
            [⟨0x46, [b1 b.reasons.code]⟩]) ∧
      (∀ k, (t.lane k).bars = (s.lane k).bars) ∧ Kept s t

/-- STOP in IDLE, AWAIT or RUNNING: STOPPED with the present state as resume state, the compare disarmed, LATHE_STATE
raised. The lathe's DELIVER job is removed while WAITING without a claim, marked while ACTIVE with an order outstanding
and load NONE, and left while it carries a bar that is not short. -/
def Obligations.StopStopsLathe : Prop :=
  ∀ (n : Lathe) (s : State) (r : ResumeState),
    let a := s.account n
    (s.port (lathePort n)).replyPending = false → a.state = r.toState → s.events.records.length < 64 →
    s.shuttleFree = false → s.sched.deferred = [] →
    let outcome (sched : Schedule) : Prop :=
      ∃ (t : State) (b : Account), exec (.stop n) s = .next t ∧
        b = { a with state := .stopped, resume := r } ∧ t.account n = { b with holdSet := b.reasons } ∧
        (∀ k, k ≠ n → t.account k = s.account k) ∧
        t.compareOf n = { s.compareOf n with armed := false, spent := false } ∧
        t.events.records = s.events.records ++
          [⟨.latheState, s.now, some n, none, none, none,
            BitVec.ofNat 32 (5 + 256 * r.code + 65536 * a.state.code)⟩] ∧
        t.sched = sched ∧ t.rack = s.rack ∧ t.shuttle = s.shuttle ∧ t.bins = s.bins ∧ Kept s t
    (s.findJob n .deliver = none → outcome s.sched) ∧
    ∀ i j, s.findJob n .deliver = some i → s.job i = some j →
      (j.state = .waiting → j.claim = false →
        outcome { s.sched with slots := s.sched.slots.write i none, stack := s.sched.stack.erase i }) ∧
      (j.state = .active → s.shuttle.load = .none → s.seq.phase = .outstanding →
        outcome { s.sched with slots := s.sched.slots.write i (some { j with cancel := .stop }) }) ∧
      (j.state = .active → s.shuttle.load = .bar → j.short = true →
        outcome { s.sched with slots := s.sched.slots.write i (some { j with cancel := .stop }) }) ∧
      (j.state = .active → s.shuttle.load ≠ .none → j.short = false → outcome s.sched)

/-- RESUME in STOPPED or LOST. With LOAD_FAULT held in LOST the state is STOPPED, the resume state kept. Without it the
state is the resume state: IDLE and nothing else; RUNNING with the predictions formed and, with a bar and an empty
cradle, the compare armed at T_out less LOOKAHEAD; AWAIT with a bar on the cradle and no RETURN job goes on to
LOADING, with an empty cradle it stays AWAIT at the present hall time and asks for a DELIVER job due at it: one that the
lathe has is due at it; a stock-short lathe asks for none; otherwise, with the shuttle not free, one is created in an
empty slot with nothing deferred, on the lowest lane a claim may be taken on or blocked NO_STOCK, and with no slot
empty the request is deferred once. A compare armed in RUNNING that is reached already asks in the same way.
LATHE_STATE is the first event. The compare is disarmed in STOPPED and no other lathe's changes. -/
def Obligations.ResumeReturnsLathe : Prop :=
  ∀ (n : Lathe) (s : State) (g : Program),
    let a := s.account n
    (s.port (lathePort n)).replyPending = false → a.program = some g →
    (a.state = .lost ∨ (a.state = .stopped ∧ a.loadFault = false)) →
    ∃ t : State, exec (.resume n) s = .next t ∧ (∀ k, k ≠ n → t.account k = s.account k) ∧
      (t.account n).resume = a.resume ∧ (t.account n).tray = a.tray ∧ (t.account n).current = a.current ∧
      (t.account n).loadFault = a.loadFault ∧ (t.account n).holdSet = (t.account n).reasons ∧
      (∀ k, (t.lane k).bars = (s.lane k).bars) ∧ Kept s t ∧ (∀ k, k ≠ n → t.compareOf k = s.compareOf k) ∧
      (s.events.records.length < 64 → ∃ more, t.events.records = s.events.records ++
          (⟨.latheState, s.now, some n, none, none, none,
            BitVec.ofNat 32 ((t.account n).state.code + 256 * a.resume.code + 65536 * a.state.code)⟩ :: more) ∧
        ∀ e ∈ more, e.kind = .noStock) ∧
      let made (i : Slot) (due : Time) : Prop :=
        t.job i = some
          { madeJob s.nextJobId .deliver n s.now due with
            lane := s.claimLane g, claim := (s.claimLane g).isSome
            block := if s.claimLane g = none then .noStock else .none } ∧
        (∀ i', i' ≠ i → t.job i' = s.job i') ∧
        ∀ k, t.lane k =
          if s.claimLane g = some k then { s.lane k with claimed := (s.lane k).claimed + 1 } else s.lane k
      (a.loadFault = true → (t.account n).state = .stopped ∧ t.sched = s.sched ∧
        t.compareOf n = { s.compareOf n with armed := false, spent := false }) ∧
      (a.loadFault = false → a.resume = .idle → (t.account n).state = .idle ∧ t.sched = s.sched ∧
        t.compareOf n = s.compareOf n) ∧
      (a.loadFault = false → a.resume = .running →
        (t.account n).state = .running ∧
        (t.account n).partsLeft = (a.current.map fun c =>
          if g.remnant ≤ c.remaining then (c.remaining - g.remnant) / (g.part + g.kerf) else 0) ∧
        (∀ c cyc, a.current = some c → a.cycle = some cyc → a.cradle = none →
          let left := if g.remnant ≤ c.remaining then (c.remaining - g.remnant) / (g.part + g.kerf) else 0
          let value := a.tLast.read s.now + BitVec.ofNat 32 (min (left * cyc) 1073741824) -
            BitVec.ofNat 32 s.params.lookahead
          t.compareOf n = ⟨true, value, atOrBefore value s.now⟩ ∧
            ∀ i, atOrBefore value s.now = true → s.findJob n .deliver = none → a.stockShort = false →
              s.findJob n .collect = none → s.emptySlot = some i → s.sched.deferred = [] → s.shuttleFree = false →
              made i (value + BitVec.ofNat 32 s.params.lookahead))) ∧
      (a.loadFault = false → a.resume = .await → (t.account n).awaitEntry = ⟨s.now, 0⟩ ∧
        t.compareOf n = s.compareOf n ∧
        (a.cradle = none → (t.account n).state = .await ∧
          (∀ i, s.findJob n .deliver = some i →
            t.sched = { s.sched with
              slots := s.sched.slots.write i ((s.job i).map fun j => { j with deadline := s.now }) }) ∧
          (s.findJob n .deliver = none → a.stockShort = true → t.sched = s.sched) ∧
          (s.findJob n .deliver = none → a.stockShort = false → s.shuttleFree = false →
            (∀ i, a.current = none → s.emptySlot = some i → s.sched.deferred = [] → made i s.now) ∧
            (s.emptySlot = none → (n, JobKind.deliver) ∉ s.sched.deferred →
              t.sched = { s.sched with deferred := s.sched.deferred ++ [(n, .deliver)] }))) ∧
        (∀ c, a.cradle = some c → s.hasJob n .ret = true → (t.account n).state = .await ∧ t.sched = s.sched) ∧
        (∀ c, a.cradle = some c → s.hasJob n .ret = false →
          (t.account n).state = .loading ∧ (t.account n).cradle = some { c with loading := true } ∧
            (t.account n).loadTimer = .running s.params.loadLimit))

/-! ### Supervisor requests: the part and its links -/

/-- STATUS, LATHE READ and JOB READ change nothing and are answered with the fields of R184 at their places, zeros
where there is no program, bar, prediction or job (the model's reading, log 22; of two RETURN jobs of a lathe, LATHE
READ carries the id of the one in the lower slot, the model's choice, log 35); a lathe above 11 and a slot above 31
are refused with BAD_FIELD. A job's stack position is 1 on top of the stack, 2 below it and 0 off it. -/
def Obligations.ReadingRequestsReport : Prop :=
  ∀ (s : State),
    (∀ n : Lathe, (s.port (lathePort n)).replyPending = false →
      let a := s.account n
      ∃ p f, exec (.status n) s = .next (s.reply (lathePort n) ⟨0x43, p⟩) ∧ p.length = 51 ∧
        p.take 3 = [b1 a.state.code, b1 a.resume.code, b1 a.reasons.code] ∧ p[3]? = some f ∧
        f.getLsbD 0 = a.program.isSome ∧ f.getLsbD 1 = a.current.isSome ∧ f.getLsbD 2 = a.cradle.isSome ∧
        f.getLsbD 3 = a.marked ∧ f.getLsbD 4 = a.stockShort ∧
        f.getLsbD 5 = (a.program.any fun g => g.edge == .falling) ∧
        (∀ g, a.program = some g → (p.drop 4).take 15 = [b1 g.material, b1 g.diameter] ++ b2 g.part ++
          [b1 g.kerf, b1 g.face] ++ b2 g.remnant ++ b2 g.capacity ++ b2 g.threshold ++ [b1 g.bin.val] ++
          b2 g.nominal) ∧
        (a.program = none → (p.drop 4).take 15 = List.replicate 15 0) ∧
        (p.drop 19).take 10 = b4 (a.cycle.getD 0) ++ bytes32 (a.tFull.getD 0) ++ b2 a.tray ∧
        (∀ c, a.current = some c → (p.drop 29).take 16 = b2 c.id ++ b2 c.length ++ bytes16 c.lot ++
          b2 c.remaining ++ b2 c.made ++ b2 (a.partsLeft.getD 0) ++ bytes32 (a.tOut.getD 0)) ∧
        (a.current = none → (p.drop 29).take 16 = List.replicate 16 0) ∧
        (a.cradle = none → p.drop 45 = List.replicate 6 0) ∧
        (∀ c, a.cradle = some c → p.drop 45 = b2 c.bar.id ++ b2 c.bar.length ++ bytes16 c.bar.lot)) ∧
    ((s.port supervisorPort).replyPending = false →
      (∀ (x : Byte) (hsense : BitVec 12), 11 < x.toNat →
        exec (.latheRead x hsense) s = .next (s.reply supervisorPort ⟨0x51, [0x6F, 1]⟩)) ∧
      (∀ (n : Lathe) (hsense : BitVec 12),
        let a := s.account n
        let id (k : JobKind) : Nat := (((s.findJob n k).bind s.job).map (·.id)).getD 0
        ∃ p f, exec (.latheRead (b1 n.val) hsense) s = .next (s.reply supervisorPort ⟨0x57, p⟩) ∧ p.length = 36 ∧
          p.take 4 = [b1 n.val, b1 a.state.code, b1 a.resume.code, b1 a.reasons.code] ∧ p[4]? = some f ∧
          f.getLsbD 0 = (s.line n).holdCmd ∧ f.getLsbD 1 = hsense.getLsbD n.val ∧
          f.getLsbD 2 = (s.line n).guardClosed ∧ f.getLsbD 3 = a.stockShort ∧
          f.getLsbD 4 = (s.compareOf n).armed ∧ f.getLsbD 5 = (s.compareOf n).spent ∧
          p.drop 5 = bytes32 (s.timer.capture.read n) ++ bytes32 (s.compareOf n).value ++ b2 a.tray ++
            b2 (a.partsLeft.getD 0) ++ bytes32 (a.tOut.getD 0) ++ bytes32 (a.tFull.getD 0) ++
            b4 (a.cycle.getD 0) ++ [b1 (id .deliver), b1 (id .collect), b1 (id .ret)] ++
            b2 ((a.cradle.map (·.bar.id)).getD 0) ++ b2 ((a.current.map (·.id)).getD 0)) ∧
      (∀ x : Byte, 31 < x.toNat →
        exec (.jobRead x) s = .next (s.reply supervisorPort ⟨0x51, [0x72, 1]⟩)) ∧
      (∀ (i : Slot),
        let tail := [b1 s.sched.deferred.length, b1 s.sched.stack.length,
          b1 ((List.finRange 32).filter fun k => (s.job k).isSome).length]
        (s.job i = none →
          exec (.jobRead (b1 i.val)) s =
            .next (s.reply supervisorPort ⟨0x58, b1 i.val :: (List.replicate 30 0 ++ tail)⟩)) ∧
        (∀ j, s.job i = some j →
          ∃ p f, exec (.jobRead (b1 i.val)) s = .next (s.reply supervisorPort ⟨0x58, p⟩) ∧ p.length = 34 ∧
            p[0]? = some (b1 i.val) ∧ p[1]? = some f ∧ f.getLsbD 0 = true ∧ f.getLsbD 1 = j.bar.isSome ∧
            f.getLsbD 2 = (j.bar.any fun b => b.returned) ∧
            (p.drop 2).take 21 = [b1 j.id, b1 j.kind.code, b1 j.lathe.val, numberByte j.lane, numberByte j.bin,
              b1 j.state.code, b1 j.block.code] ++ bytes32 j.deadline ++ bytes32 j.created ++
              [b1 j.step.code, b1 j.short.toNat] ++ b2 j.parts ++ [b1 j.retries, b1 j.cancel.code] ∧
            (∀ b, j.bar = some b →
              (p.drop 23).take 7 = b2 b.id ++ b2 b.length ++ bytes16 b.lot ++ [b1 b.home.val]) ∧
            (j.bar = none → (p.drop 23).take 7 = [0, 0, 0, 0, 0, 0, 0]) ∧
            p[30]? = some (if s.sched.stack.head? = some i then 1 else if i ∈ s.sched.stack.tail then 2 else 0) ∧
            p.drop 31 = tail)))

/-- PARAM SET holds the value brought into the parameter's range and answers PARAM with it; PARAM GET answers PARAM
with the value held and changes nothing; a number of 0 or above 9 is refused with BAD_FIELD. No other parameter
changes, and a PARAM SET of ATTN_LEVEL drives ATTN. -/
def Obligations.ParametersSetAndGet : Prop :=
  ∀ (x : Byte) (value : BitVec 32) (s : State), (s.port supervisorPort).replyPending = false →
    let range : List (Nat × Nat) :=
      [(0, 1000000), (0, 1000000), (100, 60000), (100, 60000), (100, 60000), (100, 30000), (0, 255), (1, 64),
        (0, 4095)]
    let held (p : Params) : List Nat :=
      [p.lookahead, p.preemptMargin, p.loadLimit, p.guardWait, p.stepLimitMove, p.stepLimitHandle, p.cutDebounce,
        p.attnLevel, p.guardReport.toNat]
    (x.toNat = 0 ∨ 9 < x.toNat →
      exec (.paramSet x value) s = .next (s.reply supervisorPort ⟨0x51, [0x60, 1]⟩) ∧
        exec (.paramGet x) s = .next (s.reply supervisorPort ⟨0x51, [0x61, 1]⟩)) ∧
    ∀ k r v, x.toNat = k + 1 → range[k]? = some r → (held s.params)[k]? = some v →
      exec (.paramGet x) s = .next (s.reply supervisorPort ⟨0x52, x :: b4 v⟩) ∧
      ∃ p : Params, held p = (held s.params).set k (max r.1 (min value.toNat r.2)) ∧
        exec (.paramSet x value) s = .next
          (((s.setParams p).setEvents
            { s.events with
              attn := if k = 7 then decide (p.attnLevel ≤ s.events.records.length) else s.events.attn }).reply
            supervisorPort ⟨0x52, x :: b4 (max r.1 (min value.toNat r.2))⟩)

/-- TICK SET by R54: a value outside the seven is refused with BAD_FIELD, the selection held is acknowledged, another
is refused with NOT_QUIET unless every account is in NOPROG and the schedule holds no job and no deferred entry, and is
otherwise taken: prescaler and hall time 0, every compare disarmed, every debounce age 255, every load timer stopped,
all else kept. -/
def Obligations.TickSetReselects : Prop :=
  ∀ (x : Byte) (s : State), (s.port supervisorPort).replyPending = false →
    (x.toNat ∉ [1, 2, 5, 10, 20, 50, 100] →
      exec (.tickSet x) s = .next (s.reply supervisorPort ⟨0x51, [0x62, 1]⟩)) ∧
    ∀ sel : TickSel, sel.ms = x.toNat →
      let quiet : Prop :=
        (∀ n, (s.account n).state = .noProg) ∧ (∀ i, s.job i = none) ∧ s.sched.deferred = []
      (s.timer.sel = sel → exec (.tickSet x) s = .next (s.reply supervisorPort ⟨0x50, [0x62]⟩)) ∧
      (s.timer.sel ≠ sel → ¬quiet →
        exec (.tickSet x) s = .next (s.reply supervisorPort ⟨0x51, [0x62, 9]⟩)) ∧
      (s.timer.sel ≠ sel → quiet →
        ∃ t : State, exec (.tickSet x) s = .next (t.reply supervisorPort ⟨0x50, [0x62]⟩) ∧
          t = { s with timer := t.timer, lines := t.lines, accounts := t.accounts } ∧
          t.timer = { s.timer with
            sel := sel, binary := 0, decimal := 0, time := 0, compare := t.timer.compare } ∧
          (∀ n, t.compareOf n = { s.compareOf n with armed := false, spent := false } ∧
            t.line n = { s.line n with debounce := 255 } ∧
            t.account n = { s.account n with loadTimer := .stopped }))

/-- LINK SET and LINK READ. Codes out of range are refused with BAD_FIELD. A lathe port's receiver takes a new setting
at once, a message in reception discarded uncounted; LP12's waits for the end of its ACK; the setting held changes
nothing. LINK READ reports the setting, the receive state and the six counts, and then clears the counts. -/
def Obligations.LinkSetAndRead : Prop :=
  ∀ (x r y : Byte) (s : State), (s.port supervisorPort).replyPending = false →
    (12 < x.toNat ∨ 4 < r.toNat ∨ 1 < y.toNat →
      exec (.linkSet x r y) s = .next (s.reply supervisorPort ⟨0x51, [0x63, 1]⟩)) ∧
    (12 < x.toNat → exec (.linkRead x) s = .next (s.reply supervisorPort ⟨0x51, [0x64, 1]⟩)) ∧
    ∀ p : PortNo, p.val = x.toNat →
      let q := s.port p
      (∀ rate parity, rate.code = r.toNat → parity.toNat = y.toNat →
        let setting : LinkSetting := ⟨rate, parity⟩
        exec (.linkSet x r y) s = .next
          ((s.setPort p
            (if setting = q.setting then q
              else if p.val = 12 then { q with newSetting := some setting }
              else
                { q with
                  setting := setting
                  rx := match q.rx with
                    | .inMessage _ => .discarding
                    | o => o })).reply supervisorPort ⟨0x50, [0x63]⟩)) ∧
      exec (.linkRead x) s = .next
        ((s.setPort p { q with counts := ⟨0, 0, 0, 0, 0, 0⟩ }).reply supervisorPort
          ⟨0x53, [x, b1 q.setting.rate.code, b1 q.setting.parity.toNat, b1 q.rx.code, b1 q.counts.noise,
            b1 q.counts.framing, b1 q.counts.parity, b1 q.counts.overrun, b1 q.counts.truncated,
            b1 q.counts.bad]⟩)

/-! ### Supervisor requests: rack and bins -/

/-- LANE ASSIGN by R71: codes out of range and a lane above 23 are refused with BAD_FIELD, a lane with a bar or a
reservation with LANE_BUSY; otherwise the lane takes both codes and keeps its open flag. -/
def Obligations.LaneAssignSetsLane : Prop :=
  ∀ (x m d : Byte) (s : State), (s.port supervisorPort).replyPending = false →
    let badCodes : Prop := (m.toNat = 0 ∧ d.toNat ≠ 0) ∨ (m.toNat ≠ 0 ∧ (d.toNat < 1 ∨ 15 < d.toNat))
    (23 < x.toNat ∨ badCodes →
      exec (.laneAssign x m d) s = .next (s.reply supervisorPort ⟨0x51, [0x65, 1]⟩)) ∧
    ∀ k : LaneNo, k.val = x.toNat → ¬badCodes →
      ((s.lane k).bars ≠ [] ∨ (s.lane k).reserved ≠ 0 →
        exec (.laneAssign x m d) s = .next (s.reply supervisorPort ⟨0x51, [0x65, 14]⟩)) ∧
      ((s.lane k).bars = [] → (s.lane k).reserved = 0 →
        exec (.laneAssign x m d) s = .next
          ((s.setLane k { s.lane k with material := m.toNat, diameter := d.toNat }).reply supervisorPort
            ⟨0x50, [0x65]⟩))

/-- LANE CLOSE closes the lane and nothing else. LANE OPEN of a closed lane opens it and hands on a stock gain: after
it the lane has no available stock, or no job blocked NO_STOCK whose lathe's program matches the lane is left. A lane
that is open already, and no bar list, changes. With stock available for one claim and the shuttle not free, that claim
goes to the job that comes first by deadline, then creation time, then slot, and no other job changes. -/
def Obligations.LaneOpenAndClose : Prop :=
  ∀ (x : Byte) (s : State), (s.port supervisorPort).replyPending = false →
    (23 < x.toNat →
      exec (.laneOpen x) s = .next (s.reply supervisorPort ⟨0x51, [0x66, 1]⟩) ∧
        exec (.laneClose x) s = .next (s.reply supervisorPort ⟨0x51, [0x67, 1]⟩)) ∧
    ∀ k : LaneNo, k.val = x.toNat →
      exec (.laneClose x) s =
        .next ((s.setLane k { s.lane k with isOpen := false }).reply supervisorPort ⟨0x50, [0x67]⟩) ∧
      ((s.lane k).isOpen = true → exec (.laneOpen x) s = .next (s.reply supervisorPort ⟨0x50, [0x66]⟩)) ∧
      ((s.lane k).isOpen = false →
        ∃ t, exec (.laneOpen x) s = .next t ∧ (t.lane k).isOpen = true ∧
          (t.port supervisorPort).queue = (s.port supervisorPort).queue ++ [⟨0x50, [0x66]⟩] ∧
          (∀ k', (t.lane k').bars = (s.lane k').bars) ∧ t.accounts = s.accounts ∧ Kept s t ∧
          ((s.lane k).material ≠ 0 →
            (t.lane k).available = 0 ∨
              ∀ i j g, t.job i = some j → j.kind = .deliver → j.state = .waiting → j.block = .noStock →
                (s.account j.lathe).program = some g →
                (s.lane k).material ≠ g.material ∨ (s.lane k).diameter ≠ g.diameter) ∧
          ((s.lane k).material ≠ 0 → (s.lane k).bars.length = (s.lane k).claimed + 1 → s.shuttleFree = false →
            let wants (j : Job) : Prop :=
              j.kind = .deliver ∧ j.state = .waiting ∧ j.block = .noStock ∧
                ∃ g, (s.account j.lathe).program = some g ∧ (s.lane k).material = g.material ∧
                  (s.lane k).diameter = g.diameter
            ∀ i j, s.job i = some j → wants j →
              (∀ i' j', i' ≠ i → s.job i' = some j' → wants j' → goesBefore i j i' j') →
              t.job i = some { j with lane := some k, claim := true, block := .none } ∧
                (∀ i', i' ≠ i → t.job i' = s.job i') ∧
                t.lane k = { s.lane k with isOpen := true, claimed := (s.lane k).claimed + 1 } ∧
                ∀ k', k' ≠ k → t.lane k' = s.lane k'))

/-- LANE READ: a position above 11 (or a lane above 23) is refused with BAD_FIELD; otherwise the reply carries
the lane as held, the reject rack count and the bar record at the position, zeros where there is none, home lane 0 among
them (the model's choice, log 22). It changes nothing. -/
def Obligations.LaneReadReports : Prop :=
  ∀ (x pos : Byte) (s : State), (s.port supervisorPort).replyPending = false →
    (23 < x.toNat ∨ 11 < pos.toNat →
      exec (.laneRead x pos) s = .next (s.reply supervisorPort ⟨0x51, [0x68, 1]⟩)) ∧
    ∀ k : LaneNo, k.val = x.toNat → pos.toNat ≤ 11 →
      let l := s.lane k
      ∃ f rest, exec (.laneRead x pos) s = .next (s.reply supervisorPort
          ⟨0x54, [x, b1 l.material, b1 l.diameter, f, b1 l.bars.length, b1 l.claimed, b1 s.rack.reject, pos] ++
            rest⟩) ∧
        f.getLsbD 0 = l.isOpen ∧ f.getLsbD 1 = (l.reserved != 0) ∧ f.getLsbD 2 = decide (pos.toNat < l.bars.length) ∧
        (∀ b, l.bars[pos.toNat]? = some b →
          rest = b2 b.id ++ b2 b.length ++ bytes16 b.lot ++ [b1 b.home.val] ∧ f.getLsbD 3 = b.returned) ∧
        (l.bars[pos.toNat]? = none → rest = [0, 0, 0, 0, 0, 0, 0] ∧ f.getLsbD 3 = false)

/-- STOCK by R73: a length outside 1000 to 40000 (or a lane above 23) is refused with BAD_FIELD, an unassigned lane
with LANE_UNASSIGNED, a lane whose bars and reservation make 12 with LANE_FULL, and none of these issues an id.
Otherwise the next free id is issued, the record joins the tail of the lane, and BAR carries the id; a matching lathe
is stock-short no more; no other bar list changes. With the shuttle not free, a matching stock-short lathe in AWAIT
with an empty cradle asks for a DELIVER job due at the hall time, which is its new AWAIT entry time, and one in
RUNNING or LOST with its compare armed has it written again from T_out, and asks for a DELIVER job due at T_out where
the value is reached; a job the lathe has is not asked for again, and where the matching lathe is the only one, a slot
is empty, nothing is deferred and no job is blocked NO_STOCK, the job is made in it with its claim or its block. No
other account and no other compare changes. (The model's choices: a lathe in AWAIT asks after the stock gain, log 20
giving the order of the lathes; past the age limit of t_last the T_out that stands is formed from the aged t_last, log
12.) -/
def Obligations.StockEntersBar : Prop :=
  ∀ (x : Byte) (length lot : BitVec 16) (s : State), (s.port supervisorPort).replyPending = false →
    let badLength : Prop := length.toNat < 1000 ∨ 40000 < length.toNat
    (23 < x.toNat ∨ badLength →
      exec (.stock x length lot) s = .next (s.reply supervisorPort ⟨0x51, [0x69, 1]⟩)) ∧
    ∀ k : LaneNo, k.val = x.toNat → ¬badLength →
      let l := s.lane k
      (l.material = 0 → exec (.stock x length lot) s = .next (s.reply supervisorPort ⟨0x51, [0x69, 10]⟩)) ∧
      (l.material ≠ 0 → 12 ≤ l.bars.length + l.reserved →
        exec (.stock x length lot) s = .next (s.reply supervisorPort ⟨0x51, [0x69, 11]⟩)) ∧
      (l.material ≠ 0 → l.bars.length + l.reserved < 12 →
        ∃ t, exec (.stock x length lot) s = .next t ∧
          (t.lane k).bars = l.bars ++
            [⟨s.nextBarId, length.toNat, lot, k, l.material, l.diameter, false⟩] ∧
          t.rack.lastBarId = s.nextBarId ∧ t.rack.reject = s.rack.reject ∧
          (∀ k', k' ≠ k → (t.lane k').bars = (s.lane k').bars) ∧
          (t.port supervisorPort).queue = (s.port supervisorPort).queue ++ [⟨0x55, 0x69 :: b2 s.nextBarId⟩] ∧
          (∀ n, (t.account n).state = (s.account n).state ∧ (t.account n).stockShort =
            ((s.account n).stockShort && !((s.account n).program.any fun g =>
              g.material == l.material && g.diameter == l.diameter))) ∧ Kept s t ∧
          (s.shuttleFree = false →
            let bar : BarRecord := ⟨s.nextBarId, length.toNat, lot, k, l.material, l.diameter, false⟩
            let stocked (q : LaneNo) : LaneRecord := if q = k then { l with bars := l.bars ++ [bar] } else s.lane q
            let hit (n : Lathe) : Prop :=
              (s.account n).stockShort = true ∧
                (s.account n).program.any (fun g => g.material == l.material && g.diameter == l.diameter) = true
            let wants (n : Lathe) : Prop :=
              hit n ∧ (s.account n).state = .await ∧ (s.account n).cradle = none ∧ (s.account n).current = none
            let rearms (n : Lathe) : Prop :=
              hit n ∧ ((s.account n).state = .running ∨ (s.account n).state = .lost) ∧
                (s.account n).current.isSome = true ∧ (s.account n).cradle = none ∧ (s.compareOf n).armed = true
            let asked (n : Lathe) (due : Time) : Prop :=
              ((n, JobKind.deliver) ∈ t.sched.deferred ∨
                  ∃ i j, t.job i = some j ∧ j.kind = .deliver ∧ j.lathe = n ∧ (s.hasJob n .deliver = false →
                    j.deadline = due)) ∧
                ∀ i g, (∀ m, hit m → m = n) → (∀ i' j, s.job i' = some j → j.block ≠ .noStock) →
                  s.hasJob n .deliver = false → s.emptySlot = some i → s.sched.deferred = [] →
                  (s.account n).program = some g →
                  let made := madeJob s.nextJobId .deliver n s.now due
                  (∀ i', i' ≠ i → t.job i' = s.job i') ∧
                    (∀ q, firstLane stocked g q →
                      t.job i = some { made with lane := some q, claim := true } ∧ t.events = s.events ∧
                        ∀ q', t.lane q' =
                          if q' = q then { stocked q with claimed := (stocked q).claimed + 1 } else stocked q') ∧
                    ((∀ q, ¬takesClaim (stocked q) g) →
                      t.job i = some { made with block := .noStock } ∧ ∀ q', t.lane q' = stocked q')
            (∀ n, ¬hit n → t.account n = s.account n ∧ t.compareOf n = s.compareOf n) ∧
              (∀ n, wants n →
                t.account n = { s.account n with stockShort := false, awaitEntry := ⟨s.now, 0⟩ } ∧
                  t.compareOf n = s.compareOf n ∧ asked n s.now ∧
                  ∀ i j, s.findJob n .deliver = some i → s.job i = some j →
                    ∃ j', t.job i = some j' ∧ j'.id = j.id ∧ j'.deadline = s.now) ∧
              ∀ n held left cyc, rearms n → (s.account n).tOut = some held → (s.account n).partsLeft = some left →
                (s.account n).cycle = some cyc →
                let due := (s.account n).used s.now held left cyc
                let value := due - BitVec.ofNat 32 s.params.lookahead
                t.account n = { s.account n with stockShort := false } ∧
                  t.compareOf n = ⟨true, value, atOrBefore value s.now⟩ ∧
                  (atOrBefore value s.now = true → asked n due) ∧
                  (atOrBefore value s.now = false → (∀ m, hit m → m = n) →
                    (∀ i' j, s.job i' = some j → j.block ≠ .noStock) →
                    t.sched = s.sched ∧ t.events = s.events ∧ ∀ q, t.lane q = stocked q)))

/-- UNSTOCK by R75: a lane without bars is refused with LANE_EMPTY, one without available stock with LANE_CLAIMED;
otherwise the tail record leaves the lane and BAR carries its id. -/
def Obligations.UnstockTakesTail : Prop :=
  ∀ (x : Byte) (s : State), (s.port supervisorPort).replyPending = false →
    (23 < x.toNat → exec (.unstock x) s = .next (s.reply supervisorPort ⟨0x51, [0x6A, 1]⟩)) ∧
    ∀ k : LaneNo, k.val = x.toNat →
      ((s.lane k).bars = [] → exec (.unstock x) s = .next (s.reply supervisorPort ⟨0x51, [0x6A, 12]⟩)) ∧
      ∀ front b, (s.lane k).bars = front ++ [b] →
        ((s.lane k).bars.length ≤ (s.lane k).claimed →
          exec (.unstock x) s = .next (s.reply supervisorPort ⟨0x51, [0x6A, 13]⟩)) ∧
        ((s.lane k).claimed < (s.lane k).bars.length →
          exec (.unstock x) s = .next
            ((s.setLane k { s.lane k with bars := front }).reply supervisorPort ⟨0x55, 0x6A :: b2 b.id⟩))

/-- REJECT EMPTIED sets the reject rack count to 0 and is answered ACK. With no reject wait nothing else changes; a
PLACE REJECT that waits for space is issued, at the speed class of the load, with its step timer at
STEP_LIMIT_HANDLE. -/
def Obligations.RejectEmptiedEndsWait : Prop :=
  ∀ s : State, (s.port supervisorPort).replyPending = false →
    let cleared := (s.setRack { s.rack with reject := 0 }).reply supervisorPort ⟨0x50, [0x6B]⟩
    (s.seq.phase ≠ .rejectWait → exec .rejectEmptied s = .next cleared) ∧
    ∀ i j, s.seq.phase = .rejectWait → s.active = some (i, j) → j.order = some ⟨.place, .reject⟩ →
      exec .rejectEmptied s = .next
        (((cleared.setSeq
          { s.seq with phase := .outstanding, order := some ⟨.place, .reject⟩, expiries := 0, boundary := false }).setTimer
          { s.timer with stepTimer := .running s.params.stepLimitHandle }).setShuttle
          { s.shuttle with
            state := .stepping
            outstanding := some ⟨.place, some .reject, s.shuttle.load.speed, .step⟩
            noAnswer := 0
            lastTarget := some .reject
            shout := some (exchangeBits .place (some .reject) s.shuttle.load.speed)
            heldWord := none })

/-- BIN SET, BIN CLOSE and BIN EMPTIED. A bin above 7 is refused with BAD_FIELD. Otherwise the bin record changes as
R144, R145 or R146 gives, no other bin changes, BIN carries the record held, and every WAITING COLLECT job for the bin
takes the block that the gate now gives; a SUSPENDED one that the gate blocks is taken off the suspension stack into
WAITING at step 1 with that block, the other entry of the stack keeping its place, and one that it does not block
stands. (No dump waits for the bin and the shuttle is not free.) Where the active job
waits in DUMP_WAIT for the bin, its DUMP is issued and its parts held in flight when they now fit the bin, and otherwise
the wait stands with no new event. -/
def Obligations.BinRequestsChangeBin : Prop :=
  ∀ (x : Byte) (value : BitVec 16) (s : State), (s.port supervisorPort).replyPending = false →
    (7 < x.toNat →
      exec (.binSet x value) s = .next (s.reply supervisorPort ⟨0x51, [0x6C, 1]⟩) ∧
        exec (.binClose x) s = .next (s.reply supervisorPort ⟨0x51, [0x6D, 1]⟩) ∧
        exec (.binEmptied x) s = .next (s.reply supervisorPort ⟨0x51, [0x6E, 1]⟩)) ∧
    ∀ b : BinNo, b.val = x.toNat →
      let old := s.bin b
      let free (y : Bin) : Nat := y.capacity - y.count - y.inFlight
      let gate (y : Bin) (j : Job) : BlockReason :=
        match (s.account j.lathe).program with
        | some g => gateOf y g.capacity
        | none => .none
      let blocked (y : Bin) (i : Slot) : Bool :=
        (s.job i).any fun j =>
          j.kind == .collect && j.bin == some b && j.state == .suspended && gate y j != .none
      let after (c : Instr) (y : Bin) : Prop :=
        ∃ t, exec c s = .next t ∧ (∀ k, t.bin k = if k = b then y else s.bin k) ∧
          t.port supervisorPort =
            { s.port supervisorPort with
              queue := (s.port supervisorPort).queue ++
                [⟨0x56, x :: (b2 y.capacity ++ b2 y.count ++ [b1 y.isOpen.toNat] ++ b2 y.inFlight)⟩] } ∧
          (∀ i j g, s.job i = some j → j.kind = .collect → j.bin = some b → j.state = .waiting →
            j.block ≠ .guardParked → j.block ≠ .noStock → (s.account j.lathe).program = some g →
            t.job i = some
              { j with
                block :=
                  if y.isOpen = false then .binClosed
                  else if free y < g.capacity then .binFull else .none }) ∧
          (∀ i j, s.job i = some j → j.kind = .collect → j.bin = some b → j.state = .suspended →
            t.job i = some
              (if gate y j = .none then j else { j with state := .waiting, block := gate y j, step := .one })) ∧
          (s.sched.stack.Nodup → t.sched.stack = s.sched.stack.filter fun i => !blocked y i) ∧
          (∀ i j, s.job i = some j → (j.kind ≠ .collect ∨ j.bin ≠ some b) → t.job i = some j) ∧
          t.accounts = s.accounts ∧ t.rack = s.rack ∧ t.shuttle = s.shuttle ∧ t.seq = s.seq ∧ t.events = s.events ∧
          Kept s t
      let waits (c : Instr) (y : Bin) : Prop :=
        ∀ i j, s.active = some (i, j) → j.state = .active → j.kind = .collect → j.step = .four → j.bin = some b →
          ∃ t, exec c s = .next t ∧ t.events = s.events ∧ t.seq.job = some i ∧ t.job i = some j ∧
            (y.isOpen = true → j.parts ≤ free y →
              t.bin b = { y with inFlight := j.parts } ∧ t.seq.phase = .outstanding ∧
              t.shuttle = s.shuttle.issued .dump (.bin b) s.shuttle.load.speed ∧
              t.timer.stepTimer = .running s.params.stepLimitHandle) ∧
            ((y.isOpen = false ∨ free y < j.parts) →
              t.bin b = y ∧ t.seq = s.seq ∧ t.shuttle = s.shuttle ∧ t.timer = s.timer)
      let both (c : Instr) (y : Bin) : Prop :=
        (s.seq.phase ≠ .dumpWait → s.shuttleFree = false → after c y) ∧
          (s.seq.phase = .dumpWait → waits c y)
      both (.binSet x value)
        { old with capacity := max (max 1 (min value.toNat 9999)) (old.count + old.inFlight) } ∧
      both (.binClose x) { old with isOpen := false } ∧
      both (.binEmptied x) { old with count := 0, isOpen := true }

/-- LATHE HOLD and LATHE RELEASE by R189: a lathe above 11 is refused with BAD_FIELD; otherwise ACK, the stored flag
SUPERVISOR set or cleared, and the hold reason set evaluated: a set that changed commands the HOLD level and queues
HOLD-CHANGE on LPn. No other field of any block changes. -/
def Obligations.LatheHoldAndRelease : Prop :=
  ∀ (x : Byte) (s : State), (s.port supervisorPort).replyPending = false →
    (11 < x.toNat →
      exec (.latheHold x) s = .next (s.reply supervisorPort ⟨0x51, [0x70, 1]⟩) ∧
        exec (.latheRelease x) s = .next (s.reply supervisorPort ⟨0x51, [0x71, 1]⟩)) ∧
    ∀ n : Lathe, n.val = x.toNat →
      let after (c : Instr) (kind : Byte) (flag : Bool) : Prop :=
        let a := { s.account n with supervisor := flag }
        let acked := s.reply supervisorPort ⟨0x50, [kind]⟩
        exec c s = .next
          (if a.reasons = a.holdSet then acked.setAccount n a
            else
              ((acked.setAccount n { a with holdSet := a.reasons }).setLine n
                (if (s.line n).holdCmd = a.reasons.nonempty then s.line n
                  else { s.line n with holdCmd := a.reasons.nonempty, mismatch := 0, agreement := 0 })).notice n
                ⟨0x46, [b1 a.reasons.code]⟩)
      after (.latheHold x) 0x70 true ∧ after (.latheRelease x) 0x71 false

/-! ### Supervisor requests: jobs and shuttle -/

/-- JOB CANCEL: id 0 is refused BAD_FIELD and an id no slot holds NO_JOB; a DELIVER or COLLECT job not ACTIVE leaves
its slot and the stack, and its claim is released; an ACTIVE job is refused JOB_ACTIVE outside FAULT and HALTED and
CARRYING with parts or a RETURN's bar; with load NONE it is removed and the shuttle stays; a DELIVER with its bar
becomes a RETURN at step 3, to its home lane where that is fit. (The shuttle is not free, nothing is deferred, and a
claimed lane is closed, so that no stock gain follows.) A slot that empties serves the deferred list: a front entry
whose lathe has no program is dropped, and a COLLECT entry whose tray stands at the threshold makes the job in the one
empty slot. A RETURN job, the lathe's only one, that is not ACTIVE or is ACTIVE with load NONE leaves its slot, and
its lathe in AWAIT acts on its cradle again: with a cradle bar it goes on to LOADING, and with none, the spindle
empty, it asks for a DELIVER job due at the AWAIT entry time it holds. (The model's choices: the deferred list is
served before the stock gain, log 9; past the age limit of t_last a deadline is formed from the aged t_last, log 12;
the cleared step record has no order, log 32.) -/
def Obligations.JobCancelActsByState : Prop :=
  ∀ (x : Byte) (s : State), (s.port supervisorPort).replyPending = false →
    let acked := s.reply supervisorPort ⟨0x50, [0x73]⟩
    let refused (code : Byte) : State := s.reply supervisorPort ⟨0x51, [0x73, code]⟩
    let freed (j : Job) (t : State) : Prop :=
      t.rack.reject = s.rack.reject ∧ t.rack.lastBarId = s.rack.lastBarId ∧
        ∀ k, t.lane k =
          if j.claim = true ∧ j.lane = some k then { s.lane k with claimed := (s.lane k).claimed - 1 }
          else s.lane k
    (x.toNat = 0 → exec (.jobCancel x) s = .next (refused 1)) ∧
    (x.toNat ≠ 0 → (∀ i j, s.job i = some j → j.id ≠ x.toNat) → exec (.jobCancel x) s = .next (refused 15)) ∧
    ∀ i j, x.toNat ≠ 0 → s.slotOfId x.toNat = some i → s.job i = some j →
      (j.state = .active → s.shuttle.state ≠ .fault → s.shuttle.state ≠ .halted →
        exec (.jobCancel x) s = .next (refused 16)) ∧
      (j.state = .active → (s.shuttle.state = .fault ∨ s.shuttle.state = .halted) →
        (s.shuttle.load = .parts ∨ (s.shuttle.load = .bar ∧ j.kind ≠ .deliver)) →
        exec (.jobCancel x) s = .next (refused 17)) ∧
      (j.kind ≠ .ret → s.shuttleFree = false → s.sched.deferred = [] →
        (∀ k, j.claim = true → j.lane = some k → (s.lane k).isOpen = false) →
        (j.state ≠ .active →
          ∃ t, exec (.jobCancel x) s = .next t ∧
            t.sched = { s.sched with slots := s.sched.slots.write i none, stack := s.sched.stack.erase i } ∧
            freed j t ∧ t = { acked with sched := t.sched, rack := t.rack }) ∧
        (j.state = .active → (s.shuttle.state = .fault ∨ s.shuttle.state = .halted) → s.shuttle.load = .none →
          ∃ t, exec (.jobCancel x) s = .next t ∧
            t.sched = { s.sched with slots := s.sched.slots.write i none, stack := s.sched.stack.erase i } ∧
            freed j t ∧ t.seq = ⟨none, .unissued, none, 0, 0, false⟩ ∧
            t.timer = { s.timer with
              guardWait := .stopped
              stepTimer := if s.shuttle.outstanding = none then .stopped else s.timer.stepTimer } ∧
            t = { acked with sched := t.sched, rack := t.rack, seq := t.seq, timer := t.timer })) ∧
      (∀ n entries, j.kind ≠ .ret → j.state = .waiting → j.claim = false → s.shuttleFree = false →
        (∀ i', s.job i' ≠ none) → s.sched.deferred = (n, .collect) :: entries →
        (entries = [] → (s.account n).program = none →
          ∃ t, exec (.jobCancel x) s = .next t ∧ t.job i = none ∧ (∀ i', i' ≠ i → t.job i' = s.job i') ∧
            t.sched.deferred = [] ∧ t.rack = s.rack ∧ t.accounts = s.accounts) ∧
        ∀ g held cyc, (s.account n).program = some g → (s.account n).tFull = some held →
          (s.account n).cycle = some cyc → g.threshold ≤ (s.account n).tray →
          (∀ i' j', i' ≠ i → s.job i' = some j' → j'.lathe = n → j'.kind ≠ .collect) →
          let full := (s.account n).used s.now held (g.capacity - (s.account n).tray) cyc
          ∃ t id, exec (.jobCancel x) s = .next t ∧
            t.job i = some { madeJob id .collect n s.now full with
              bin := some g.bin, block := gateOf (s.bin g.bin) g.capacity } ∧
            (∀ i', i' ≠ i → t.job i' = s.job i' ∧ ∀ j', s.job i' = some j' → j'.id ≠ id) ∧
            t.sched.lastJobId = id ∧ t.sched.deferred = entries ∧ t.rack = s.rack ∧ t.accounts = s.accounts) ∧
      (j.kind = .ret → j.claim = false → s.shuttleFree = false → s.sched.deferred = [] →
        s.events.records.length < 64 →
        (j.state ≠ .active ∨
          ((s.shuttle.state = .fault ∨ s.shuttle.state = .halted) ∧ s.shuttle.load = .none)) →
        (∀ i' j', i' ≠ i → s.job i' = some j' → j'.lathe = j.lathe → j'.kind ≠ .ret) →
        let n := j.lathe
        let a := s.account n
        ∃ t, exec (.jobCancel x) s = .next t ∧
          t.sched.stack = s.sched.stack.erase i ∧
          t.seq = (if j.state = .active then ⟨none, .unissued, none, 0, 0, false⟩ else s.seq) ∧
          t.shuttle = s.shuttle ∧ t.bins = s.bins ∧ Kept s t ∧ (∀ k, k ≠ n → t.account k = s.account k) ∧
          (a.state ≠ .await ∨ a.cradle.isSome = true →
            t.sched.slots = s.sched.slots.write i none ∧ t.rack = s.rack) ∧
          (a.state ≠ .await → t.account n = a ∧ t.events = s.events) ∧
          (a.state = .await → a.cradle = none → a.current = none → a.program.isSome = true →
            let due := a.awaitEntry.read s.now
            t.account n = { a with holdSet := a.reasons } ∧
              (∀ d j2, s.findJob n .deliver = some d → s.job d = some j2 →
                t.job d = some { j2 with deadline := due } ∧ t.job i = none ∧ t.rack = s.rack ∧
                  t.events = s.events) ∧
              (s.findJob n .deliver = none → ∀ i2, i2 = i ∨ s.job i2 = none →
                (∀ i', i' < i2 → i' ≠ i ∧ s.job i' ≠ none) →
                if a.stockShort then t.job i2 = none
                else ∃ j2, t.job i2 = some j2 ∧ j2.kind = .deliver ∧ j2.lathe = n ∧ j2.state = .waiting ∧
                  j2.step = .one ∧ j2.deadline = due ∧ j2.created = s.now) ∧
              ∀ i', i' ≠ i → s.findJob n .deliver ≠ some i' → s.job i' ≠ none → t.job i' = s.job i') ∧
          ∀ c, a.state = .await → a.cradle = some c →
            let b : Account :=
              { a with state := .loading, cradle := some { c with loading := true }
                       loadTimer := .running s.params.loadLimit }
            t.account n = { b with holdSet := b.reasons } ∧
              t.events.records = s.events.records ++
                [⟨.latheState, s.now, some n, none, none, none,
                  BitVec.ofNat 32 (3 + 256 * a.resume.code + 65536 * 2)⟩] ∧
              (⟨0x44, b2 c.bar.id ++ b2 c.bar.length ++ bytes16 c.bar.lot⟩ : Msg) ∈ (t.port (lathePort n)).queue) ∧
      (∀ b, j.state = .active → (s.shuttle.state = .fault ∨ s.shuttle.state = .halted) → s.shuttle.load = .bar →
        j.kind = .deliver → j.bar = some b → s.seq.job = some i →
        let home := s.lane b.home
        let fit : Prop := home.isOpen = true ∧ home.material = b.material ∧ home.diameter = b.diameter ∧
          home.bars.length + home.reserved < 12
        ∃ t, exec (.jobCancel x) s = .next t ∧
          t.job i = some
            { j with
              kind := .ret, short := false, cancel := .none, retries := 0, claim := false, step := .three
              deadline := s.now + BitVec.ofNat 32 s.params.preemptMargin
              lane := if fit then some b.home else none } ∧
          (∀ k, k ≠ i → t.job k = s.job k) ∧
          (∀ k, t.lane k = if fit ∧ k = b.home then { s.lane k with reserved := 1 } else s.lane k) ∧
          t.seq.order = some ⟨.move, if fit then .lane b.home else .reject⟩ ∧ t.seq.phase = s.seq.phase ∧
          t.shuttle = s.shuttle ∧ t.timer = s.timer ∧ t.accounts = s.accounts ∧ t.events = s.events ∧
          (t.port supervisorPort).queue = (s.port supervisorPort).queue ++ [⟨0x50, [0x73]⟩])

/-- SHUTTLE RUN, with the SHUTTLE reply of 18 field bytes for the record as it then stands (zeros for what is absent,
the model's reading, log 22): in UNHOMED HOME is issued; in HOMING, IDLE, STEPPING and WAITING a halt pending is
withdrawn; in FAULT it is refused WRONG_STATE; in HALTED with no job the state is IDLE, and the first eligible DELIVER
job, with nothing on the stack, is handed the shuttle and its MOVE to its lane is issued, while a job on the suspension
stack takes the shuttle before any that waits: the top one leaves the stack, is ACTIVE at step 1, and its first step is
taken up with its checks. In HALTED with an active job
the present step is taken up with its checks afresh, and a RETURN at its PICK with no bar it may take completes,
outside AWAIT with nothing deferred and no other job ready; but at a step boundary with load NONE a DELIVER job whose
deadline is PREEMPT_MARGIN or more earlier takes the shuttle first, where the stack has room. (That a halt at a
boundary differs from one in a wait or at a frozen step is the model's reading, log 13; the empty order of the cleared
step record is its choice, log 32. The active job that gives up the shuttle is not a COLLECT, which its bin could
block.) -/
def Obligations.ShuttleRunSetsGoing : Prop :=
  ∀ s : State, (s.port supervisorPort).replyPending = false →
    let answered_ (u : State) : Prop :=
      exec .shuttleRun s = .next u.reported
    let issued (k : OrderKind) (st : Station) (why : Purpose) (state : ShuttleState) : Shuttle :=
      { s.shuttle with
        state := state
        outstanding := some ⟨k, some st, s.shuttle.load.speed, why⟩
        noAnswer := 0
        lastTarget := some st
        shout := some (exchangeBits k (some st) s.shuttle.load.speed)
        heldWord := none }
    (s.shuttle.state = .unhomed →
      answered_ ((s.setShuttle (issued .home .home .home .homing)).setTimer
        { s.timer with stepTimer := .running s.params.stepLimitMove })) ∧
    (s.shuttle.state = .homing ∨ s.shuttle.state = .idle ∨ s.shuttle.state = .stepping ∨
        s.shuttle.state = .waiting →
      answered_ (s.setShuttle { s.shuttle with haltPending := false })) ∧
    (s.shuttle.state = .fault →
      exec .shuttleRun s = .next (s.reply supervisorPort ⟨0x51, [0x74, 2]⟩)) ∧
    (s.shuttle.state = .halted → s.seq.job = none → s.noneReady →
      answered_ (s.setShuttle { s.shuttle with state := .idle })) ∧
    (∀ i j k, s.shuttle.state = .halted → s.seq.job = none → s.sched.stack = [] →
      s.bestEligible = some (i, j) → j.kind = .deliver → j.lane = some k →
      answered_ ((((s.setShuttle (issued .move (.lane k) .step .stepping)).setTimer
        { s.timer with stepTimer := .running s.params.stepLimitMove }).setSched
        { s.sched with
          slots := s.sched.slots.write i
            (some { j with state := .active, block := .none, step := .one, short := false }) }).setSeq
        ⟨some i, .outstanding, some ⟨.move, .lane k⟩, 0, 0, false⟩)) ∧
    (∀ i j o rest, s.shuttle.state = .halted → s.seq.job = none → s.sched.stack = i :: rest → s.job i = some j →
      let resumed : Job := { j with state := .active, block := .none, step := .one, short := false }
      resumed.order = some o → s.events.records.length < 64 →
      ∃ u, answered_ u ∧
        (s.setSeq ⟨some i, .unissued, none, 0, 0, false⟩).stepTaken u s.shuttle resumed o ∧
        u.sched = { s.sched with slots := s.sched.slots.write i (some resumed), stack := rest } ∧
        u.rack = s.rack ∧ u.accounts = s.accounts ∧ u.ports = s.ports ∧ Kept s u) ∧
    ∀ i j o, s.shuttle.state = .halted → s.active = some (i, j) → j.state = .active → j.order = some o →
      let urgent (j' : Job) : Prop :=
        isBefore j'.deadline j.deadline = true ∧ s.params.preemptMargin ≤ (j.deadline - j'.deadline).toNat
      ((s.seq.boundary = false ∨ s.shuttle.load ≠ .none ∨ 2 ≤ s.sched.stack.length ∨
          ∀ i' j', i' ≠ i → s.job i' = some j' → j'.eligible = true → ¬urgent j') →
        (j.kind = .ret → j.step = .two → ∃ c, (s.account j.lathe).cradle = some c ∧ c.loading = false) →
        s.events.records.length < 64 →
        ∃ u, answered_ u ∧ s.stepTaken u s.shuttle j o ∧ u.sched = s.sched ∧ u.rack = s.rack ∧
          u.accounts = s.accounts ∧ u.ports = s.ports ∧ Kept s u) ∧
      (j.kind = .ret → j.step = .two → (∀ c, (s.account j.lathe).cradle = some c → c.loading = true) →
        (s.account j.lathe).state ≠ .await → s.shuttle.haltPending = false → s.sched.deferred = [] →
        s.noOtherReady i →
        answered_ (((s.setShuttle { s.shuttle with state := .idle }).setSeq
          ⟨none, .unissued, none, 0, 0, false⟩).setSched
          { s.sched with slots := s.sched.slots.write i none })) ∧
      (∀ i2 j2 k2, s.seq.boundary = true → s.shuttle.load = .none → j.kind ≠ .collect → i2 ≠ i →
        s.job i2 = some j2 → j2.eligible = true → j2.kind = .deliver → j2.lane = some k2 → urgent j2 →
        s.sched.stack.length < 2 →
        (∀ i' j', i' ≠ i → i' ≠ i2 → s.job i' = some j' → j'.eligible = true → goesBefore i2 j2 i' j') →
        answered_ ((((s.setTimer { s.timer with stepTimer := .running s.params.stepLimitMove }).setSched
          { s.sched with
            slots := (s.sched.slots.write i
              (some { j with state := .suspended, step := .one, short := false })).write i2
              (some { j2 with state := .active, block := .none, step := .one, short := false })
            stack := i :: s.sched.stack }).setSeq
          ⟨some i2, .outstanding, some ⟨.move, .lane k2⟩, 0, 0, false⟩).setShuttle
          (s.shuttle.issued .move (.lane k2) .fast)))

/-- SHUTTLE HALT, with the SHUTTLE reply of 18 field bytes (zeros for what is absent, the model's reading, log 22):
IDLE and WAITING become HALTED at once, a wait's phase UNISSUED and its guard-wait timer stopped; STEPPING, HOMING and
FAULT take a pending halt; HALTED and UNHOMED do not change. SHUTTLE CLEAR, with the same reply: in FAULT with no
CLEAR outstanding CLEAR is issued with the target of the order last issued and the step timer at STEP_LIMIT_HANDLE,
the state staying FAULT; with one outstanding nothing is sent; in any other state it is refused with WRONG_STATE. -/
def Obligations.ShuttleHaltAndClear : Prop :=
  ∀ s : State, (s.port supervisorPort).replyPending = false →
    let halted (u : State) : Prop :=
      exec .shuttleHalt s = .next u.reported
    let cleared (u : State) : Prop :=
      exec .shuttleClear s = .next u.reported
    (s.shuttle.state = .idle →
      halted (s.setShuttle { s.shuttle with state := .halted, haltPending := false })) ∧
    (s.shuttle.state = .waiting →
      halted (((s.setShuttle { s.shuttle with state := .halted, haltPending := false }).setSeq
        { s.seq with phase := .unissued, boundary := false }).setTimer { s.timer with guardWait := .stopped })) ∧
    (s.shuttle.state = .stepping ∨ s.shuttle.state = .homing ∨ s.shuttle.state = .fault →
      halted (s.setShuttle { s.shuttle with haltPending := true })) ∧
    (s.shuttle.state = .halted ∨ s.shuttle.state = .unhomed → halted s) ∧
    (s.shuttle.state = .fault → s.shuttle.outstanding = none →
      cleared ((s.setShuttle
        { s.shuttle with
          outstanding := some ⟨.clear, s.shuttle.lastTarget, s.shuttle.load.speed, .clear⟩
          noAnswer := 0
          shout := some (exchangeBits .clear s.shuttle.lastTarget s.shuttle.load.speed)
          heldWord := none }).setTimer { s.timer with stepTimer := .running s.params.stepLimitHandle })) ∧
    (∀ o, s.shuttle.state = .fault → s.shuttle.outstanding = some o → cleared s) ∧
    (s.shuttle.state ≠ .fault →
      exec .shuttleClear s = .next (s.reply supervisorPort ⟨0x51, [0x76, 2]⟩))

/-! ### Supervisor requests: events, identity, restart -/

/-- EVENTS by R193: the oldest records, up to three, leave the queue and stand in the reply oldest first with all their
fields, behind their count and the overflow flag; the flag is cleared and ATTN evaluated. PEEK by R194: the EVENTS
reply with the oldest record, if any, and the flag; nothing is removed, cleared or driven. IDENT by R190: device number
3112, revision 1, 12 lathes, 24 lanes, 8 bins, 32 job slots and 64 event records, in every state. Nothing else
changes. -/
def Obligations.EventsPeekAndIdentReply : Prop :=
  ∀ s : State, (s.port supervisorPort).replyPending = false →
    let field (e : EventRec) : List Byte :=
      [b1 e.kind.code] ++ bytes32 e.time ++
        [numberByte e.lathe, numberByte e.lane, numberByte e.bin, b1 (e.job.getD 0)] ++ bytes32 e.value
    let flag : Byte := if s.events.overflow then 1 else 0
    (∃ gone kept,
      s.events.records = gone ++ kept ∧ gone.length = min 3 s.events.records.length ∧
      exec .events s = .next
        ((s.setEvents ⟨kept, false, decide (s.params.attnLevel ≤ kept.length)⟩).reply supervisorPort
          ⟨0x5A, [b1 gone.length, flag] ++ (gone.map field).flatten⟩)) ∧
    (s.events.records = [] → exec .peek s = .next (s.reply supervisorPort ⟨0x5A, [0, flag]⟩)) ∧
    (∀ e rest, s.events.records = e :: rest →
      exec .peek s = .next (s.reply supervisorPort ⟨0x5A, [1, flag] ++ field e⟩)) ∧
    ∃ hi lo : Byte, hi.toNat * 256 + lo.toNat = 3112 ∧
      exec .ident s = .next (s.reply supervisorPort ⟨0x5B, [hi, lo, 1, 12, 24, 8, 32, 64]⟩)

/-- RESTART. With a load, or with the shuttle not IDLE, HALTED or UNHOMED, it is refused with SHUTTLE_BUSY. Otherwise
every block takes its warm restart values: what is physically there stays, what was promised, measured or planned is
forgotten; RESTARTED is the one event and ACK the one message of LP12. (The model's choices: the waiting commands
stand, log 26, and the levels seen on the input pins, log 15; the cleared step record has no order, log 32.) -/
def Obligations.RestartKeepsWhatStands : Prop :=
  ∀ s : State, (s.port supervisorPort).replyPending = false →
    let may : Prop := s.shuttle.load = .none ∧
      (s.shuttle.state = .idle ∨ s.shuttle.state = .halted ∨ s.shuttle.state = .unhomed)
    (¬may → exec .restart s = .next (s.reply supervisorPort ⟨0x51, [0x79, 18]⟩)) ∧
    (may → ∃ t, exec .restart s = .next t ∧
      (t.shuttle.state = (if s.shuttle.state = .unhomed then .unhomed else .halted) ∧
        t.shuttle.position = s.shuttle.position ∧ t.shuttle.load = .none ∧ t.shuttle.outstanding = none ∧
        t.shuttle.lastStatus = s.shuttle.lastStatus ∧ t.shuttle.noAnswer = 0 ∧ t.shuttle.haltPending = false ∧
        t.shuttle.fault = none ∧ t.shuttle.homeFailed = false) ∧
      t.seq = ⟨none, .unissued, none, 0, 0, false⟩ ∧
      ((∀ i, t.job i = none) ∧ t.sched.deferred = [] ∧ t.sched.stack = [] ∧
        t.sched.lastJobId = s.sched.lastJobId) ∧
      (∀ k, t.lane k = { s.lane k with claimed := 0, reserved := 0 }) ∧ t.rack.reject = s.rack.reject ∧
      t.rack.lastBarId = s.rack.lastBarId ∧ (∀ b, t.bin b = { s.bin b with inFlight := 0 }) ∧
      (t.timer.binary = 0 ∧ t.timer.decimal = 0 ∧ t.now = 0 ∧ t.timer.sel = s.timer.sel ∧
        t.timer.guardWait = .stopped ∧ t.timer.stepTimer = .stopped) ∧
      (∀ n, t.compareOf n = ⟨false, 0, false⟩ ∧ t.timer.capture.read n = 0 ∧
        (t.line n).debounce = 255 ∧ (t.line n).guardClosed = (s.line n).guardClosed ∧
        (t.line n).settle = (s.line n).settle ∧ (t.line n).mismatch = 0 ∧ (t.line n).agreement = 0 ∧
        (t.line n).reported = (s.line n).reported) ∧
      (∀ n, t.account n =
        { state := .noProg, resume := .idle, program := none, current := none
          cradle := (s.account n).cradle.map fun c : CradleBar => { c with loading := false }
          tray := (s.account n).tray, cycle := none, tLast := ⟨0, 0⟩, sampleValid := false, partsLeft := none
          tOut := none, tFull := none, loadFault := false, supervisor := false, stockShort := false
          loadTimer := .stopped, awaitEntry := ⟨0, 0⟩
          holdSet := ⟨true, false, false, false, false, false, false⟩ } ∧
        (t.port (lathePort n)).queue =
          (if (s.account n).holdSet = ⟨true, false, false, false, false, false, false⟩ then []
            else [⟨0x46, [1]⟩]) ∧
        (t.port (lathePort n)).breakMark = true) ∧
      (∀ p, (t.port p).mailbox = none ∧ (t.port p).tx = (s.port p).tx ∧ (t.port p).setting = (s.port p).setting ∧
        (t.port p).counts = (s.port p).counts ∧
        (t.port p).rx = (match (s.port p).rx with
          | .inMessage _ => .discarding
          | r => r)) ∧
      (t.port supervisorPort).queue = [⟨0x50, [0x79]⟩] ∧
      (t.port supervisorPort).breakMark = (s.port supervisorPort).breakMark ∧ t.pointer = 12 ∧
      t.params = s.params ∧
      t.events =
        ⟨[⟨.restarted, 0, none, none, none, none,
            halves (if s.events.overflow then 1 else 0) s.events.records.length⟩], false,
          decide (s.params.attnLevel ≤ 1)⟩ ∧
      t.guardSeen = s.guardSeen ∧ t.pins = s.pins ∧ t.pending = s.pending)

/-! ### The end of an order -/

/-- ORDER_COMPLETE of a HOME leads to HALTED with a halt pending, to IDLE otherwise, where a DELIVER job on top of the
suspension stack is taken off it and its MOVE issued, and to a fault UNKNOWN_LOAD with a
load sensed. A step's load that is not accepted is a fault LOAD, which leaves the job where it stands and releases a
DUMP's parts in flight. A DELIVER job's MOVE to its lane done, its PICK is issued; a pending halt takes effect before
it; the first eligible job takes the shuttle where its deadline is PREEMPT_MARGIN or more earlier and the stack has
room, and the job goes on the stack at step 1; a cancel mark removes the job instead, and its claim goes. Its MOVE
with the bar done, with no halt pending, its PLACE is taken up by the checks, at its lathe or, short, at REJECT, and a
mark stays. (The model's choices: a halt at a boundary is marked as one, log 13; the cleared step record has no order,
log 32. The MOVEs of COLLECT and RETURN jobs are stated with those jobs.) -/
def Obligations.OrderCompleteHomeAndLoadFault : Prop :=
  ∀ (s : State) (o : OutOrder) (w : Word), s.shuttle.outstanding = some o → s.shuttle.heldWord = some w →
    o.kind ≠ .clear →
    let sh : Shuttle :=
      { s.shuttle with
        lastStatus := some w, position := statusPosition w, noAnswer := 0, outstanding := none, heldWord := none }
    let stopped := s.setTimer { s.timer with stepTimer := .stopped }
    (o.purpose = .home → sensedLoad w = .none → s.shuttle.haltPending = true →
      exec .orderComplete s =
        .next (stopped.setShuttle { sh with state := .halted, haltPending := false, homeFailed := false })) ∧
    (o.purpose = .home → sensedLoad w = .none → s.shuttle.haltPending = false → s.noneReady →
      exec .orderComplete s = .next (stopped.setShuttle { sh with state := .idle, homeFailed := false })) ∧
    (∀ i j k rest, o.purpose = .home → sensedLoad w = .none → s.shuttle.haltPending = false → s.seq.job = none →
      s.sched.stack = i :: rest → s.job i = some j → j.kind = .deliver → j.lane = some k →
      exec .orderComplete s = .next ((((s.setTimer
        { s.timer with stepTimer := .running s.params.stepLimitMove }).setSched
        { s.sched with
          slots := s.sched.slots.write i
            (some { j with state := .active, block := .none, step := .one, short := false })
          stack := rest }).setSeq ⟨some i, .outstanding, some ⟨.move, .lane k⟩, 0, 0, false⟩).setShuttle
        ({ sh with homeFailed := false }.issued .move (.lane k) s.shuttle.load.speed))) ∧
    (o.purpose = .home → sensedLoad w ≠ .none →
      ∃ f, (sh.faulted .unknownLoad 0 o).fault = some f ∧
        exec .orderComplete s = .next ((stopped.setShuttle (sh.faulted .unknownLoad 0 o)).post
          ⟨.driveFault, 0, none, none, none, s.active.map (·.2.id), driveFaultValue f⟩)) ∧
    (∀ i j, o.purpose = .step → o.kind ≠ .dump → s.active = some (i, j) → j.cancel = .none →
      j.accepts (sensedLoad w) = false →
      ∃ f, (sh.faulted .load 0 o).fault = some f ∧
        exec .orderComplete s = .next
          (((stopped.setShuttle (sh.faulted .load 0 o)).setSeq { s.seq with phase := .unissued }).post
            ⟨.driveFault, 0, none, none, none, some j.id, driveFaultValue f⟩)) ∧
    (∀ i j b, o.purpose = .step → o.kind = .dump → o.target = some (.bin b) → s.active = some (i, j) →
      j.kind = .collect → j.step = .four → j.cancel = .none → sensedLoad w ≠ .none →
      ∃ f, (sh.faulted .load 0 o).fault = some f ∧
        exec .orderComplete s = .next
          ((((stopped.setShuttle (sh.faulted .load 0 o)).setSeq { s.seq with phase := .unissued }).setBin b
            { s.bin b with inFlight := 0 }).post
            ⟨.driveFault, 0, none, none, none, some j.id, driveFaultValue f⟩)) ∧
    (∀ i j, o.purpose = .step → s.active = some (i, j) → j.kind = .deliver → j.step = .three →
      sensedLoad w = .bar → s.shuttle.haltPending = false → s.events.records.length < 64 →
      ∃ t, exec .orderComplete s = .next t ∧
        s.stepTaken t (s.shuttle.ended w .bar) j ⟨.place, if j.short then .reject else .lathe j.lathe⟩ ∧
        t.sched = { s.sched with slots := s.sched.slots.write i (some { j with step := .four }) } ∧
        t.rack = s.rack ∧ t.accounts = s.accounts ∧ t.ports = s.ports ∧ Kept s t) ∧
    ∀ i j k, o.purpose = .step → s.active = some (i, j) → j.state = .active → j.kind = .deliver → j.step = .one →
      j.lane = some k → sensedLoad w = .none →
      let urgent (j' : Job) : Prop :=
        isBefore j'.deadline j.deadline = true ∧ s.params.preemptMargin ≤ (j.deadline - j'.deadline).toNat
      let next := { s.sched with slots := s.sched.slots.write i (some { j with step := .two }) }
      (j.cancel = .none → s.shuttle.haltPending = true →
        exec .orderComplete s = .next (((stopped.setSched next).setSeq
          { s.seq with phase := .unissued, order := some ⟨.pick, .lane k⟩, expiries := 0, boundary := true }).setShuttle
          { s.shuttle.ended w .none with state := .halted, haltPending := false })) ∧
      (j.cancel = .none → s.shuttle.haltPending = false →
        (2 ≤ s.sched.stack.length ∨ ∀ i' j', i' ≠ i → s.job i' = some j' → j'.eligible = true → ¬urgent j') →
        exec .orderComplete s = .next ((((s.setTimer
          { s.timer with stepTimer := .running s.params.stepLimitHandle }).setSched next).setSeq
          { s.seq with phase := .outstanding, order := some ⟨.pick, .lane k⟩, expiries := 0, boundary := false }).setShuttle
          ((s.shuttle.ended w .none).issued .pick (.lane k) .fast))) ∧
      (∀ i2 j2 k2, j.cancel = .none → s.shuttle.haltPending = false → i2 ≠ i → s.job i2 = some j2 →
        j2.eligible = true → j2.kind = .deliver → j2.lane = some k2 → urgent j2 → s.sched.stack.length < 2 →
        (∀ i' j', i' ≠ i → i' ≠ i2 → s.job i' = some j' → j'.eligible = true → goesBefore i2 j2 i' j') →
        exec .orderComplete s = .next ((((s.setTimer
          { s.timer with stepTimer := .running s.params.stepLimitMove }).setSched
          { s.sched with
            slots := (s.sched.slots.write i
              (some { j with state := .suspended, step := .one, short := false })).write i2
              (some { j2 with state := .active, block := .none, step := .one, short := false })
            stack := i :: s.sched.stack }).setSeq
          ⟨some i2, .outstanding, some ⟨.move, .lane k2⟩, 0, 0, false⟩).setShuttle
          ((s.shuttle.ended w .none).issued .move (.lane k2) .fast))) ∧
      (j.cancel ≠ .none → s.sched.deferred = [] → s.noOtherReady i → s.shuttle.state = .stepping →
        (j.claim = true → (s.lane k).isOpen = false) →
        ∃ t, exec .orderComplete s = .next t ∧ t.job i = none ∧ (∀ i', i' ≠ i → t.job i' = s.job i') ∧
          (∀ k', t.lane k' =
            if j.claim = true ∧ k' = k then { s.lane k with claimed := (s.lane k).claimed - 1 } else s.lane k') ∧
          t.seq = ⟨none, .unissued, none, 0, 0, false⟩ ∧
          t.shuttle =
            { s.shuttle.ended w .none with
              state := if s.shuttle.haltPending then .halted else .idle, haltPending := false } ∧
          t.events = s.events ∧ t.accounts = s.accounts ∧ Kept s t)

/-- ORDER_COMPLETE of a DELIVER job's PICK. With a bar sensed the front record of the lane is bound to the job and the
claim consumed. A bar that is not short goes on to MOVE LATHE, issued slow with the guard closed, waiting in
GUARD_PENDING with it open; a short bar raises SHORT_BAR and the retries and goes on to MOVE REJECT. A STOP mark lapses
at a bar that is not short, a SETUP mark makes the job a RETURN of that bar; a mark stays at a short bar. With no bar
sensed the front record is dropped with LANE_MISSING and the claim ends: the job claims the lowest lane again and starts
over, or is blocked NO_STOCK, or is removed by its mark; a claim in excess of the bars left is withdrawn from the last
of its other holders, in a state that no run reaches. (Where a job leaves the shuttle, nothing is deferred. The empty
order of the cleared step record is the model's choice, log 32.) -/
def Obligations.PickBindsFrontBar : Prop :=
  ∀ (s : State) (o : OutOrder) (w : Word) (i : Slot) (j : Job) (k : LaneNo) (b : BarRecord)
    (rest : List BarRecord) (g : Program),
    s.completes o w → s.active = some (i, j) → j.kind = .deliver → j.step = .two → j.lane = some k →
    (s.lane k).bars = b :: rest → (s.account j.lathe).program = some g → s.events.records.length < 64 →
    let short := decide ((b.length : Int) - g.face - g.remnant < ((g.part + g.kerf : Nat) : Int))
    let target : Station := if short then .reject else .lathe j.lathe
    let waits := !short && !(s.line j.lathe).guardClosed
    let picked (x : LaneNo) : LaneRecord :=
      if x = k then { s.lane k with bars := rest, claimed := (s.lane k).claimed - 1 } else s.lane x
    let missing : EventRec := ⟨.laneMissing, s.now, none, some k, none, some j.id, halves b.id rest.length⟩
    let clear : StepRecord := ⟨none, .unissued, none, 0, 0, false⟩
    (sensedLoad w = .bar → s.shuttle.haltPending = false → (j.cancel = .setup → short = true) →
      ∃ t, exec .orderComplete s = .next t ∧ (∀ k', t.lane k' = picked k') ∧
        t.job i = some
          { j with
            bar := some b, claim := false, short := short, step := .three
            cancel := if short then j.cancel else .none
            retries := if short then j.retries + 1 else j.retries } ∧
        (∀ i', i' ≠ i → t.job i' = s.job i') ∧
        t.events.records = s.events.records ++
          (if short then
            [⟨.shortBar, s.now, some j.lathe, some k, none, some j.id, halves b.id b.length⟩] else []) ∧
        t.shuttle.load = .bar ∧ t.shuttle.position = statusPosition w ∧ t.shuttle.lastStatus = some w ∧
        t.seq.order = some ⟨.move, target⟩ ∧ t.seq.expiries = 0 ∧
        (waits = false →
          t.shuttle.state = .stepping ∧ t.shuttle.outstanding = some ⟨.move, some target, .slow, .step⟩ ∧
          t.shuttle.shout = some (exchangeBits .move (some target) .slow) ∧ t.seq.phase = .outstanding ∧
          t.timer.stepTimer = .running s.params.stepLimitMove) ∧
        (waits = true →
          t.shuttle.state = .waiting ∧ t.shuttle.outstanding = none ∧ t.seq.phase = .guardPending ∧
          t.timer.stepTimer = .stopped ∧ t.timer.guardWait = .running s.params.guardWait) ∧
        t.accounts = s.accounts ∧ t.lines = s.lines ∧ t.bins = s.bins ∧ t.ports = s.ports ∧ Kept s t) ∧
    (sensedLoad w = .bar → s.shuttle.haltPending = false → j.cancel = .setup → short = false →
      let fit : Prop := homeFit (picked b.home) b
      let place : Station := if fit then .lane b.home else .reject
      ∃ t, exec .orderComplete s = .next t ∧
        t.job i = some
          { j with
            kind := .ret, bar := some b, claim := false, short := false, step := .three, cancel := .none, retries := 0
            deadline := s.now + BitVec.ofNat 32 s.params.preemptMargin
            lane := if fit then some b.home else none } ∧
        (∀ i', i' ≠ i → t.job i' = s.job i') ∧
        (∀ x, t.lane x = if fit ∧ x = b.home then { picked x with reserved := 1 } else picked x) ∧
        t.shuttle = (s.shuttle.ended w .bar).issued .move place .slow ∧ t.seq.order = some ⟨.move, place⟩ ∧
        t.seq.phase = .outstanding ∧ t.events = s.events ∧ t.accounts = s.accounts ∧ Kept s t) ∧
    (sensedLoad w = .none → (s.lane k).claimed ≤ rest.length + 1 → s.shuttle.haltPending = false →
      s.noOtherReady i →
      (∀ k2, j.cancel = .none → firstLane picked g k2 →
        ∃ t, exec .orderComplete s = .next t ∧
          t.job i = some { j with lane := some k2, claim := true, block := .none, step := .one, short := false } ∧
          (∀ i', i' ≠ i → t.job i' = s.job i') ∧
          (∀ x, t.lane x = if x = k2 then { picked x with claimed := (picked x).claimed + 1 } else picked x) ∧
          t.shuttle = (s.shuttle.ended w .none).issued .move (.lane k2) .fast ∧ t.seq.phase = .outstanding ∧
          t.events.records = s.events.records ++ [missing] ∧ t.accounts = s.accounts ∧ Kept s t) ∧
      ((j.cancel ≠ .none ∨ ∀ x, ¬takesClaim (picked x) g) → s.events.records.length + 2 ≤ 64 →
        s.sched.deferred = [] → s.shuttle.state = .stepping →
        ∃ t, exec .orderComplete s = .next t ∧
          t.job i =
            (if j.cancel = .none then
              some { j with
                state := .waiting, block := .noStock, lane := none, claim := false, step := .one, short := false }
            else none) ∧
          (∀ i', i' ≠ i → t.job i' = s.job i') ∧ (∀ x, t.lane x = picked x) ∧ t.seq = clear ∧
          t.shuttle = { s.shuttle.ended w .none with state := .idle } ∧
          t.events.records = s.events.records ++ missing ::
            (if j.cancel = .none then
              [⟨.noStock, s.now, some j.lathe, none, none, some j.id, halves g.material g.diameter⟩] else []) ∧
          t.accounts = s.accounts ∧ Kept s t)) ∧
    ∀ i2 j2 g2, sensedLoad w = .none → s.events.records.length + 2 ≤ 64 →
      (s.lane k).claimed = rest.length + 2 → j.cancel ≠ .none →
      s.shuttle.haltPending = true → s.shuttle.state = .stepping → s.sched.deferred = [] →
      i2 ≠ i → s.job i2 = some j2 → j2.holdsClaim k = true → (s.account j2.lathe).program = some g2 →
      (∀ i' j', i' ≠ i → i' ≠ i2 → s.job i' = some j' → j'.holdsClaim k = true → goesBefore i' j' i2 j2) →
      ∃ t, exec .orderComplete s = .next t ∧ t.job i = none ∧
        t.job i2 = some { j2 with
          state := .waiting, block := .noStock, lane := none, claim := false, step := .one, short := false } ∧
        (∀ i', i' ≠ i → i' ≠ i2 → t.job i' = s.job i') ∧
        t.lane k = { s.lane k with bars := rest, claimed := rest.length } ∧
        t.sched.stack = (s.sched.stack.erase i2).erase i ∧
        t.events.records = s.events.records ++ [missing,
          ⟨.noStock, s.now, some j2.lathe, none, none, some j2.id, halves g2.material g2.diameter⟩] ∧
        t.shuttle.state = .halted

/-- ORDER_COMPLETE of a DELIVER job's PLACE. At its lathe: the bar becomes the cradle bar, STAGED is queued, the account
acts on its state (in AWAIT with no RETURN job LOAD-GO follows and the state is LOADING), JOB_DONE is raised with the
lateness, the slot empties and the shuttle is IDLE, or HALTED where a halt was pending. The lathe's delivery compare is
disarmed outside AWAIT, in RUNNING or LOST with a current bar among the states; every other compare stands. At REJECT, a
short bar: the reject rack count is raised and the bar's record dropped; after the third short bar the job is removed
and its lathe stock-short, with a cancel mark it is removed; otherwise it claims the lowest lane again and starts over,
or is blocked NO_STOCK. In these no other job is ready; where the suspension stack holds jobs, the completion at the
lathe hands the shuttle to the top one, which leaves the stack, is ACTIVE at step 1 and, a DELIVER job, has its MOVE
issued. (Nothing is deferred. The empty order of the cleared step record is the model's choice, log 32.) -/
def Obligations.PlaceStagesBar : Prop :=
  ∀ (s : State) (o : OutOrder) (w : Word) (i : Slot) (j : Job) (b : BarRecord),
    s.completes o w → s.active = some (i, j) → j.kind = .deliver → j.step = .four → j.bar = some b →
    sensedLoad w = .none → s.shuttle.state = .stepping → s.sched.deferred = [] →
    s.events.records.length + 2 ≤ 64 →
    let a := s.account j.lathe
    let c : Account :=
      if a.state = .await then
        { a with state := .loading, cradle := some ⟨b, true⟩, loadTimer := .running s.params.loadLimit }
      else { a with cradle := some ⟨b, false⟩ }
    let left : Shuttle :=
      { s.shuttle.ended w .none with
        state := if s.shuttle.haltPending then .halted else .idle, haltPending := false }
    let clear : StepRecord := ⟨none, .unissued, none, 0, 0, false⟩
    (∀ i2 j2 k2 rest, j.short = false → s.hasJob j.lathe .ret = false → s.shuttle.haltPending = false →
      s.sched.stack = i2 :: rest → i ∉ s.sched.stack → s.job i2 = some j2 → j2.kind = .deliver → j2.lane = some k2 →
      ∃ t, exec .orderComplete s = .next t ∧ t.job i = none ∧ t.sched.stack = rest ∧
        t.job i2 = some { j2 with state := .active, block := .none, step := .one, short := false } ∧
        (∀ i', i' ≠ i → i' ≠ i2 → t.job i' = s.job i') ∧
        t.seq = ⟨some i2, .outstanding, some ⟨.move, .lane k2⟩, 0, 0, false⟩ ∧
        t.shuttle = (s.shuttle.ended w .none).issued .move (.lane k2) .fast ∧
        t.timer.stepTimer = .running s.params.stepLimitMove) ∧
    (s.noOtherReady i → j.short = false → s.hasJob j.lathe .ret = false →
      ∃ t, exec .orderComplete s = .next t ∧ t.account j.lathe = { c with holdSet := c.reasons } ∧
        (∀ n, n ≠ j.lathe → t.account n = s.account n) ∧ t.job i = none ∧ (∀ i', i' ≠ i → t.job i' = s.job i') ∧
        t.shuttle = left ∧ t.seq = clear ∧
        (∀ n, t.compareOf n =
          if n = j.lathe ∧ a.state ≠ .await then { s.compareOf n with armed := false, spent := false }
          else s.compareOf n) ∧
        t.events.records = s.events.records ++
          (if a.state = .await then
            [⟨.latheState, s.now, some j.lathe, none, none, none,
              BitVec.ofNat 32 (3 + 256 * a.resume.code + 65536 * 2)⟩] else []) ++
          [⟨.jobDone, s.now, some j.lathe, j.lane, none, some j.id,
            if (s.now - j.deadline).toNat < 2147483648 then s.now - j.deadline else 0⟩] ∧
        (⟨0x45, b2 b.id ++ b2 b.length ++ bytes16 b.lot⟩ : Msg) ∈ (t.port (lathePort j.lathe)).queue ∧
        (a.state = .await →
          (⟨0x44, b2 b.id ++ b2 b.length ++ bytes16 b.lot⟩ : Msg) ∈ (t.port (lathePort j.lathe)).queue) ∧
        t.rack = s.rack ∧ t.bins = s.bins ∧ Kept s t) ∧
    (s.noOtherReady i → j.short = true → j.claim = false → (3 ≤ j.retries ∨ j.cancel ≠ .none) →
      ∃ t, exec .orderComplete s = .next t ∧ t.job i = none ∧ (∀ i', i' ≠ i → t.job i' = s.job i') ∧
        (∀ n, t.account n =
          if n = j.lathe ∧ 3 ≤ j.retries then { s.account n with stockShort := true } else s.account n) ∧
        t.rack = { s.rack with reject := s.rack.reject + 1 } ∧ t.shuttle = left ∧ t.seq = clear ∧
        (∀ n, t.compareOf n = s.compareOf n) ∧
        t.events = s.events ∧ t.ports = s.ports ∧ t.bins = s.bins ∧ Kept s t) ∧
    ∀ g, s.noOtherReady i → j.short = true → j.retries < 3 → j.cancel = .none → s.shuttle.haltPending = false →
      (s.account j.lathe).program = some g →
      (∀ k2, firstLane s.lane g k2 →
        ∃ t, exec .orderComplete s = .next t ∧
          t.job i = some
            { j with lane := some k2, claim := true, block := .none, step := .one, short := false, bar := none } ∧
          (∀ i', i' ≠ i → t.job i' = s.job i') ∧ t.rack.reject = s.rack.reject + 1 ∧
          (∀ x, t.lane x = if x = k2 then { s.lane x with claimed := (s.lane x).claimed + 1 } else s.lane x) ∧
          t.shuttle = (s.shuttle.ended w .none).issued .move (.lane k2) .fast ∧ t.seq.phase = .outstanding ∧
          (∀ n, t.compareOf n = s.compareOf n) ∧ t.events = s.events ∧ t.accounts = s.accounts ∧ Kept s t) ∧
      ((∀ x, ¬takesClaim (s.lane x) g) →
        ∃ t, exec .orderComplete s = .next t ∧
          t.job i = some
            { j with
              state := .waiting, block := .noStock, lane := none, claim := false, step := .one, short := false
              bar := none } ∧
          (∀ i', i' ≠ i → t.job i' = s.job i') ∧ t.rack = { s.rack with reject := s.rack.reject + 1 } ∧
          t.shuttle = { s.shuttle.ended w .none with state := .idle } ∧ t.seq = clear ∧
          t.events.records = s.events.records ++
            [⟨.noStock, s.now, some j.lathe, none, none, some j.id, halves g.material g.diameter⟩] ∧
          (∀ n, t.compareOf n = s.compareOf n) ∧ t.accounts = s.accounts ∧ Kept s t)

/-- ORDER_COMPLETE of a COLLECT job. MOVE to the lathe done, EMPTY is taken up by the checks, and its issue notes the
tray count as T_issue; MOVE to the bin done, DUMP is taken up, or waits in DUMP_WAIT with BIN_WAIT. EMPTY with parts
sensed takes T_issue parts from the tray into the job, and MOVE to the bin is issued at medium speed. EMPTY with
nothing sensed raises TRAY_MISMATCH, leaves the tray and completes the job. DUMP with nothing sensed adds the dump in
flight to the bin's count, raises JOB_DONE and empties the slot; with the tray below its threshold no new job is asked
for, and the shuttle is IDLE; at or above it the lathe's next COLLECT job is made in the lowest empty slot, with its
gate's block, and takes the shuttle where it has none. (No cancel mark and no halt stands, nothing is deferred, no
other job is ready or has this bin; at the mismatch the spindle is empty. The model's choices: the count rises by the
dump in flight, log 25; the blocks are evaluated before the completion, log 10; past the age limit of t_last the
deadline is formed from the aged t_last, log 12; the cleared step record has no order, log 32.) -/
def Obligations.CollectTakesTrayToBin : Prop :=
  ∀ (s : State) (o : OutOrder) (w : Word) (i : Slot) (j : Job) (b : BinNo) (g : Program),
    s.shuttle.outstanding = some o → s.shuttle.heldWord = some w → o.purpose = .step → o.kind ≠ .clear →
    s.active = some (i, j) → j.kind = .collect → j.bin = some b → j.cancel = .none →
    (s.account j.lathe).program = some g → s.shuttle.haltPending = false → s.shuttle.state = .stepping →
    s.sched.deferred = [] → s.sched.stack = [] →
    let taken (t : State) (l : Load) (next : StepIx) (k : OrderKind) (st : Station) : Prop :=
      s.stepTaken t (s.shuttle.ended w l) j ⟨k, st⟩ ∧
        t.sched = { s.sched with slots := s.sched.slots.write i (some { j with step := next }) } ∧
        t.rack = s.rack ∧ t.accounts = s.accounts ∧ t.ports = s.ports ∧ Kept s t
    (j.step = .one → sensedLoad w = .none → s.noOtherReady i →
      ∃ t, exec .orderComplete s = .next t ∧ taken t .none .two .empty (.lathe j.lathe)) ∧
    (j.step = .three → sensedLoad w = .parts → s.events.records.length < 64 →
      ∃ t, exec .orderComplete s = .next t ∧ taken t .parts .four .dump (.bin b)) ∧
    (j.step = .two → sensedLoad w = .parts →
      ∃ t j', exec .orderComplete s = .next t ∧
        (t.account j.lathe).tray = (s.account j.lathe).tray - s.seq.tIssue ∧
        (t.account j.lathe).current = (s.account j.lathe).current ∧
        (t.account j.lathe).holdSet = (t.account j.lathe).reasons ∧
        (∀ n, n ≠ j.lathe → t.account n = s.account n) ∧
        t.job i = some j' ∧ j'.parts = s.seq.tIssue ∧ j'.step = .three ∧ j'.id = j.id ∧ j'.state = j.state ∧
        t.shuttle.load = .parts ∧ t.shuttle.state = .stepping ∧
        t.shuttle.outstanding = some ⟨.move, some (.bin b), .medium, .step⟩ ∧ t.seq.phase = .outstanding ∧
        t.timer.stepTimer = .running s.params.stepLimitMove ∧ t.bins = s.bins ∧ Kept s t) ∧
    (j.step = .two → sensedLoad w = .none → (s.account j.lathe).current = none → s.noOtherReady i →
      s.findJob j.lathe .collect = some i → s.events.records.length + 2 ≤ 64 →
      let a := s.account j.lathe
      let full := a.tLast.read s.now + BitVec.ofNat 32 (min ((g.capacity - a.tray) * a.cycle.getD 0) 1073741824)
      ∃ t, exec .orderComplete s = .next t ∧ (t.account j.lathe).tray = a.tray ∧
        (t.account j.lathe).state = a.state ∧ (t.account j.lathe).tFull = some full ∧
        (∀ n, n ≠ j.lathe → t.account n = s.account n) ∧ t.job i = none ∧ (∀ i', i' ≠ i → t.job i' = s.job i') ∧
        t.shuttle = { s.shuttle.ended w .none with state := .idle } ∧
        t.seq = ⟨none, .unissued, none, 0, 0, false⟩ ∧
        t.events.records = s.events.records ++
          [⟨.trayMismatch, s.now, some j.lathe, none, none, some j.id, halves s.seq.tIssue a.tray⟩,
            ⟨.jobDone, s.now, some j.lathe, none, some b, some j.id,
              if (s.now - full).toNat < 2147483648 then s.now - full else 0⟩] ∧
        t.bins = s.bins ∧ t.rack = s.rack ∧ Kept s t) ∧
    (j.step = .four → sensedLoad w = .none → (s.account j.lathe).tray < g.threshold →
      (∀ i' j', i' ≠ i → s.job i' = some j' → j'.eligible = false ∧ j'.bin ≠ some b) →
      s.events.records.length < 64 →
      ∃ t, exec .orderComplete s = .next t ∧
        t.bin b = { s.bin b with count := (s.bin b).count + (s.bin b).inFlight, inFlight := 0 } ∧
        (∀ b', b' ≠ b → t.bin b' = s.bin b') ∧ t.job i = none ∧ (∀ i', i' ≠ i → t.job i' = s.job i') ∧
        t.shuttle.load = .none ∧ t.shuttle.state = .idle ∧ t.shuttle.outstanding = none ∧
        t.seq = ⟨none, .unissued, none, 0, 0, false⟩ ∧
        t.events.records = s.events.records ++
          [⟨.jobDone, s.now, some j.lathe, none, some b, some j.id,
            if (s.now - j.deadline).toNat < 2147483648 then s.now - j.deadline else 0⟩] ∧
        t.accounts = s.accounts ∧ t.rack = s.rack ∧ t.ports = s.ports ∧ Kept s t) ∧
    ∀ held cyc i2, j.step = .four → sensedLoad w = .none → g.threshold ≤ (s.account j.lathe).tray →
      (s.account j.lathe).tFull = some held → (s.account j.lathe).cycle = some cyc →
      (∀ i' j', i' ≠ i → s.job i' = some j' →
        j'.eligible = false ∧ j'.bin ≠ some b ∧ (j'.lathe = j.lathe → j'.kind ≠ .collect)) →
      (i2 = i ∨ s.job i2 = none) → (∀ i', i' < i2 → i' ≠ i ∧ s.job i' ≠ none) →
      s.events.records.length < 64 →
      let dumped (b' : BinNo) : Bin :=
        if b' = b then { s.bin b with count := (s.bin b).count + (s.bin b).inFlight, inFlight := 0 } else s.bin b'
      let full := (s.account j.lathe).used s.now held (g.capacity - (s.account j.lathe).tray) cyc
      let gate := gateOf (dumped g.bin) g.capacity
      ∃ t id, exec .orderComplete s = .next t ∧ (∀ b', t.bin b' = dumped b') ∧
        t.job i2 = some
          { madeJob id .collect j.lathe s.now full with
            bin := some g.bin, state := if gate = .none then .active else .waiting, block := gate } ∧
        (∀ i', i' ≠ i → i' ≠ i2 → t.job i' = s.job i' ∧ ∀ j', s.job i' = some j' → j'.id ≠ id) ∧
        (i2 ≠ i → t.job i = none) ∧ t.sched.lastJobId = id ∧
        (gate ≠ .none →
          t.shuttle = { s.shuttle.ended w .none with state := .idle } ∧ t.seq = ⟨none, .unissued, none, 0, 0, false⟩) ∧
        (gate = .none → t.seq.job = some i2 ∧
          ((s.line j.lathe).guardClosed = true →
            t.shuttle = (s.shuttle.ended w .none).issued .move (.lathe j.lathe) .fast ∧
              t.seq = ⟨some i2, .outstanding, some ⟨.move, .lathe j.lathe⟩, 0, 0, false⟩)) ∧
        t.events.records = s.events.records ++
          [⟨.jobDone, s.now, some j.lathe, none, some b, some j.id,
            if (s.now - j.deadline).toNat < 2147483648 then s.now - j.deadline else 0⟩] ∧
        t.accounts = s.accounts ∧ t.rack = s.rack ∧ t.ports = s.ports ∧ Kept s t

/-- ORDER_COMPLETE of a RETURN job. Its MOVE to the lathe done, its PICK is taken up by the checks while the cradle
holds a bar without the loading mark, and otherwise the job completes without one, outside AWAIT with no other effect.
Its PICK, in IDLE or STOPPED: with a bar sensed the cradle bar is the job's, the cradle empty, and MOVE is issued slow
to the bar's home lane with a reservation where that is fit, and to REJECT otherwise; with nothing sensed
CRADLE_MISSING is raised, the record is dropped and the job ends. In RUNNING or LOST with a current bar a PICK also
arms the delivery compare at T_out less LOOKAHEAD, which where it is reached asks for a DELIVER job; in AWAIT the
lathe's DELIVER job is due at the AWAIT entry time, or one is asked for. Its MOVE with the bar done, its PLACE is
taken up by the checks, in REJECT_WAIT with REJECT_FULL where it finds no place. Its PLACE at its lane: the bar is the
new front of the lane with its returned flag set, the reservation is cleared, no JOB_DONE is raised, the slot empties
and the shuttle is IDLE. (At the PLACE the lane is closed, so that no stock gain follows; nothing is deferred, no halt
stands and no other job is ready. The model's choices: past the age limit of t_last the T_out that stands is formed
from the aged t_last, log 12; the cleared step record has no order, log 32.) -/
def Obligations.ReturnPlacesBarAtFront : Prop :=
  ∀ (s : State) (o : OutOrder) (w : Word) (i : Slot) (j : Job),
    s.completes o w → s.active = some (i, j) → j.kind = .ret → s.shuttle.state = .stepping →
    s.shuttle.haltPending = false → s.sched.deferred = [] → s.noOtherReady i →
    let ends (t : State) : Prop :=
      t.job i = none ∧ (∀ i', i' ≠ i → t.job i' = s.job i') ∧
        t.shuttle = { s.shuttle.ended w .none with state := .idle } ∧
        t.seq = ⟨none, .unissued, none, 0, 0, false⟩ ∧ t.bins = s.bins ∧ Kept s t
    (∀ c : CradleBar, j.step = .two → (s.account j.lathe).cradle = some c →
      ((s.account j.lathe).state = .idle ∨ (s.account j.lathe).state = .stopped) →
      let a := { s.account j.lathe with cradle := none }
      let emptied (t : State) : Prop :=
        t.account j.lathe = { a with holdSet := a.reasons } ∧ ∀ n, n ≠ j.lathe → t.account n = s.account n
      let fit : Prop := homeFit (s.lane c.bar.home) c.bar
      let place : Station := if fit then .lane c.bar.home else .reject
      (sensedLoad w = .bar → j.cancel = .none →
        ∃ t, exec .orderComplete s = .next t ∧ emptied t ∧
          t.job i = some
            { j with bar := some c.bar, step := .three, lane := if fit then some c.bar.home else none } ∧
          (∀ i', i' ≠ i → t.job i' = s.job i') ∧
          (∀ k, t.lane k = if fit ∧ k = c.bar.home then { s.lane k with reserved := 1 } else s.lane k) ∧
          t.shuttle = (s.shuttle.ended w .bar).issued .move place .slow ∧ t.seq.order = some ⟨.move, place⟩ ∧
          t.seq.phase = .outstanding ∧ t.timer.stepTimer = .running s.params.stepLimitMove ∧ t.events = s.events ∧
          Kept s t) ∧
      (sensedLoad w = .none → s.events.records.length < 64 →
        ∃ t, exec .orderComplete s = .next t ∧ emptied t ∧ ends t ∧ t.rack = s.rack ∧
          t.events.records = s.events.records ++
            [⟨.cradleMissing, s.now, some j.lathe, none, none, some j.id, BitVec.ofNat 32 c.bar.id⟩])) ∧
    (∀ c : CradleBar, j.step = .two → (s.account j.lathe).cradle = some c → sensedLoad w = .bar → j.cancel = .none →
      let n := j.lathe
      let a := { s.account n with cradle := none }
      let fit : Prop := homeFit (s.lane c.bar.home) c.bar
      let place : Station := if fit then .lane c.bar.home else .reject
      let asked (t : State) (due : Time) : Prop :=
        ∀ i2, s.emptySlot = some i2 → ∃ j2, t.job i2 = some j2 ∧ j2.kind = .deliver ∧ j2.lathe = n ∧
          j2.state = .waiting ∧ j2.step = .one ∧ j2.deadline = due ∧ j2.created = s.now
      let picked (t : State) : Prop :=
        t.account n = { a with holdSet := a.reasons } ∧ (∀ m, m ≠ n → t.account m = s.account m) ∧
          t.job i = some
            { j with bar := some c.bar, step := .three, lane := if fit then some c.bar.home else none } ∧
          (∀ k, (t.lane k).bars = (s.lane k).bars ∧
            (t.lane k).reserved = if fit ∧ k = c.bar.home then 1 else (s.lane k).reserved) ∧
          t.shuttle = (s.shuttle.ended w .bar).issued .move place .slow ∧ t.seq.order = some ⟨.move, place⟩ ∧
          t.seq.phase = .outstanding ∧ Kept s t
      (∀ cur held left cyc, a.state = .running ∨ a.state = .lost → a.current = some cur → a.tOut = some held →
        a.partsLeft = some left → a.cycle = some cyc → a.program.isSome = true →
        let due := a.used s.now held left cyc
        let value := due - BitVec.ofNat 32 s.params.lookahead
        ∃ t, exec .orderComplete s = .next t ∧ picked t ∧
          t.compareOf n = ⟨true, value, atOrBefore value s.now⟩ ∧
          (atOrBefore value s.now = false ∨ a.stockShort = true ∨ s.hasJob n .deliver = true →
            (∀ i', i' ≠ i → t.job i' = s.job i') ∧ t.events = s.events) ∧
          (atOrBefore value s.now = true → a.stockShort = false → s.hasJob n .deliver = false → asked t due)) ∧
      (a.state = .await → a.current = none → a.program.isSome = true →
        ∃ t, exec .orderComplete s = .next t ∧ picked t ∧ t.compareOf n = s.compareOf n ∧
          (∀ d j2, s.findJob n .deliver = some d → s.job d = some j2 →
            t.job d = some { j2 with deadline := a.awaitEntry.read s.now } ∧ t.events = s.events) ∧
          (s.findJob n .deliver = none → a.stockShort = true → ∀ i', i' ≠ i → t.job i' = s.job i') ∧
          (s.findJob n .deliver = none → a.stockShort = false → asked t (a.awaitEntry.read s.now)))) ∧
    (j.step = .one → sensedLoad w = .none → j.cancel = .none →
      (∀ c, (s.account j.lathe).cradle = some c → c.loading = false →
        ∃ t, exec .orderComplete s = .next t ∧
          s.stepTaken t (s.shuttle.ended w .none) j ⟨.pick, .lathe j.lathe⟩ ∧
          t.sched = { s.sched with slots := s.sched.slots.write i (some { j with step := .two }) } ∧
          t.rack = s.rack ∧ t.accounts = s.accounts ∧ t.ports = s.ports ∧ Kept s t) ∧
      ((∀ c, (s.account j.lathe).cradle = some c → c.loading = true) → (s.account j.lathe).state ≠ .await →
        ∃ t, exec .orderComplete s = .next t ∧ ends t ∧ t.rack = s.rack ∧ t.accounts = s.accounts ∧
          t.ports = s.ports ∧ t.events = s.events)) ∧
    (j.step = .three → sensedLoad w = .bar → j.cancel = .none → s.events.records.length < 64 →
      ∃ t, exec .orderComplete s = .next t ∧
        s.stepTaken t (s.shuttle.ended w .bar) j
          ⟨.place, match j.lane with
            | some k => .lane k
            | none => .reject⟩ ∧
        t.sched = { s.sched with slots := s.sched.slots.write i (some { j with step := .four }) } ∧
        t.rack = s.rack ∧ t.accounts = s.accounts ∧ t.ports = s.ports ∧ Kept s t) ∧
    ∀ b, j.step = .four → j.bar = some b → sensedLoad w = .none →
      (∀ k, j.lane = some k → (s.lane k).isOpen = false) →
      ∃ t, exec .orderComplete s = .next t ∧ ends t ∧
        (∀ k, t.lane k =
          if j.lane = some k then
            { s.lane k with bars := { b with returned := true } :: (s.lane k).bars, reserved := 0 }
          else s.lane k) ∧
        t.rack.reject = (if j.lane = none then s.rack.reject + 1 else s.rack.reject) ∧ t.events = s.events ∧
        t.accounts = s.accounts ∧ t.ports = s.ports

/-- CLEAR_COMPLETE: with home failed HOME is issued again, slow after UNKNOWN_LOAD and fast otherwise (the model reads
that from the fault record that the CLEAR clears, its own choice, log 14); else with a halt pending the shuttle is
HALTED; else with no job ACTIVE, and none ready, it is IDLE; else the frozen step is taken up with its checks afresh,
so that its order is issued again, a MOVE to a lane among them, or waits, and an EMPTY notes T_issue again; but a
RETURN at its PICK with no bar it may take completes, outside AWAIT with nothing deferred and no other job ready, and
leaves the shuttle IDLE. The fault record is cleared in each. (The empty order of the cleared step record is the
model's choice, log 32.) -/
def Obligations.ClearCompleteEndsFault : Prop :=
  ∀ (s : State) (o : OutOrder) (w : Word), s.shuttle.outstanding = some o → s.shuttle.heldWord = some w →
    o.kind = .clear →
    let sh : Shuttle :=
      { s.shuttle with
        lastStatus := some w, position := statusPosition w, noAnswer := 0, outstanding := none, heldWord := none
        fault := none }
    let stopped := s.setTimer { s.timer with stepTimer := .stopped }
    let bare (j : Job) : Prop :=
      j.kind = .ret ∧ j.step = .two ∧ ∀ c, (s.account j.lathe).cradle = some c → c.loading = true
    let running := s.setTimer { s.timer with stepTimer := .running s.params.stepLimitMove }
    (s.shuttle.homeFailed = true →
      let sp : Speed := if s.shuttle.fault.map (·.code) = some .unknownLoad then .slow else .fast
      exec .clearComplete s = .next (running.setShuttle
        { sh with
          state := .homing, outstanding := some ⟨.home, some .home, sp, .home⟩, lastTarget := some .home
          shout := some (exchangeBits .home (some .home) sp) })) ∧
    (s.shuttle.homeFailed = false → s.shuttle.haltPending = true →
      exec .clearComplete s = .next (stopped.setShuttle { sh with state := .halted, haltPending := false })) ∧
    (s.shuttle.homeFailed = false → s.shuttle.haltPending = false → s.seq.job = none → s.noneReady →
      exec .clearComplete s = .next (stopped.setShuttle { sh with state := .idle })) ∧
    (∀ i j next, s.shuttle.homeFailed = false → s.shuttle.haltPending = false → s.active = some (i, j) →
      j.order = some next → ¬bare j → s.events.records.length < 64 →
      ∃ t, exec .clearComplete s = .next t ∧ s.stepTaken t sh j next ∧ t.sched = s.sched ∧ t.rack = s.rack ∧
        t.accounts = s.accounts ∧ t.ports = s.ports ∧ Kept s t) ∧
    (∀ i j, s.shuttle.homeFailed = false → s.shuttle.haltPending = false → s.active = some (i, j) → bare j →
      (s.account j.lathe).state ≠ .await → s.sched.deferred = [] → s.noOtherReady i →
      exec .clearComplete s = .next (((stopped.setShuttle { sh with state := .idle }).setSeq
        ⟨none, .unissued, none, 0, 0, false⟩).setSched { s.sched with slots := s.sched.slots.write i none })) ∧
    (∀ i j k, s.shuttle.homeFailed = false → s.shuttle.haltPending = false → s.active = some (i, j) →
      j.kind = .deliver → j.step = .one → j.lane = some k →
      exec .clearComplete s = .next
        ((running.setShuttle
          { sh with
            state := .stepping, outstanding := some ⟨.move, some (.lane k), s.shuttle.load.speed, .step⟩
            lastTarget := some (.lane k), shout := some (exchangeBits .move (some (.lane k)) s.shuttle.load.speed) }).setSeq
          { s.seq with phase := .outstanding, order := some ⟨.move, .lane k⟩, expiries := 0, boundary := false }))

/-! ### What every step keeps -/

/-- The event queue holds at most 64 records and ATTN is asserted exactly while their number is at or above ATTN_LEVEL;
every port holds at most one reply not yet fully sent, at most one notice of each kind and at most four messages, and
LP12 no notice: every step from a state of either kind leads to one. -/
def Obligations.StepKeepsQueues : Prop :=
  ∀ s t : State, step s = .next t → (s.eventsOk → t.eventsOk) ∧ (s.portsOk → t.portsOk)

/-- Every lathe's hold reason set is the one its account's fields give, and its HOLD is commanded asserted exactly while
the set is not empty: every step from a state of that kind leads to one. -/
def Obligations.StepKeepsHolds : Prop := ∀ s t : State, s.holdOk → step s = .next t → t.holdOk

/-- Every bin's capacity lies in 1 to 9999 and its count plus dump in flight within the capacity; the hall parameters
lie in their ranges, and so do the prescaler's, the lines', the tray and the error counts: every step from a state of
any of these kinds leads to one. -/
def Obligations.StepKeepsRanges : Prop :=
  ∀ s t : State, step s = .next t →
    (s.binsOk → t.binsOk) ∧ (s.paramsOk → t.paramsOk) ∧ (s.countersOk → t.countersOk)

/-- The load timer runs, and the loading mark stands, in LOADING only; an account is in NOPROG exactly while it holds no
program: every step from a state of either kind leads to one. -/
def Obligations.StepKeepsAccounts : Prop :=
  ∀ s t : State, step s = .next t → (s.loadOk → t.loadOk) ∧ (s.programOk → t.programOk)

/-- The state after a power-on reset is of every one of those kinds, and its books of the rack, the schedule and the
shuttle are well kept. -/
def Obligations.ResetIsWellKept : Prop :=
  State.reset.eventsOk ∧ State.reset.holdOk ∧ State.reset.portsOk ∧ State.reset.binsOk ∧ State.reset.paramsOk ∧
    State.reset.countersOk ∧ State.reset.loadOk ∧ State.reset.programOk ∧ State.reset.BooksOk

/-- Only a SETUP of lathe n, as its row or as the SETUP that the decoder takes out of LPn's mailbox, a RESTART, as its
row or taken out of LP12's, and a power-on reset change the program that lathe n's account holds. -/
def Obligations.OnlySetupChangesProgram : Prop :=
  ∀ (c : Instr) (s t : State) (n : Lathe), exec c s = .next t → (t.account n).program ≠ (s.account n).program →
    (∃ m, c = .setup n m) ∨ c = .restart ∨ c = .powerOnReset ∨
      ∃ h bytes, c = .requestTake h ∧
        (((s.port (lathePort n)).mailbox = some bytes ∧ ∃ m, parseRequest bytes = some (.setup m)) ∨
          ((s.port supervisorPort).mailbox = some bytes ∧ parseRequest bytes = some .restart))
end

