-- ==== Sys2Proof/Laws/State.lean ====
section
/-! SUPPORT. The small lemmas of State: what each update leaves in each field, and each record in each place. -/
namespace Sys2Proof

namespace Bank
variable {α β : Type} {n : Nat}

@[simp] theorem read_write_self (v : Bank α n) (i : Fin n) (x : α) : (v.write i x).read i = x := by
  simp [read, write]
theorem read_write (v : Bank α n) (i j : Fin n) (x : α) :
    (v.write i x).read j = if i = j then x else v.read j := by
  by_cases h : i = j
  · subst h; simp
  · have : i.val ≠ j.val := fun e => h (Fin.ext e)
    simp [read, write, h, Vector.getElem_set_ne, this]
@[simp] theorem read_write_ne (v : Bank α n) (i j : Fin n) (x : α) (h : i ≠ j) : (v.write i x).read j = v.read j := by
  simp [read_write, h]
@[simp] theorem read_each (v : Bank α n) (f : α → β) (i : Fin n) : (v.each f).read i = f (v.read i) := by
  simp [read, each]
@[simp] theorem read_eachAt (v : Bank α n) (f : Fin n → α → β) (i : Fin n) : (v.eachAt f).read i = f i (v.read i) := by
  simp [read, eachAt]
@[simp] theorem read_fill (x : α) (i : Fin n) : (fill x : Bank α n).read i = x := by simp [read, fill]
theorem ext_read {v w : Bank α n} (h : ∀ i, v.read i = w.read i) : v = w :=
  Vector.ext fun i hi => h ⟨i, hi⟩
@[simp] theorem write_read (v : Bank α n) (i : Fin n) : v.write i (v.read i) = v :=
  ext_read fun j => by by_cases h : i = j <;> simp [h]

end Bank

namespace Machine
namespace State
variable (s : State)

/-! ### One lemma per field per update -/

@[simp] theorem setPending_pending (x : List Instr) : (s.setPending x).pending = x := rfl
@[simp] theorem setPending_params (x : List Instr) : (s.setPending x).params = s.params := rfl
@[simp] theorem setPending_timer (x : List Instr) : (s.setPending x).timer = s.timer := rfl
@[simp] theorem setPending_lines (x : List Instr) : (s.setPending x).lines = s.lines := rfl
@[simp] theorem setPending_guardSeen (x : List Instr) : (s.setPending x).guardSeen = s.guardSeen := rfl
@[simp] theorem setPending_pins (x : List Instr) : (s.setPending x).pins = s.pins := rfl
@[simp] theorem setPending_accounts (x : List Instr) : (s.setPending x).accounts = s.accounts := rfl
@[simp] theorem setPending_rack (x : List Instr) : (s.setPending x).rack = s.rack := rfl
@[simp] theorem setPending_sched (x : List Instr) : (s.setPending x).sched = s.sched := rfl
@[simp] theorem setPending_seq (x : List Instr) : (s.setPending x).seq = s.seq := rfl
@[simp] theorem setPending_bins (x : List Instr) : (s.setPending x).bins = s.bins := rfl
@[simp] theorem setPending_shuttle (x : List Instr) : (s.setPending x).shuttle = s.shuttle := rfl
@[simp] theorem setPending_ports (x : List Instr) : (s.setPending x).ports = s.ports := rfl
@[simp] theorem setPending_pointer (x : List Instr) : (s.setPending x).pointer = s.pointer := rfl
@[simp] theorem setPending_events (x : List Instr) : (s.setPending x).events = s.events := rfl
@[simp] theorem setPending_draws (x : List Instr) : (s.setPending x).draws = s.draws := rfl
@[simp] theorem setParams_pending (x : Params) : (s.setParams x).pending = s.pending := rfl
@[simp] theorem setParams_params (x : Params) : (s.setParams x).params = x := rfl
@[simp] theorem setParams_timer (x : Params) : (s.setParams x).timer = s.timer := rfl
@[simp] theorem setParams_lines (x : Params) : (s.setParams x).lines = s.lines := rfl
@[simp] theorem setParams_guardSeen (x : Params) : (s.setParams x).guardSeen = s.guardSeen := rfl
@[simp] theorem setParams_pins (x : Params) : (s.setParams x).pins = s.pins := rfl
@[simp] theorem setParams_accounts (x : Params) : (s.setParams x).accounts = s.accounts := rfl
@[simp] theorem setParams_rack (x : Params) : (s.setParams x).rack = s.rack := rfl
@[simp] theorem setParams_sched (x : Params) : (s.setParams x).sched = s.sched := rfl
@[simp] theorem setParams_seq (x : Params) : (s.setParams x).seq = s.seq := rfl
@[simp] theorem setParams_bins (x : Params) : (s.setParams x).bins = s.bins := rfl
@[simp] theorem setParams_shuttle (x : Params) : (s.setParams x).shuttle = s.shuttle := rfl
@[simp] theorem setParams_ports (x : Params) : (s.setParams x).ports = s.ports := rfl
@[simp] theorem setParams_pointer (x : Params) : (s.setParams x).pointer = s.pointer := rfl
@[simp] theorem setParams_events (x : Params) : (s.setParams x).events = s.events := rfl
@[simp] theorem setParams_draws (x : Params) : (s.setParams x).draws = s.draws := rfl
@[simp] theorem setTimer_pending (x : HallTimer) : (s.setTimer x).pending = s.pending := rfl
@[simp] theorem setTimer_params (x : HallTimer) : (s.setTimer x).params = s.params := rfl
@[simp] theorem setTimer_timer (x : HallTimer) : (s.setTimer x).timer = x := rfl
@[simp] theorem setTimer_lines (x : HallTimer) : (s.setTimer x).lines = s.lines := rfl
@[simp] theorem setTimer_guardSeen (x : HallTimer) : (s.setTimer x).guardSeen = s.guardSeen := rfl
@[simp] theorem setTimer_pins (x : HallTimer) : (s.setTimer x).pins = s.pins := rfl
@[simp] theorem setTimer_accounts (x : HallTimer) : (s.setTimer x).accounts = s.accounts := rfl
@[simp] theorem setTimer_rack (x : HallTimer) : (s.setTimer x).rack = s.rack := rfl
@[simp] theorem setTimer_sched (x : HallTimer) : (s.setTimer x).sched = s.sched := rfl
@[simp] theorem setTimer_seq (x : HallTimer) : (s.setTimer x).seq = s.seq := rfl
@[simp] theorem setTimer_bins (x : HallTimer) : (s.setTimer x).bins = s.bins := rfl
@[simp] theorem setTimer_shuttle (x : HallTimer) : (s.setTimer x).shuttle = s.shuttle := rfl
@[simp] theorem setTimer_ports (x : HallTimer) : (s.setTimer x).ports = s.ports := rfl
@[simp] theorem setTimer_pointer (x : HallTimer) : (s.setTimer x).pointer = s.pointer := rfl
@[simp] theorem setTimer_events (x : HallTimer) : (s.setTimer x).events = s.events := rfl
@[simp] theorem setTimer_draws (x : HallTimer) : (s.setTimer x).draws = s.draws := rfl
@[simp] theorem setLines_pending (x : Bank Line 12) : (s.setLines x).pending = s.pending := rfl
@[simp] theorem setLines_params (x : Bank Line 12) : (s.setLines x).params = s.params := rfl
@[simp] theorem setLines_timer (x : Bank Line 12) : (s.setLines x).timer = s.timer := rfl
@[simp] theorem setLines_lines (x : Bank Line 12) : (s.setLines x).lines = x := rfl
@[simp] theorem setLines_guardSeen (x : Bank Line 12) : (s.setLines x).guardSeen = s.guardSeen := rfl
@[simp] theorem setLines_pins (x : Bank Line 12) : (s.setLines x).pins = s.pins := rfl
@[simp] theorem setLines_accounts (x : Bank Line 12) : (s.setLines x).accounts = s.accounts := rfl
@[simp] theorem setLines_rack (x : Bank Line 12) : (s.setLines x).rack = s.rack := rfl
@[simp] theorem setLines_sched (x : Bank Line 12) : (s.setLines x).sched = s.sched := rfl
@[simp] theorem setLines_seq (x : Bank Line 12) : (s.setLines x).seq = s.seq := rfl
@[simp] theorem setLines_bins (x : Bank Line 12) : (s.setLines x).bins = s.bins := rfl
@[simp] theorem setLines_shuttle (x : Bank Line 12) : (s.setLines x).shuttle = s.shuttle := rfl
@[simp] theorem setLines_ports (x : Bank Line 12) : (s.setLines x).ports = s.ports := rfl
@[simp] theorem setLines_pointer (x : Bank Line 12) : (s.setLines x).pointer = s.pointer := rfl
@[simp] theorem setLines_events (x : Bank Line 12) : (s.setLines x).events = s.events := rfl
@[simp] theorem setLines_draws (x : Bank Line 12) : (s.setLines x).draws = s.draws := rfl
@[simp] theorem setGuardSeen_pending (x : Bool) : (s.setGuardSeen x).pending = s.pending := rfl
@[simp] theorem setGuardSeen_params (x : Bool) : (s.setGuardSeen x).params = s.params := rfl
@[simp] theorem setGuardSeen_timer (x : Bool) : (s.setGuardSeen x).timer = s.timer := rfl
@[simp] theorem setGuardSeen_lines (x : Bool) : (s.setGuardSeen x).lines = s.lines := rfl
@[simp] theorem setGuardSeen_guardSeen (x : Bool) : (s.setGuardSeen x).guardSeen = x := rfl
@[simp] theorem setGuardSeen_pins (x : Bool) : (s.setGuardSeen x).pins = s.pins := rfl
@[simp] theorem setGuardSeen_accounts (x : Bool) : (s.setGuardSeen x).accounts = s.accounts := rfl
@[simp] theorem setGuardSeen_rack (x : Bool) : (s.setGuardSeen x).rack = s.rack := rfl
@[simp] theorem setGuardSeen_sched (x : Bool) : (s.setGuardSeen x).sched = s.sched := rfl
@[simp] theorem setGuardSeen_seq (x : Bool) : (s.setGuardSeen x).seq = s.seq := rfl
@[simp] theorem setGuardSeen_bins (x : Bool) : (s.setGuardSeen x).bins = s.bins := rfl
@[simp] theorem setGuardSeen_shuttle (x : Bool) : (s.setGuardSeen x).shuttle = s.shuttle := rfl
@[simp] theorem setGuardSeen_ports (x : Bool) : (s.setGuardSeen x).ports = s.ports := rfl
@[simp] theorem setGuardSeen_pointer (x : Bool) : (s.setGuardSeen x).pointer = s.pointer := rfl
@[simp] theorem setGuardSeen_events (x : Bool) : (s.setGuardSeen x).events = s.events := rfl
@[simp] theorem setGuardSeen_draws (x : Bool) : (s.setGuardSeen x).draws = s.draws := rfl
@[simp] theorem setPins_pending (x : Pins) : (s.setPins x).pending = s.pending := rfl
@[simp] theorem setPins_params (x : Pins) : (s.setPins x).params = s.params := rfl
@[simp] theorem setPins_timer (x : Pins) : (s.setPins x).timer = s.timer := rfl
@[simp] theorem setPins_lines (x : Pins) : (s.setPins x).lines = s.lines := rfl
@[simp] theorem setPins_guardSeen (x : Pins) : (s.setPins x).guardSeen = s.guardSeen := rfl
@[simp] theorem setPins_pins (x : Pins) : (s.setPins x).pins = x := rfl
@[simp] theorem setPins_accounts (x : Pins) : (s.setPins x).accounts = s.accounts := rfl
@[simp] theorem setPins_rack (x : Pins) : (s.setPins x).rack = s.rack := rfl
@[simp] theorem setPins_sched (x : Pins) : (s.setPins x).sched = s.sched := rfl
@[simp] theorem setPins_seq (x : Pins) : (s.setPins x).seq = s.seq := rfl
@[simp] theorem setPins_bins (x : Pins) : (s.setPins x).bins = s.bins := rfl
@[simp] theorem setPins_shuttle (x : Pins) : (s.setPins x).shuttle = s.shuttle := rfl
@[simp] theorem setPins_ports (x : Pins) : (s.setPins x).ports = s.ports := rfl
@[simp] theorem setPins_pointer (x : Pins) : (s.setPins x).pointer = s.pointer := rfl
@[simp] theorem setPins_events (x : Pins) : (s.setPins x).events = s.events := rfl
@[simp] theorem setPins_draws (x : Pins) : (s.setPins x).draws = s.draws := rfl
@[simp] theorem setAccounts_pending (x : Bank Account 12) : (s.setAccounts x).pending = s.pending := rfl
@[simp] theorem setAccounts_params (x : Bank Account 12) : (s.setAccounts x).params = s.params := rfl
@[simp] theorem setAccounts_timer (x : Bank Account 12) : (s.setAccounts x).timer = s.timer := rfl
@[simp] theorem setAccounts_lines (x : Bank Account 12) : (s.setAccounts x).lines = s.lines := rfl
@[simp] theorem setAccounts_guardSeen (x : Bank Account 12) : (s.setAccounts x).guardSeen = s.guardSeen := rfl
@[simp] theorem setAccounts_pins (x : Bank Account 12) : (s.setAccounts x).pins = s.pins := rfl
@[simp] theorem setAccounts_accounts (x : Bank Account 12) : (s.setAccounts x).accounts = x := rfl
@[simp] theorem setAccounts_rack (x : Bank Account 12) : (s.setAccounts x).rack = s.rack := rfl
@[simp] theorem setAccounts_sched (x : Bank Account 12) : (s.setAccounts x).sched = s.sched := rfl
@[simp] theorem setAccounts_seq (x : Bank Account 12) : (s.setAccounts x).seq = s.seq := rfl
@[simp] theorem setAccounts_bins (x : Bank Account 12) : (s.setAccounts x).bins = s.bins := rfl
@[simp] theorem setAccounts_shuttle (x : Bank Account 12) : (s.setAccounts x).shuttle = s.shuttle := rfl
@[simp] theorem setAccounts_ports (x : Bank Account 12) : (s.setAccounts x).ports = s.ports := rfl
@[simp] theorem setAccounts_pointer (x : Bank Account 12) : (s.setAccounts x).pointer = s.pointer := rfl
@[simp] theorem setAccounts_events (x : Bank Account 12) : (s.setAccounts x).events = s.events := rfl
@[simp] theorem setAccounts_draws (x : Bank Account 12) : (s.setAccounts x).draws = s.draws := rfl
@[simp] theorem setRack_pending (x : Rack) : (s.setRack x).pending = s.pending := rfl
@[simp] theorem setRack_params (x : Rack) : (s.setRack x).params = s.params := rfl
@[simp] theorem setRack_timer (x : Rack) : (s.setRack x).timer = s.timer := rfl
@[simp] theorem setRack_lines (x : Rack) : (s.setRack x).lines = s.lines := rfl
@[simp] theorem setRack_guardSeen (x : Rack) : (s.setRack x).guardSeen = s.guardSeen := rfl
@[simp] theorem setRack_pins (x : Rack) : (s.setRack x).pins = s.pins := rfl
@[simp] theorem setRack_accounts (x : Rack) : (s.setRack x).accounts = s.accounts := rfl
@[simp] theorem setRack_rack (x : Rack) : (s.setRack x).rack = x := rfl
@[simp] theorem setRack_sched (x : Rack) : (s.setRack x).sched = s.sched := rfl
@[simp] theorem setRack_seq (x : Rack) : (s.setRack x).seq = s.seq := rfl
@[simp] theorem setRack_bins (x : Rack) : (s.setRack x).bins = s.bins := rfl
@[simp] theorem setRack_shuttle (x : Rack) : (s.setRack x).shuttle = s.shuttle := rfl
@[simp] theorem setRack_ports (x : Rack) : (s.setRack x).ports = s.ports := rfl
@[simp] theorem setRack_pointer (x : Rack) : (s.setRack x).pointer = s.pointer := rfl
@[simp] theorem setRack_events (x : Rack) : (s.setRack x).events = s.events := rfl
@[simp] theorem setRack_draws (x : Rack) : (s.setRack x).draws = s.draws := rfl
@[simp] theorem setSched_pending (x : Schedule) : (s.setSched x).pending = s.pending := rfl
@[simp] theorem setSched_params (x : Schedule) : (s.setSched x).params = s.params := rfl
@[simp] theorem setSched_timer (x : Schedule) : (s.setSched x).timer = s.timer := rfl
@[simp] theorem setSched_lines (x : Schedule) : (s.setSched x).lines = s.lines := rfl
@[simp] theorem setSched_guardSeen (x : Schedule) : (s.setSched x).guardSeen = s.guardSeen := rfl
@[simp] theorem setSched_pins (x : Schedule) : (s.setSched x).pins = s.pins := rfl
@[simp] theorem setSched_accounts (x : Schedule) : (s.setSched x).accounts = s.accounts := rfl
@[simp] theorem setSched_rack (x : Schedule) : (s.setSched x).rack = s.rack := rfl
@[simp] theorem setSched_sched (x : Schedule) : (s.setSched x).sched = x := rfl
@[simp] theorem setSched_seq (x : Schedule) : (s.setSched x).seq = s.seq := rfl
@[simp] theorem setSched_bins (x : Schedule) : (s.setSched x).bins = s.bins := rfl
@[simp] theorem setSched_shuttle (x : Schedule) : (s.setSched x).shuttle = s.shuttle := rfl
@[simp] theorem setSched_ports (x : Schedule) : (s.setSched x).ports = s.ports := rfl
@[simp] theorem setSched_pointer (x : Schedule) : (s.setSched x).pointer = s.pointer := rfl
@[simp] theorem setSched_events (x : Schedule) : (s.setSched x).events = s.events := rfl
@[simp] theorem setSched_draws (x : Schedule) : (s.setSched x).draws = s.draws := rfl
@[simp] theorem setSeq_pending (x : StepRecord) : (s.setSeq x).pending = s.pending := rfl
@[simp] theorem setSeq_params (x : StepRecord) : (s.setSeq x).params = s.params := rfl
@[simp] theorem setSeq_timer (x : StepRecord) : (s.setSeq x).timer = s.timer := rfl
@[simp] theorem setSeq_lines (x : StepRecord) : (s.setSeq x).lines = s.lines := rfl
@[simp] theorem setSeq_guardSeen (x : StepRecord) : (s.setSeq x).guardSeen = s.guardSeen := rfl
@[simp] theorem setSeq_pins (x : StepRecord) : (s.setSeq x).pins = s.pins := rfl
@[simp] theorem setSeq_accounts (x : StepRecord) : (s.setSeq x).accounts = s.accounts := rfl
@[simp] theorem setSeq_rack (x : StepRecord) : (s.setSeq x).rack = s.rack := rfl
@[simp] theorem setSeq_sched (x : StepRecord) : (s.setSeq x).sched = s.sched := rfl
@[simp] theorem setSeq_seq (x : StepRecord) : (s.setSeq x).seq = x := rfl
@[simp] theorem setSeq_bins (x : StepRecord) : (s.setSeq x).bins = s.bins := rfl
@[simp] theorem setSeq_shuttle (x : StepRecord) : (s.setSeq x).shuttle = s.shuttle := rfl
@[simp] theorem setSeq_ports (x : StepRecord) : (s.setSeq x).ports = s.ports := rfl
@[simp] theorem setSeq_pointer (x : StepRecord) : (s.setSeq x).pointer = s.pointer := rfl
@[simp] theorem setSeq_events (x : StepRecord) : (s.setSeq x).events = s.events := rfl
@[simp] theorem setSeq_draws (x : StepRecord) : (s.setSeq x).draws = s.draws := rfl
@[simp] theorem setBins_pending (x : Bank Bin 8) : (s.setBins x).pending = s.pending := rfl
@[simp] theorem setBins_params (x : Bank Bin 8) : (s.setBins x).params = s.params := rfl
@[simp] theorem setBins_timer (x : Bank Bin 8) : (s.setBins x).timer = s.timer := rfl
@[simp] theorem setBins_lines (x : Bank Bin 8) : (s.setBins x).lines = s.lines := rfl
@[simp] theorem setBins_guardSeen (x : Bank Bin 8) : (s.setBins x).guardSeen = s.guardSeen := rfl
@[simp] theorem setBins_pins (x : Bank Bin 8) : (s.setBins x).pins = s.pins := rfl
@[simp] theorem setBins_accounts (x : Bank Bin 8) : (s.setBins x).accounts = s.accounts := rfl
@[simp] theorem setBins_rack (x : Bank Bin 8) : (s.setBins x).rack = s.rack := rfl
@[simp] theorem setBins_sched (x : Bank Bin 8) : (s.setBins x).sched = s.sched := rfl
@[simp] theorem setBins_seq (x : Bank Bin 8) : (s.setBins x).seq = s.seq := rfl
@[simp] theorem setBins_bins (x : Bank Bin 8) : (s.setBins x).bins = x := rfl
@[simp] theorem setBins_shuttle (x : Bank Bin 8) : (s.setBins x).shuttle = s.shuttle := rfl
@[simp] theorem setBins_ports (x : Bank Bin 8) : (s.setBins x).ports = s.ports := rfl
@[simp] theorem setBins_pointer (x : Bank Bin 8) : (s.setBins x).pointer = s.pointer := rfl
@[simp] theorem setBins_events (x : Bank Bin 8) : (s.setBins x).events = s.events := rfl
@[simp] theorem setBins_draws (x : Bank Bin 8) : (s.setBins x).draws = s.draws := rfl
@[simp] theorem setShuttle_pending (x : Shuttle) : (s.setShuttle x).pending = s.pending := rfl
@[simp] theorem setShuttle_params (x : Shuttle) : (s.setShuttle x).params = s.params := rfl
@[simp] theorem setShuttle_timer (x : Shuttle) : (s.setShuttle x).timer = s.timer := rfl
@[simp] theorem setShuttle_lines (x : Shuttle) : (s.setShuttle x).lines = s.lines := rfl
@[simp] theorem setShuttle_guardSeen (x : Shuttle) : (s.setShuttle x).guardSeen = s.guardSeen := rfl
@[simp] theorem setShuttle_pins (x : Shuttle) : (s.setShuttle x).pins = s.pins := rfl
@[simp] theorem setShuttle_accounts (x : Shuttle) : (s.setShuttle x).accounts = s.accounts := rfl
@[simp] theorem setShuttle_rack (x : Shuttle) : (s.setShuttle x).rack = s.rack := rfl
@[simp] theorem setShuttle_sched (x : Shuttle) : (s.setShuttle x).sched = s.sched := rfl
@[simp] theorem setShuttle_seq (x : Shuttle) : (s.setShuttle x).seq = s.seq := rfl
@[simp] theorem setShuttle_bins (x : Shuttle) : (s.setShuttle x).bins = s.bins := rfl
@[simp] theorem setShuttle_shuttle (x : Shuttle) : (s.setShuttle x).shuttle = x := rfl
@[simp] theorem setShuttle_ports (x : Shuttle) : (s.setShuttle x).ports = s.ports := rfl
@[simp] theorem setShuttle_pointer (x : Shuttle) : (s.setShuttle x).pointer = s.pointer := rfl
@[simp] theorem setShuttle_events (x : Shuttle) : (s.setShuttle x).events = s.events := rfl
@[simp] theorem setShuttle_draws (x : Shuttle) : (s.setShuttle x).draws = s.draws := rfl
@[simp] theorem setPorts_pending (x : Bank Port 13) : (s.setPorts x).pending = s.pending := rfl
@[simp] theorem setPorts_params (x : Bank Port 13) : (s.setPorts x).params = s.params := rfl
@[simp] theorem setPorts_timer (x : Bank Port 13) : (s.setPorts x).timer = s.timer := rfl
@[simp] theorem setPorts_lines (x : Bank Port 13) : (s.setPorts x).lines = s.lines := rfl
@[simp] theorem setPorts_guardSeen (x : Bank Port 13) : (s.setPorts x).guardSeen = s.guardSeen := rfl
@[simp] theorem setPorts_pins (x : Bank Port 13) : (s.setPorts x).pins = s.pins := rfl
@[simp] theorem setPorts_accounts (x : Bank Port 13) : (s.setPorts x).accounts = s.accounts := rfl
@[simp] theorem setPorts_rack (x : Bank Port 13) : (s.setPorts x).rack = s.rack := rfl
@[simp] theorem setPorts_sched (x : Bank Port 13) : (s.setPorts x).sched = s.sched := rfl
@[simp] theorem setPorts_seq (x : Bank Port 13) : (s.setPorts x).seq = s.seq := rfl
@[simp] theorem setPorts_bins (x : Bank Port 13) : (s.setPorts x).bins = s.bins := rfl
@[simp] theorem setPorts_shuttle (x : Bank Port 13) : (s.setPorts x).shuttle = s.shuttle := rfl
@[simp] theorem setPorts_ports (x : Bank Port 13) : (s.setPorts x).ports = x := rfl
@[simp] theorem setPorts_pointer (x : Bank Port 13) : (s.setPorts x).pointer = s.pointer := rfl
@[simp] theorem setPorts_events (x : Bank Port 13) : (s.setPorts x).events = s.events := rfl
@[simp] theorem setPorts_draws (x : Bank Port 13) : (s.setPorts x).draws = s.draws := rfl
@[simp] theorem setPointer_pending (x : PortNo) : (s.setPointer x).pending = s.pending := rfl
@[simp] theorem setPointer_params (x : PortNo) : (s.setPointer x).params = s.params := rfl
@[simp] theorem setPointer_timer (x : PortNo) : (s.setPointer x).timer = s.timer := rfl
@[simp] theorem setPointer_lines (x : PortNo) : (s.setPointer x).lines = s.lines := rfl
@[simp] theorem setPointer_guardSeen (x : PortNo) : (s.setPointer x).guardSeen = s.guardSeen := rfl
@[simp] theorem setPointer_pins (x : PortNo) : (s.setPointer x).pins = s.pins := rfl
@[simp] theorem setPointer_accounts (x : PortNo) : (s.setPointer x).accounts = s.accounts := rfl
@[simp] theorem setPointer_rack (x : PortNo) : (s.setPointer x).rack = s.rack := rfl
@[simp] theorem setPointer_sched (x : PortNo) : (s.setPointer x).sched = s.sched := rfl
@[simp] theorem setPointer_seq (x : PortNo) : (s.setPointer x).seq = s.seq := rfl
@[simp] theorem setPointer_bins (x : PortNo) : (s.setPointer x).bins = s.bins := rfl
@[simp] theorem setPointer_shuttle (x : PortNo) : (s.setPointer x).shuttle = s.shuttle := rfl
@[simp] theorem setPointer_ports (x : PortNo) : (s.setPointer x).ports = s.ports := rfl
@[simp] theorem setPointer_pointer (x : PortNo) : (s.setPointer x).pointer = x := rfl
@[simp] theorem setPointer_events (x : PortNo) : (s.setPointer x).events = s.events := rfl
@[simp] theorem setPointer_draws (x : PortNo) : (s.setPointer x).draws = s.draws := rfl
@[simp] theorem setEvents_pending (x : EventQueue) : (s.setEvents x).pending = s.pending := rfl
@[simp] theorem setEvents_params (x : EventQueue) : (s.setEvents x).params = s.params := rfl
@[simp] theorem setEvents_timer (x : EventQueue) : (s.setEvents x).timer = s.timer := rfl
@[simp] theorem setEvents_lines (x : EventQueue) : (s.setEvents x).lines = s.lines := rfl
@[simp] theorem setEvents_guardSeen (x : EventQueue) : (s.setEvents x).guardSeen = s.guardSeen := rfl
@[simp] theorem setEvents_pins (x : EventQueue) : (s.setEvents x).pins = s.pins := rfl
@[simp] theorem setEvents_accounts (x : EventQueue) : (s.setEvents x).accounts = s.accounts := rfl
@[simp] theorem setEvents_rack (x : EventQueue) : (s.setEvents x).rack = s.rack := rfl
@[simp] theorem setEvents_sched (x : EventQueue) : (s.setEvents x).sched = s.sched := rfl
@[simp] theorem setEvents_seq (x : EventQueue) : (s.setEvents x).seq = s.seq := rfl
@[simp] theorem setEvents_bins (x : EventQueue) : (s.setEvents x).bins = s.bins := rfl
@[simp] theorem setEvents_shuttle (x : EventQueue) : (s.setEvents x).shuttle = s.shuttle := rfl
@[simp] theorem setEvents_ports (x : EventQueue) : (s.setEvents x).ports = s.ports := rfl
@[simp] theorem setEvents_pointer (x : EventQueue) : (s.setEvents x).pointer = s.pointer := rfl
@[simp] theorem setEvents_events (x : EventQueue) : (s.setEvents x).events = x := rfl
@[simp] theorem setEvents_draws (x : EventQueue) : (s.setEvents x).draws = s.draws := rfl
@[simp] theorem setDraws_pending (x : Nat) : (s.setDraws x).pending = s.pending := rfl
@[simp] theorem setDraws_params (x : Nat) : (s.setDraws x).params = s.params := rfl
@[simp] theorem setDraws_timer (x : Nat) : (s.setDraws x).timer = s.timer := rfl
@[simp] theorem setDraws_lines (x : Nat) : (s.setDraws x).lines = s.lines := rfl
@[simp] theorem setDraws_guardSeen (x : Nat) : (s.setDraws x).guardSeen = s.guardSeen := rfl
@[simp] theorem setDraws_pins (x : Nat) : (s.setDraws x).pins = s.pins := rfl
@[simp] theorem setDraws_accounts (x : Nat) : (s.setDraws x).accounts = s.accounts := rfl
@[simp] theorem setDraws_rack (x : Nat) : (s.setDraws x).rack = s.rack := rfl
@[simp] theorem setDraws_sched (x : Nat) : (s.setDraws x).sched = s.sched := rfl
@[simp] theorem setDraws_seq (x : Nat) : (s.setDraws x).seq = s.seq := rfl
@[simp] theorem setDraws_bins (x : Nat) : (s.setDraws x).bins = s.bins := rfl
@[simp] theorem setDraws_shuttle (x : Nat) : (s.setDraws x).shuttle = s.shuttle := rfl
@[simp] theorem setDraws_ports (x : Nat) : (s.setDraws x).ports = s.ports := rfl
@[simp] theorem setDraws_pointer (x : Nat) : (s.setDraws x).pointer = s.pointer := rfl
@[simp] theorem setDraws_events (x : Nat) : (s.setDraws x).events = s.events := rfl
@[simp] theorem setDraws_draws (x : Nat) : (s.setDraws x).draws = x := rfl

/-! ### Records by number under an update of a field -/

@[simp] theorem setPending_now (x : List Instr)  : (s.setPending x).now = s.now := rfl
@[simp] theorem setPending_account (x : List Instr) (i : Lathe) : (s.setPending x).account i = s.account i := rfl
@[simp] theorem setPending_line (x : List Instr) (i : Lathe) : (s.setPending x).line i = s.line i := rfl
@[simp] theorem setPending_port (x : List Instr) (i : PortNo) : (s.setPending x).port i = s.port i := rfl
@[simp] theorem setPending_bin (x : List Instr) (i : BinNo) : (s.setPending x).bin i = s.bin i := rfl
@[simp] theorem setPending_lane (x : List Instr) (i : LaneNo) : (s.setPending x).lane i = s.lane i := rfl
@[simp] theorem setPending_compareOf (x : List Instr) (i : Lathe) : (s.setPending x).compareOf i = s.compareOf i := rfl
@[simp] theorem setPending_job (x : List Instr) (i : Slot) : (s.setPending x).job i = s.job i := rfl
@[simp] theorem setParams_now (x : Params)  : (s.setParams x).now = s.now := rfl
@[simp] theorem setParams_account (x : Params) (i : Lathe) : (s.setParams x).account i = s.account i := rfl
@[simp] theorem setParams_line (x : Params) (i : Lathe) : (s.setParams x).line i = s.line i := rfl
@[simp] theorem setParams_port (x : Params) (i : PortNo) : (s.setParams x).port i = s.port i := rfl
@[simp] theorem setParams_bin (x : Params) (i : BinNo) : (s.setParams x).bin i = s.bin i := rfl
@[simp] theorem setParams_lane (x : Params) (i : LaneNo) : (s.setParams x).lane i = s.lane i := rfl
@[simp] theorem setParams_compareOf (x : Params) (i : Lathe) : (s.setParams x).compareOf i = s.compareOf i := rfl
@[simp] theorem setParams_job (x : Params) (i : Slot) : (s.setParams x).job i = s.job i := rfl
@[simp] theorem setTimer_now (x : HallTimer)  : (s.setTimer x).now = x.time := rfl
@[simp] theorem setTimer_account (x : HallTimer) (i : Lathe) : (s.setTimer x).account i = s.account i := rfl
@[simp] theorem setTimer_line (x : HallTimer) (i : Lathe) : (s.setTimer x).line i = s.line i := rfl
@[simp] theorem setTimer_port (x : HallTimer) (i : PortNo) : (s.setTimer x).port i = s.port i := rfl
@[simp] theorem setTimer_bin (x : HallTimer) (i : BinNo) : (s.setTimer x).bin i = s.bin i := rfl
@[simp] theorem setTimer_lane (x : HallTimer) (i : LaneNo) : (s.setTimer x).lane i = s.lane i := rfl
@[simp] theorem setTimer_compareOf (x : HallTimer) (i : Lathe) : (s.setTimer x).compareOf i = x.compare.read i := rfl
@[simp] theorem setTimer_job (x : HallTimer) (i : Slot) : (s.setTimer x).job i = s.job i := rfl
@[simp] theorem setLines_now (x : Bank Line 12)  : (s.setLines x).now = s.now := rfl
@[simp] theorem setLines_account (x : Bank Line 12) (i : Lathe) : (s.setLines x).account i = s.account i := rfl
@[simp] theorem setLines_line (x : Bank Line 12) (i : Lathe) : (s.setLines x).line i = x.read i := rfl
@[simp] theorem setLines_port (x : Bank Line 12) (i : PortNo) : (s.setLines x).port i = s.port i := rfl
@[simp] theorem setLines_bin (x : Bank Line 12) (i : BinNo) : (s.setLines x).bin i = s.bin i := rfl
@[simp] theorem setLines_lane (x : Bank Line 12) (i : LaneNo) : (s.setLines x).lane i = s.lane i := rfl
@[simp] theorem setLines_compareOf (x : Bank Line 12) (i : Lathe) : (s.setLines x).compareOf i = s.compareOf i := rfl
@[simp] theorem setLines_job (x : Bank Line 12) (i : Slot) : (s.setLines x).job i = s.job i := rfl
@[simp] theorem setGuardSeen_now (x : Bool)  : (s.setGuardSeen x).now = s.now := rfl
@[simp] theorem setGuardSeen_account (x : Bool) (i : Lathe) : (s.setGuardSeen x).account i = s.account i := rfl
@[simp] theorem setGuardSeen_line (x : Bool) (i : Lathe) : (s.setGuardSeen x).line i = s.line i := rfl
@[simp] theorem setGuardSeen_port (x : Bool) (i : PortNo) : (s.setGuardSeen x).port i = s.port i := rfl
@[simp] theorem setGuardSeen_bin (x : Bool) (i : BinNo) : (s.setGuardSeen x).bin i = s.bin i := rfl
@[simp] theorem setGuardSeen_lane (x : Bool) (i : LaneNo) : (s.setGuardSeen x).lane i = s.lane i := rfl
@[simp] theorem setGuardSeen_compareOf (x : Bool) (i : Lathe) : (s.setGuardSeen x).compareOf i = s.compareOf i := rfl
@[simp] theorem setGuardSeen_job (x : Bool) (i : Slot) : (s.setGuardSeen x).job i = s.job i := rfl
@[simp] theorem setPins_now (x : Pins)  : (s.setPins x).now = s.now := rfl
@[simp] theorem setPins_account (x : Pins) (i : Lathe) : (s.setPins x).account i = s.account i := rfl
@[simp] theorem setPins_line (x : Pins) (i : Lathe) : (s.setPins x).line i = s.line i := rfl
@[simp] theorem setPins_port (x : Pins) (i : PortNo) : (s.setPins x).port i = s.port i := rfl
@[simp] theorem setPins_bin (x : Pins) (i : BinNo) : (s.setPins x).bin i = s.bin i := rfl
@[simp] theorem setPins_lane (x : Pins) (i : LaneNo) : (s.setPins x).lane i = s.lane i := rfl
@[simp] theorem setPins_compareOf (x : Pins) (i : Lathe) : (s.setPins x).compareOf i = s.compareOf i := rfl
@[simp] theorem setPins_job (x : Pins) (i : Slot) : (s.setPins x).job i = s.job i := rfl
@[simp] theorem setAccounts_now (x : Bank Account 12)  : (s.setAccounts x).now = s.now := rfl
@[simp] theorem setAccounts_account (x : Bank Account 12) (i : Lathe) : (s.setAccounts x).account i = x.read i := rfl
@[simp] theorem setAccounts_line (x : Bank Account 12) (i : Lathe) : (s.setAccounts x).line i = s.line i := rfl
@[simp] theorem setAccounts_port (x : Bank Account 12) (i : PortNo) : (s.setAccounts x).port i = s.port i := rfl
@[simp] theorem setAccounts_bin (x : Bank Account 12) (i : BinNo) : (s.setAccounts x).bin i = s.bin i := rfl
@[simp] theorem setAccounts_lane (x : Bank Account 12) (i : LaneNo) : (s.setAccounts x).lane i = s.lane i := rfl
@[simp] theorem setAccounts_compareOf (x : Bank Account 12) (i : Lathe) : (s.setAccounts x).compareOf i = s.compareOf i := rfl
@[simp] theorem setAccounts_job (x : Bank Account 12) (i : Slot) : (s.setAccounts x).job i = s.job i := rfl
@[simp] theorem setRack_now (x : Rack)  : (s.setRack x).now = s.now := rfl
@[simp] theorem setRack_account (x : Rack) (i : Lathe) : (s.setRack x).account i = s.account i := rfl
@[simp] theorem setRack_line (x : Rack) (i : Lathe) : (s.setRack x).line i = s.line i := rfl
@[simp] theorem setRack_port (x : Rack) (i : PortNo) : (s.setRack x).port i = s.port i := rfl
@[simp] theorem setRack_bin (x : Rack) (i : BinNo) : (s.setRack x).bin i = s.bin i := rfl
@[simp] theorem setRack_lane (x : Rack) (i : LaneNo) : (s.setRack x).lane i = x.lanes.read i := rfl
@[simp] theorem setRack_compareOf (x : Rack) (i : Lathe) : (s.setRack x).compareOf i = s.compareOf i := rfl
@[simp] theorem setRack_job (x : Rack) (i : Slot) : (s.setRack x).job i = s.job i := rfl
@[simp] theorem setSched_now (x : Schedule)  : (s.setSched x).now = s.now := rfl
@[simp] theorem setSched_account (x : Schedule) (i : Lathe) : (s.setSched x).account i = s.account i := rfl
@[simp] theorem setSched_line (x : Schedule) (i : Lathe) : (s.setSched x).line i = s.line i := rfl
@[simp] theorem setSched_port (x : Schedule) (i : PortNo) : (s.setSched x).port i = s.port i := rfl
@[simp] theorem setSched_bin (x : Schedule) (i : BinNo) : (s.setSched x).bin i = s.bin i := rfl
@[simp] theorem setSched_lane (x : Schedule) (i : LaneNo) : (s.setSched x).lane i = s.lane i := rfl
@[simp] theorem setSched_compareOf (x : Schedule) (i : Lathe) : (s.setSched x).compareOf i = s.compareOf i := rfl
@[simp] theorem setSched_job (x : Schedule) (i : Slot) : (s.setSched x).job i = x.slots.read i := rfl
@[simp] theorem setSeq_now (x : StepRecord)  : (s.setSeq x).now = s.now := rfl
@[simp] theorem setSeq_account (x : StepRecord) (i : Lathe) : (s.setSeq x).account i = s.account i := rfl
@[simp] theorem setSeq_line (x : StepRecord) (i : Lathe) : (s.setSeq x).line i = s.line i := rfl
@[simp] theorem setSeq_port (x : StepRecord) (i : PortNo) : (s.setSeq x).port i = s.port i := rfl
@[simp] theorem setSeq_bin (x : StepRecord) (i : BinNo) : (s.setSeq x).bin i = s.bin i := rfl
@[simp] theorem setSeq_lane (x : StepRecord) (i : LaneNo) : (s.setSeq x).lane i = s.lane i := rfl
@[simp] theorem setSeq_compareOf (x : StepRecord) (i : Lathe) : (s.setSeq x).compareOf i = s.compareOf i := rfl
@[simp] theorem setSeq_job (x : StepRecord) (i : Slot) : (s.setSeq x).job i = s.job i := rfl
@[simp] theorem setBins_now (x : Bank Bin 8)  : (s.setBins x).now = s.now := rfl
@[simp] theorem setBins_account (x : Bank Bin 8) (i : Lathe) : (s.setBins x).account i = s.account i := rfl
@[simp] theorem setBins_line (x : Bank Bin 8) (i : Lathe) : (s.setBins x).line i = s.line i := rfl
@[simp] theorem setBins_port (x : Bank Bin 8) (i : PortNo) : (s.setBins x).port i = s.port i := rfl
@[simp] theorem setBins_bin (x : Bank Bin 8) (i : BinNo) : (s.setBins x).bin i = x.read i := rfl
@[simp] theorem setBins_lane (x : Bank Bin 8) (i : LaneNo) : (s.setBins x).lane i = s.lane i := rfl
@[simp] theorem setBins_compareOf (x : Bank Bin 8) (i : Lathe) : (s.setBins x).compareOf i = s.compareOf i := rfl
@[simp] theorem setBins_job (x : Bank Bin 8) (i : Slot) : (s.setBins x).job i = s.job i := rfl
@[simp] theorem setShuttle_now (x : Shuttle)  : (s.setShuttle x).now = s.now := rfl
@[simp] theorem setShuttle_account (x : Shuttle) (i : Lathe) : (s.setShuttle x).account i = s.account i := rfl
@[simp] theorem setShuttle_line (x : Shuttle) (i : Lathe) : (s.setShuttle x).line i = s.line i := rfl
@[simp] theorem setShuttle_port (x : Shuttle) (i : PortNo) : (s.setShuttle x).port i = s.port i := rfl
@[simp] theorem setShuttle_bin (x : Shuttle) (i : BinNo) : (s.setShuttle x).bin i = s.bin i := rfl
@[simp] theorem setShuttle_lane (x : Shuttle) (i : LaneNo) : (s.setShuttle x).lane i = s.lane i := rfl
@[simp] theorem setShuttle_compareOf (x : Shuttle) (i : Lathe) : (s.setShuttle x).compareOf i = s.compareOf i := rfl
@[simp] theorem setShuttle_job (x : Shuttle) (i : Slot) : (s.setShuttle x).job i = s.job i := rfl
@[simp] theorem setPorts_now (x : Bank Port 13)  : (s.setPorts x).now = s.now := rfl
@[simp] theorem setPorts_account (x : Bank Port 13) (i : Lathe) : (s.setPorts x).account i = s.account i := rfl
@[simp] theorem setPorts_line (x : Bank Port 13) (i : Lathe) : (s.setPorts x).line i = s.line i := rfl
@[simp] theorem setPorts_port (x : Bank Port 13) (i : PortNo) : (s.setPorts x).port i = x.read i := rfl
@[simp] theorem setPorts_bin (x : Bank Port 13) (i : BinNo) : (s.setPorts x).bin i = s.bin i := rfl
@[simp] theorem setPorts_lane (x : Bank Port 13) (i : LaneNo) : (s.setPorts x).lane i = s.lane i := rfl
@[simp] theorem setPorts_compareOf (x : Bank Port 13) (i : Lathe) : (s.setPorts x).compareOf i = s.compareOf i := rfl
@[simp] theorem setPorts_job (x : Bank Port 13) (i : Slot) : (s.setPorts x).job i = s.job i := rfl
@[simp] theorem setPointer_now (x : PortNo)  : (s.setPointer x).now = s.now := rfl
@[simp] theorem setPointer_account (x : PortNo) (i : Lathe) : (s.setPointer x).account i = s.account i := rfl
@[simp] theorem setPointer_line (x : PortNo) (i : Lathe) : (s.setPointer x).line i = s.line i := rfl
@[simp] theorem setPointer_port (x : PortNo) (i : PortNo) : (s.setPointer x).port i = s.port i := rfl
@[simp] theorem setPointer_bin (x : PortNo) (i : BinNo) : (s.setPointer x).bin i = s.bin i := rfl
@[simp] theorem setPointer_lane (x : PortNo) (i : LaneNo) : (s.setPointer x).lane i = s.lane i := rfl
@[simp] theorem setPointer_compareOf (x : PortNo) (i : Lathe) : (s.setPointer x).compareOf i = s.compareOf i := rfl
@[simp] theorem setPointer_job (x : PortNo) (i : Slot) : (s.setPointer x).job i = s.job i := rfl
@[simp] theorem setEvents_now (x : EventQueue)  : (s.setEvents x).now = s.now := rfl
@[simp] theorem setEvents_account (x : EventQueue) (i : Lathe) : (s.setEvents x).account i = s.account i := rfl
@[simp] theorem setEvents_line (x : EventQueue) (i : Lathe) : (s.setEvents x).line i = s.line i := rfl
@[simp] theorem setEvents_port (x : EventQueue) (i : PortNo) : (s.setEvents x).port i = s.port i := rfl
@[simp] theorem setEvents_bin (x : EventQueue) (i : BinNo) : (s.setEvents x).bin i = s.bin i := rfl
@[simp] theorem setEvents_lane (x : EventQueue) (i : LaneNo) : (s.setEvents x).lane i = s.lane i := rfl
@[simp] theorem setEvents_compareOf (x : EventQueue) (i : Lathe) : (s.setEvents x).compareOf i = s.compareOf i := rfl
@[simp] theorem setEvents_job (x : EventQueue) (i : Slot) : (s.setEvents x).job i = s.job i := rfl
@[simp] theorem setDraws_now (x : Nat)  : (s.setDraws x).now = s.now := rfl
@[simp] theorem setDraws_account (x : Nat) (i : Lathe) : (s.setDraws x).account i = s.account i := rfl
@[simp] theorem setDraws_line (x : Nat) (i : Lathe) : (s.setDraws x).line i = s.line i := rfl
@[simp] theorem setDraws_port (x : Nat) (i : PortNo) : (s.setDraws x).port i = s.port i := rfl
@[simp] theorem setDraws_bin (x : Nat) (i : BinNo) : (s.setDraws x).bin i = s.bin i := rfl
@[simp] theorem setDraws_lane (x : Nat) (i : LaneNo) : (s.setDraws x).lane i = s.lane i := rfl
@[simp] theorem setDraws_compareOf (x : Nat) (i : Lathe) : (s.setDraws x).compareOf i = s.compareOf i := rfl
@[simp] theorem setDraws_job (x : Nat) (i : Slot) : (s.setDraws x).job i = s.job i := rfl

/-! ### Fields and records under an update of one record -/

@[simp] theorem setAccount_pending (n : Lathe) (x : Account) : (s.setAccount n x).pending = s.pending := rfl
@[simp] theorem setAccount_params (n : Lathe) (x : Account) : (s.setAccount n x).params = s.params := rfl
@[simp] theorem setAccount_timer (n : Lathe) (x : Account) : (s.setAccount n x).timer = s.timer := rfl
@[simp] theorem setAccount_lines (n : Lathe) (x : Account) : (s.setAccount n x).lines = s.lines := rfl
@[simp] theorem setAccount_guardSeen (n : Lathe) (x : Account) : (s.setAccount n x).guardSeen = s.guardSeen := rfl
@[simp] theorem setAccount_pins (n : Lathe) (x : Account) : (s.setAccount n x).pins = s.pins := rfl
@[simp] theorem setAccount_accounts (n : Lathe) (x : Account) : (s.setAccount n x).accounts = (s.accounts.write n x) := rfl
@[simp] theorem setAccount_rack (n : Lathe) (x : Account) : (s.setAccount n x).rack = s.rack := rfl
@[simp] theorem setAccount_sched (n : Lathe) (x : Account) : (s.setAccount n x).sched = s.sched := rfl
@[simp] theorem setAccount_seq (n : Lathe) (x : Account) : (s.setAccount n x).seq = s.seq := rfl
@[simp] theorem setAccount_bins (n : Lathe) (x : Account) : (s.setAccount n x).bins = s.bins := rfl
@[simp] theorem setAccount_shuttle (n : Lathe) (x : Account) : (s.setAccount n x).shuttle = s.shuttle := rfl
@[simp] theorem setAccount_ports (n : Lathe) (x : Account) : (s.setAccount n x).ports = s.ports := rfl
@[simp] theorem setAccount_pointer (n : Lathe) (x : Account) : (s.setAccount n x).pointer = s.pointer := rfl
@[simp] theorem setAccount_events (n : Lathe) (x : Account) : (s.setAccount n x).events = s.events := rfl
@[simp] theorem setAccount_draws (n : Lathe) (x : Account) : (s.setAccount n x).draws = s.draws := rfl
@[simp] theorem setAccount_now (n : Lathe) (x : Account)  : (s.setAccount n x).now = s.now := rfl
@[simp] theorem setAccount_line (n : Lathe) (x : Account) (i : Lathe) : (s.setAccount n x).line i = s.line i := rfl
@[simp] theorem setAccount_port (n : Lathe) (x : Account) (i : PortNo) : (s.setAccount n x).port i = s.port i := rfl
@[simp] theorem setAccount_bin (n : Lathe) (x : Account) (i : BinNo) : (s.setAccount n x).bin i = s.bin i := rfl
@[simp] theorem setAccount_lane (n : Lathe) (x : Account) (i : LaneNo) : (s.setAccount n x).lane i = s.lane i := rfl
@[simp] theorem setAccount_compareOf (n : Lathe) (x : Account) (i : Lathe) : (s.setAccount n x).compareOf i = s.compareOf i := rfl
@[simp] theorem setAccount_job (n : Lathe) (x : Account) (i : Slot) : (s.setAccount n x).job i = s.job i := rfl
@[simp] theorem setAccount_account_self (n : Lathe) (x : Account) : (s.setAccount n x).account n = x := Bank.read_write_self _ _ _
theorem setAccount_account (n : Lathe) (x : Account) (i : Lathe) : (s.setAccount n x).account i = if n = i then x else s.account i := Bank.read_write _ _ _ _
@[simp] theorem setAccount_account_ne (n : Lathe) (x : Account) (i : Lathe) (h : n ≠ i) : (s.setAccount n x).account i = s.account i := Bank.read_write_ne _ _ _ _ h
@[simp] theorem setLine_pending (n : Lathe) (x : Line) : (s.setLine n x).pending = s.pending := rfl
@[simp] theorem setLine_params (n : Lathe) (x : Line) : (s.setLine n x).params = s.params := rfl
@[simp] theorem setLine_timer (n : Lathe) (x : Line) : (s.setLine n x).timer = s.timer := rfl
@[simp] theorem setLine_lines (n : Lathe) (x : Line) : (s.setLine n x).lines = (s.lines.write n x) := rfl
@[simp] theorem setLine_guardSeen (n : Lathe) (x : Line) : (s.setLine n x).guardSeen = s.guardSeen := rfl
@[simp] theorem setLine_pins (n : Lathe) (x : Line) : (s.setLine n x).pins = s.pins := rfl
@[simp] theorem setLine_accounts (n : Lathe) (x : Line) : (s.setLine n x).accounts = s.accounts := rfl
@[simp] theorem setLine_rack (n : Lathe) (x : Line) : (s.setLine n x).rack = s.rack := rfl
@[simp] theorem setLine_sched (n : Lathe) (x : Line) : (s.setLine n x).sched = s.sched := rfl
@[simp] theorem setLine_seq (n : Lathe) (x : Line) : (s.setLine n x).seq = s.seq := rfl
@[simp] theorem setLine_bins (n : Lathe) (x : Line) : (s.setLine n x).bins = s.bins := rfl
@[simp] theorem setLine_shuttle (n : Lathe) (x : Line) : (s.setLine n x).shuttle = s.shuttle := rfl
@[simp] theorem setLine_ports (n : Lathe) (x : Line) : (s.setLine n x).ports = s.ports := rfl
@[simp] theorem setLine_pointer (n : Lathe) (x : Line) : (s.setLine n x).pointer = s.pointer := rfl
@[simp] theorem setLine_events (n : Lathe) (x : Line) : (s.setLine n x).events = s.events := rfl
@[simp] theorem setLine_draws (n : Lathe) (x : Line) : (s.setLine n x).draws = s.draws := rfl
@[simp] theorem setLine_now (n : Lathe) (x : Line)  : (s.setLine n x).now = s.now := rfl
@[simp] theorem setLine_account (n : Lathe) (x : Line) (i : Lathe) : (s.setLine n x).account i = s.account i := rfl
@[simp] theorem setLine_port (n : Lathe) (x : Line) (i : PortNo) : (s.setLine n x).port i = s.port i := rfl
@[simp] theorem setLine_bin (n : Lathe) (x : Line) (i : BinNo) : (s.setLine n x).bin i = s.bin i := rfl
@[simp] theorem setLine_lane (n : Lathe) (x : Line) (i : LaneNo) : (s.setLine n x).lane i = s.lane i := rfl
@[simp] theorem setLine_compareOf (n : Lathe) (x : Line) (i : Lathe) : (s.setLine n x).compareOf i = s.compareOf i := rfl
@[simp] theorem setLine_job (n : Lathe) (x : Line) (i : Slot) : (s.setLine n x).job i = s.job i := rfl
@[simp] theorem setLine_line_self (n : Lathe) (x : Line) : (s.setLine n x).line n = x := Bank.read_write_self _ _ _
theorem setLine_line (n : Lathe) (x : Line) (i : Lathe) : (s.setLine n x).line i = if n = i then x else s.line i := Bank.read_write _ _ _ _
@[simp] theorem setLine_line_ne (n : Lathe) (x : Line) (i : Lathe) (h : n ≠ i) : (s.setLine n x).line i = s.line i := Bank.read_write_ne _ _ _ _ h
@[simp] theorem setPort_pending (n : PortNo) (x : Port) : (s.setPort n x).pending = s.pending := rfl
@[simp] theorem setPort_params (n : PortNo) (x : Port) : (s.setPort n x).params = s.params := rfl
@[simp] theorem setPort_timer (n : PortNo) (x : Port) : (s.setPort n x).timer = s.timer := rfl
@[simp] theorem setPort_lines (n : PortNo) (x : Port) : (s.setPort n x).lines = s.lines := rfl
@[simp] theorem setPort_guardSeen (n : PortNo) (x : Port) : (s.setPort n x).guardSeen = s.guardSeen := rfl
@[simp] theorem setPort_pins (n : PortNo) (x : Port) : (s.setPort n x).pins = s.pins := rfl
@[simp] theorem setPort_accounts (n : PortNo) (x : Port) : (s.setPort n x).accounts = s.accounts := rfl
@[simp] theorem setPort_rack (n : PortNo) (x : Port) : (s.setPort n x).rack = s.rack := rfl
@[simp] theorem setPort_sched (n : PortNo) (x : Port) : (s.setPort n x).sched = s.sched := rfl
@[simp] theorem setPort_seq (n : PortNo) (x : Port) : (s.setPort n x).seq = s.seq := rfl
@[simp] theorem setPort_bins (n : PortNo) (x : Port) : (s.setPort n x).bins = s.bins := rfl
@[simp] theorem setPort_shuttle (n : PortNo) (x : Port) : (s.setPort n x).shuttle = s.shuttle := rfl
@[simp] theorem setPort_ports (n : PortNo) (x : Port) : (s.setPort n x).ports = (s.ports.write n x) := rfl
@[simp] theorem setPort_pointer (n : PortNo) (x : Port) : (s.setPort n x).pointer = s.pointer := rfl
@[simp] theorem setPort_events (n : PortNo) (x : Port) : (s.setPort n x).events = s.events := rfl
@[simp] theorem setPort_draws (n : PortNo) (x : Port) : (s.setPort n x).draws = s.draws := rfl
@[simp] theorem setPort_now (n : PortNo) (x : Port)  : (s.setPort n x).now = s.now := rfl
@[simp] theorem setPort_account (n : PortNo) (x : Port) (i : Lathe) : (s.setPort n x).account i = s.account i := rfl
@[simp] theorem setPort_line (n : PortNo) (x : Port) (i : Lathe) : (s.setPort n x).line i = s.line i := rfl
@[simp] theorem setPort_bin (n : PortNo) (x : Port) (i : BinNo) : (s.setPort n x).bin i = s.bin i := rfl
@[simp] theorem setPort_lane (n : PortNo) (x : Port) (i : LaneNo) : (s.setPort n x).lane i = s.lane i := rfl
@[simp] theorem setPort_compareOf (n : PortNo) (x : Port) (i : Lathe) : (s.setPort n x).compareOf i = s.compareOf i := rfl
@[simp] theorem setPort_job (n : PortNo) (x : Port) (i : Slot) : (s.setPort n x).job i = s.job i := rfl
@[simp] theorem setPort_port_self (n : PortNo) (x : Port) : (s.setPort n x).port n = x := Bank.read_write_self _ _ _
theorem setPort_port (n : PortNo) (x : Port) (i : PortNo) : (s.setPort n x).port i = if n = i then x else s.port i := Bank.read_write _ _ _ _
@[simp] theorem setPort_port_ne (n : PortNo) (x : Port) (i : PortNo) (h : n ≠ i) : (s.setPort n x).port i = s.port i := Bank.read_write_ne _ _ _ _ h
@[simp] theorem setBin_pending (n : BinNo) (x : Bin) : (s.setBin n x).pending = s.pending := rfl
@[simp] theorem setBin_params (n : BinNo) (x : Bin) : (s.setBin n x).params = s.params := rfl
@[simp] theorem setBin_timer (n : BinNo) (x : Bin) : (s.setBin n x).timer = s.timer := rfl
@[simp] theorem setBin_lines (n : BinNo) (x : Bin) : (s.setBin n x).lines = s.lines := rfl
@[simp] theorem setBin_guardSeen (n : BinNo) (x : Bin) : (s.setBin n x).guardSeen = s.guardSeen := rfl
@[simp] theorem setBin_pins (n : BinNo) (x : Bin) : (s.setBin n x).pins = s.pins := rfl
@[simp] theorem setBin_accounts (n : BinNo) (x : Bin) : (s.setBin n x).accounts = s.accounts := rfl
@[simp] theorem setBin_rack (n : BinNo) (x : Bin) : (s.setBin n x).rack = s.rack := rfl
@[simp] theorem setBin_sched (n : BinNo) (x : Bin) : (s.setBin n x).sched = s.sched := rfl
@[simp] theorem setBin_seq (n : BinNo) (x : Bin) : (s.setBin n x).seq = s.seq := rfl
@[simp] theorem setBin_bins (n : BinNo) (x : Bin) : (s.setBin n x).bins = (s.bins.write n x) := rfl
@[simp] theorem setBin_shuttle (n : BinNo) (x : Bin) : (s.setBin n x).shuttle = s.shuttle := rfl
@[simp] theorem setBin_ports (n : BinNo) (x : Bin) : (s.setBin n x).ports = s.ports := rfl
@[simp] theorem setBin_pointer (n : BinNo) (x : Bin) : (s.setBin n x).pointer = s.pointer := rfl
@[simp] theorem setBin_events (n : BinNo) (x : Bin) : (s.setBin n x).events = s.events := rfl
@[simp] theorem setBin_draws (n : BinNo) (x : Bin) : (s.setBin n x).draws = s.draws := rfl
@[simp] theorem setBin_now (n : BinNo) (x : Bin)  : (s.setBin n x).now = s.now := rfl
@[simp] theorem setBin_account (n : BinNo) (x : Bin) (i : Lathe) : (s.setBin n x).account i = s.account i := rfl
@[simp] theorem setBin_line (n : BinNo) (x : Bin) (i : Lathe) : (s.setBin n x).line i = s.line i := rfl
@[simp] theorem setBin_port (n : BinNo) (x : Bin) (i : PortNo) : (s.setBin n x).port i = s.port i := rfl
@[simp] theorem setBin_lane (n : BinNo) (x : Bin) (i : LaneNo) : (s.setBin n x).lane i = s.lane i := rfl
@[simp] theorem setBin_compareOf (n : BinNo) (x : Bin) (i : Lathe) : (s.setBin n x).compareOf i = s.compareOf i := rfl
@[simp] theorem setBin_job (n : BinNo) (x : Bin) (i : Slot) : (s.setBin n x).job i = s.job i := rfl
@[simp] theorem setBin_bin_self (n : BinNo) (x : Bin) : (s.setBin n x).bin n = x := Bank.read_write_self _ _ _
theorem setBin_bin (n : BinNo) (x : Bin) (i : BinNo) : (s.setBin n x).bin i = if n = i then x else s.bin i := Bank.read_write _ _ _ _
@[simp] theorem setBin_bin_ne (n : BinNo) (x : Bin) (i : BinNo) (h : n ≠ i) : (s.setBin n x).bin i = s.bin i := Bank.read_write_ne _ _ _ _ h
@[simp] theorem setLane_pending (n : LaneNo) (x : LaneRecord) : (s.setLane n x).pending = s.pending := rfl
@[simp] theorem setLane_params (n : LaneNo) (x : LaneRecord) : (s.setLane n x).params = s.params := rfl
@[simp] theorem setLane_timer (n : LaneNo) (x : LaneRecord) : (s.setLane n x).timer = s.timer := rfl
@[simp] theorem setLane_lines (n : LaneNo) (x : LaneRecord) : (s.setLane n x).lines = s.lines := rfl
@[simp] theorem setLane_guardSeen (n : LaneNo) (x : LaneRecord) : (s.setLane n x).guardSeen = s.guardSeen := rfl
@[simp] theorem setLane_pins (n : LaneNo) (x : LaneRecord) : (s.setLane n x).pins = s.pins := rfl
@[simp] theorem setLane_accounts (n : LaneNo) (x : LaneRecord) : (s.setLane n x).accounts = s.accounts := rfl
@[simp] theorem setLane_rack (n : LaneNo) (x : LaneRecord) : (s.setLane n x).rack = { s.rack with lanes := s.rack.lanes.write n x } := rfl
@[simp] theorem setLane_sched (n : LaneNo) (x : LaneRecord) : (s.setLane n x).sched = s.sched := rfl
@[simp] theorem setLane_seq (n : LaneNo) (x : LaneRecord) : (s.setLane n x).seq = s.seq := rfl
@[simp] theorem setLane_bins (n : LaneNo) (x : LaneRecord) : (s.setLane n x).bins = s.bins := rfl
@[simp] theorem setLane_shuttle (n : LaneNo) (x : LaneRecord) : (s.setLane n x).shuttle = s.shuttle := rfl
@[simp] theorem setLane_ports (n : LaneNo) (x : LaneRecord) : (s.setLane n x).ports = s.ports := rfl
@[simp] theorem setLane_pointer (n : LaneNo) (x : LaneRecord) : (s.setLane n x).pointer = s.pointer := rfl
@[simp] theorem setLane_events (n : LaneNo) (x : LaneRecord) : (s.setLane n x).events = s.events := rfl
@[simp] theorem setLane_draws (n : LaneNo) (x : LaneRecord) : (s.setLane n x).draws = s.draws := rfl
@[simp] theorem setLane_now (n : LaneNo) (x : LaneRecord)  : (s.setLane n x).now = s.now := rfl
@[simp] theorem setLane_account (n : LaneNo) (x : LaneRecord) (i : Lathe) : (s.setLane n x).account i = s.account i := rfl
@[simp] theorem setLane_line (n : LaneNo) (x : LaneRecord) (i : Lathe) : (s.setLane n x).line i = s.line i := rfl
@[simp] theorem setLane_port (n : LaneNo) (x : LaneRecord) (i : PortNo) : (s.setLane n x).port i = s.port i := rfl
@[simp] theorem setLane_bin (n : LaneNo) (x : LaneRecord) (i : BinNo) : (s.setLane n x).bin i = s.bin i := rfl
@[simp] theorem setLane_compareOf (n : LaneNo) (x : LaneRecord) (i : Lathe) : (s.setLane n x).compareOf i = s.compareOf i := rfl
@[simp] theorem setLane_job (n : LaneNo) (x : LaneRecord) (i : Slot) : (s.setLane n x).job i = s.job i := rfl
@[simp] theorem setLane_lane_self (n : LaneNo) (x : LaneRecord) : (s.setLane n x).lane n = x := Bank.read_write_self _ _ _
theorem setLane_lane (n : LaneNo) (x : LaneRecord) (i : LaneNo) : (s.setLane n x).lane i = if n = i then x else s.lane i := Bank.read_write _ _ _ _
@[simp] theorem setLane_lane_ne (n : LaneNo) (x : LaneRecord) (i : LaneNo) (h : n ≠ i) : (s.setLane n x).lane i = s.lane i := Bank.read_write_ne _ _ _ _ h
@[simp] theorem setCompare_pending (n : Lathe) (x : Compare) : (s.setCompare n x).pending = s.pending := rfl
@[simp] theorem setCompare_params (n : Lathe) (x : Compare) : (s.setCompare n x).params = s.params := rfl
@[simp] theorem setCompare_timer (n : Lathe) (x : Compare) : (s.setCompare n x).timer = { s.timer with compare := s.timer.compare.write n x } := rfl
@[simp] theorem setCompare_lines (n : Lathe) (x : Compare) : (s.setCompare n x).lines = s.lines := rfl
@[simp] theorem setCompare_guardSeen (n : Lathe) (x : Compare) : (s.setCompare n x).guardSeen = s.guardSeen := rfl
@[simp] theorem setCompare_pins (n : Lathe) (x : Compare) : (s.setCompare n x).pins = s.pins := rfl
@[simp] theorem setCompare_accounts (n : Lathe) (x : Compare) : (s.setCompare n x).accounts = s.accounts := rfl
@[simp] theorem setCompare_rack (n : Lathe) (x : Compare) : (s.setCompare n x).rack = s.rack := rfl
@[simp] theorem setCompare_sched (n : Lathe) (x : Compare) : (s.setCompare n x).sched = s.sched := rfl
@[simp] theorem setCompare_seq (n : Lathe) (x : Compare) : (s.setCompare n x).seq = s.seq := rfl
@[simp] theorem setCompare_bins (n : Lathe) (x : Compare) : (s.setCompare n x).bins = s.bins := rfl
@[simp] theorem setCompare_shuttle (n : Lathe) (x : Compare) : (s.setCompare n x).shuttle = s.shuttle := rfl
@[simp] theorem setCompare_ports (n : Lathe) (x : Compare) : (s.setCompare n x).ports = s.ports := rfl
@[simp] theorem setCompare_pointer (n : Lathe) (x : Compare) : (s.setCompare n x).pointer = s.pointer := rfl
@[simp] theorem setCompare_events (n : Lathe) (x : Compare) : (s.setCompare n x).events = s.events := rfl
@[simp] theorem setCompare_draws (n : Lathe) (x : Compare) : (s.setCompare n x).draws = s.draws := rfl
@[simp] theorem setCompare_now (n : Lathe) (x : Compare)  : (s.setCompare n x).now = s.now := rfl
@[simp] theorem setCompare_account (n : Lathe) (x : Compare) (i : Lathe) : (s.setCompare n x).account i = s.account i := rfl
@[simp] theorem setCompare_line (n : Lathe) (x : Compare) (i : Lathe) : (s.setCompare n x).line i = s.line i := rfl
@[simp] theorem setCompare_port (n : Lathe) (x : Compare) (i : PortNo) : (s.setCompare n x).port i = s.port i := rfl
@[simp] theorem setCompare_bin (n : Lathe) (x : Compare) (i : BinNo) : (s.setCompare n x).bin i = s.bin i := rfl
@[simp] theorem setCompare_lane (n : Lathe) (x : Compare) (i : LaneNo) : (s.setCompare n x).lane i = s.lane i := rfl
@[simp] theorem setCompare_job (n : Lathe) (x : Compare) (i : Slot) : (s.setCompare n x).job i = s.job i := rfl
@[simp] theorem setCompare_compareOf_self (n : Lathe) (x : Compare) : (s.setCompare n x).compareOf n = x := Bank.read_write_self _ _ _
theorem setCompare_compareOf (n : Lathe) (x : Compare) (i : Lathe) : (s.setCompare n x).compareOf i = if n = i then x else s.compareOf i := Bank.read_write _ _ _ _
@[simp] theorem setCompare_compareOf_ne (n : Lathe) (x : Compare) (i : Lathe) (h : n ≠ i) : (s.setCompare n x).compareOf i = s.compareOf i := Bank.read_write_ne _ _ _ _ h
@[simp] theorem setSlot_pending (n : Slot) (x : Option Job) : (s.setSlot n x).pending = s.pending := rfl
@[simp] theorem setSlot_params (n : Slot) (x : Option Job) : (s.setSlot n x).params = s.params := rfl
@[simp] theorem setSlot_timer (n : Slot) (x : Option Job) : (s.setSlot n x).timer = s.timer := rfl
@[simp] theorem setSlot_lines (n : Slot) (x : Option Job) : (s.setSlot n x).lines = s.lines := rfl
@[simp] theorem setSlot_guardSeen (n : Slot) (x : Option Job) : (s.setSlot n x).guardSeen = s.guardSeen := rfl
@[simp] theorem setSlot_pins (n : Slot) (x : Option Job) : (s.setSlot n x).pins = s.pins := rfl
@[simp] theorem setSlot_accounts (n : Slot) (x : Option Job) : (s.setSlot n x).accounts = s.accounts := rfl
@[simp] theorem setSlot_rack (n : Slot) (x : Option Job) : (s.setSlot n x).rack = s.rack := rfl
@[simp] theorem setSlot_sched (n : Slot) (x : Option Job) : (s.setSlot n x).sched = { s.sched with slots := s.sched.slots.write n x } := rfl
@[simp] theorem setSlot_seq (n : Slot) (x : Option Job) : (s.setSlot n x).seq = s.seq := rfl
@[simp] theorem setSlot_bins (n : Slot) (x : Option Job) : (s.setSlot n x).bins = s.bins := rfl
@[simp] theorem setSlot_shuttle (n : Slot) (x : Option Job) : (s.setSlot n x).shuttle = s.shuttle := rfl
@[simp] theorem setSlot_ports (n : Slot) (x : Option Job) : (s.setSlot n x).ports = s.ports := rfl
@[simp] theorem setSlot_pointer (n : Slot) (x : Option Job) : (s.setSlot n x).pointer = s.pointer := rfl
@[simp] theorem setSlot_events (n : Slot) (x : Option Job) : (s.setSlot n x).events = s.events := rfl
@[simp] theorem setSlot_draws (n : Slot) (x : Option Job) : (s.setSlot n x).draws = s.draws := rfl
@[simp] theorem setSlot_now (n : Slot) (x : Option Job)  : (s.setSlot n x).now = s.now := rfl
@[simp] theorem setSlot_account (n : Slot) (x : Option Job) (i : Lathe) : (s.setSlot n x).account i = s.account i := rfl
@[simp] theorem setSlot_line (n : Slot) (x : Option Job) (i : Lathe) : (s.setSlot n x).line i = s.line i := rfl
@[simp] theorem setSlot_port (n : Slot) (x : Option Job) (i : PortNo) : (s.setSlot n x).port i = s.port i := rfl
@[simp] theorem setSlot_bin (n : Slot) (x : Option Job) (i : BinNo) : (s.setSlot n x).bin i = s.bin i := rfl
@[simp] theorem setSlot_lane (n : Slot) (x : Option Job) (i : LaneNo) : (s.setSlot n x).lane i = s.lane i := rfl
@[simp] theorem setSlot_compareOf (n : Slot) (x : Option Job) (i : Lathe) : (s.setSlot n x).compareOf i = s.compareOf i := rfl
@[simp] theorem setSlot_job_self (n : Slot) (x : Option Job) : (s.setSlot n x).job n = x := Bank.read_write_self _ _ _
theorem setSlot_job (n : Slot) (x : Option Job) (i : Slot) : (s.setSlot n x).job i = if n = i then x else s.job i := Bank.read_write _ _ _ _
@[simp] theorem setSlot_job_ne (n : Slot) (x : Option Job) (i : Slot) (h : n ≠ i) : (s.setSlot n x).job i = s.job i := Bank.read_write_ne _ _ _ _ h
@[simp] theorem setGuardWait_pending (x : Timer) : (s.setGuardWait x).pending = s.pending := rfl
@[simp] theorem setGuardWait_params (x : Timer) : (s.setGuardWait x).params = s.params := rfl
@[simp] theorem setGuardWait_timer (x : Timer) : (s.setGuardWait x).timer = { s.timer with guardWait := x } := rfl
@[simp] theorem setGuardWait_lines (x : Timer) : (s.setGuardWait x).lines = s.lines := rfl
@[simp] theorem setGuardWait_guardSeen (x : Timer) : (s.setGuardWait x).guardSeen = s.guardSeen := rfl
@[simp] theorem setGuardWait_pins (x : Timer) : (s.setGuardWait x).pins = s.pins := rfl
@[simp] theorem setGuardWait_accounts (x : Timer) : (s.setGuardWait x).accounts = s.accounts := rfl
@[simp] theorem setGuardWait_rack (x : Timer) : (s.setGuardWait x).rack = s.rack := rfl
@[simp] theorem setGuardWait_sched (x : Timer) : (s.setGuardWait x).sched = s.sched := rfl
@[simp] theorem setGuardWait_seq (x : Timer) : (s.setGuardWait x).seq = s.seq := rfl
@[simp] theorem setGuardWait_bins (x : Timer) : (s.setGuardWait x).bins = s.bins := rfl
@[simp] theorem setGuardWait_shuttle (x : Timer) : (s.setGuardWait x).shuttle = s.shuttle := rfl
@[simp] theorem setGuardWait_ports (x : Timer) : (s.setGuardWait x).ports = s.ports := rfl
@[simp] theorem setGuardWait_pointer (x : Timer) : (s.setGuardWait x).pointer = s.pointer := rfl
@[simp] theorem setGuardWait_events (x : Timer) : (s.setGuardWait x).events = s.events := rfl
@[simp] theorem setGuardWait_draws (x : Timer) : (s.setGuardWait x).draws = s.draws := rfl
@[simp] theorem setGuardWait_now (x : Timer)  : (s.setGuardWait x).now = s.now := rfl
@[simp] theorem setGuardWait_account (x : Timer) (i : Lathe) : (s.setGuardWait x).account i = s.account i := rfl
@[simp] theorem setGuardWait_line (x : Timer) (i : Lathe) : (s.setGuardWait x).line i = s.line i := rfl
@[simp] theorem setGuardWait_port (x : Timer) (i : PortNo) : (s.setGuardWait x).port i = s.port i := rfl
@[simp] theorem setGuardWait_bin (x : Timer) (i : BinNo) : (s.setGuardWait x).bin i = s.bin i := rfl
@[simp] theorem setGuardWait_lane (x : Timer) (i : LaneNo) : (s.setGuardWait x).lane i = s.lane i := rfl
@[simp] theorem setGuardWait_compareOf (x : Timer) (i : Lathe) : (s.setGuardWait x).compareOf i = s.compareOf i := rfl
@[simp] theorem setGuardWait_job (x : Timer) (i : Slot) : (s.setGuardWait x).job i = s.job i := rfl
@[simp] theorem setStepTimer_pending (x : Timer) : (s.setStepTimer x).pending = s.pending := rfl
@[simp] theorem setStepTimer_params (x : Timer) : (s.setStepTimer x).params = s.params := rfl
@[simp] theorem setStepTimer_timer (x : Timer) : (s.setStepTimer x).timer = { s.timer with stepTimer := x } := rfl
@[simp] theorem setStepTimer_lines (x : Timer) : (s.setStepTimer x).lines = s.lines := rfl
@[simp] theorem setStepTimer_guardSeen (x : Timer) : (s.setStepTimer x).guardSeen = s.guardSeen := rfl
@[simp] theorem setStepTimer_pins (x : Timer) : (s.setStepTimer x).pins = s.pins := rfl
@[simp] theorem setStepTimer_accounts (x : Timer) : (s.setStepTimer x).accounts = s.accounts := rfl
@[simp] theorem setStepTimer_rack (x : Timer) : (s.setStepTimer x).rack = s.rack := rfl
@[simp] theorem setStepTimer_sched (x : Timer) : (s.setStepTimer x).sched = s.sched := rfl
@[simp] theorem setStepTimer_seq (x : Timer) : (s.setStepTimer x).seq = s.seq := rfl
@[simp] theorem setStepTimer_bins (x : Timer) : (s.setStepTimer x).bins = s.bins := rfl
@[simp] theorem setStepTimer_shuttle (x : Timer) : (s.setStepTimer x).shuttle = s.shuttle := rfl
@[simp] theorem setStepTimer_ports (x : Timer) : (s.setStepTimer x).ports = s.ports := rfl
@[simp] theorem setStepTimer_pointer (x : Timer) : (s.setStepTimer x).pointer = s.pointer := rfl
@[simp] theorem setStepTimer_events (x : Timer) : (s.setStepTimer x).events = s.events := rfl
@[simp] theorem setStepTimer_draws (x : Timer) : (s.setStepTimer x).draws = s.draws := rfl
@[simp] theorem setStepTimer_now (x : Timer)  : (s.setStepTimer x).now = s.now := rfl
@[simp] theorem setStepTimer_account (x : Timer) (i : Lathe) : (s.setStepTimer x).account i = s.account i := rfl
@[simp] theorem setStepTimer_line (x : Timer) (i : Lathe) : (s.setStepTimer x).line i = s.line i := rfl
@[simp] theorem setStepTimer_port (x : Timer) (i : PortNo) : (s.setStepTimer x).port i = s.port i := rfl
@[simp] theorem setStepTimer_bin (x : Timer) (i : BinNo) : (s.setStepTimer x).bin i = s.bin i := rfl
@[simp] theorem setStepTimer_lane (x : Timer) (i : LaneNo) : (s.setStepTimer x).lane i = s.lane i := rfl
@[simp] theorem setStepTimer_compareOf (x : Timer) (i : Lathe) : (s.setStepTimer x).compareOf i = s.compareOf i := rfl
@[simp] theorem setStepTimer_job (x : Timer) (i : Slot) : (s.setStepTimer x).job i = s.job i := rfl

end State
end Machine
end Sys2Proof
end

