-- ==== Sys2Proof/Laws/Shared.lean ====
section
/-! SUPPORT. The small lemmas of the shared operations that post events, queue messages and evaluate hold reasons:
what each leaves in each field, and the one thing each does. -/
namespace Sys2Proof.Machine

open Sys2Proof

namespace State
variable (s : State)


/-! ### post -/

@[simp] theorem post_pending (e : EventRec) : (s.post e).pending = s.pending := by
  unfold State.post; split <;> rfl
@[simp] theorem post_params (e : EventRec) : (s.post e).params = s.params := by
  unfold State.post; split <;> rfl
@[simp] theorem post_timer (e : EventRec) : (s.post e).timer = s.timer := by
  unfold State.post; split <;> rfl
@[simp] theorem post_lines (e : EventRec) : (s.post e).lines = s.lines := by
  unfold State.post; split <;> rfl
@[simp] theorem post_guardSeen (e : EventRec) : (s.post e).guardSeen = s.guardSeen := by
  unfold State.post; split <;> rfl
@[simp] theorem post_pins (e : EventRec) : (s.post e).pins = s.pins := by
  unfold State.post; split <;> rfl
@[simp] theorem post_accounts (e : EventRec) : (s.post e).accounts = s.accounts := by
  unfold State.post; split <;> rfl
@[simp] theorem post_rack (e : EventRec) : (s.post e).rack = s.rack := by
  unfold State.post; split <;> rfl
@[simp] theorem post_sched (e : EventRec) : (s.post e).sched = s.sched := by
  unfold State.post; split <;> rfl
@[simp] theorem post_seq (e : EventRec) : (s.post e).seq = s.seq := by
  unfold State.post; split <;> rfl
@[simp] theorem post_bins (e : EventRec) : (s.post e).bins = s.bins := by
  unfold State.post; split <;> rfl
@[simp] theorem post_shuttle (e : EventRec) : (s.post e).shuttle = s.shuttle := by
  unfold State.post; split <;> rfl
@[simp] theorem post_ports (e : EventRec) : (s.post e).ports = s.ports := by
  unfold State.post; split <;> rfl
@[simp] theorem post_pointer (e : EventRec) : (s.post e).pointer = s.pointer := by
  unfold State.post; split <;> rfl
@[simp] theorem post_draws (e : EventRec) : (s.post e).draws = s.draws := by
  unfold State.post; split <;> rfl
@[simp] theorem post_now (e : EventRec)  : (s.post e).now = s.now := by
  unfold State.post; split <;> rfl
@[simp] theorem post_account (e : EventRec) (i : Lathe) : (s.post e).account i = s.account i := by
  unfold State.post; split <;> rfl
@[simp] theorem post_line (e : EventRec) (i : Lathe) : (s.post e).line i = s.line i := by
  unfold State.post; split <;> rfl
@[simp] theorem post_port (e : EventRec) (i : PortNo) : (s.post e).port i = s.port i := by
  unfold State.post; split <;> rfl
@[simp] theorem post_bin (e : EventRec) (i : BinNo) : (s.post e).bin i = s.bin i := by
  unfold State.post; split <;> rfl
@[simp] theorem post_lane (e : EventRec) (i : LaneNo) : (s.post e).lane i = s.lane i := by
  unfold State.post; split <;> rfl
@[simp] theorem post_compareOf (e : EventRec) (i : Lathe) : (s.post e).compareOf i = s.compareOf i := by
  unfold State.post; split <;> rfl
@[simp] theorem post_job (e : EventRec) (i : Slot) : (s.post e).job i = s.job i := by
  unfold State.post; split <;> rfl

/-- The one thing posting does (R192). -/
theorem post_events (e : EventRec) : (s.post e).events =
    if s.events.records.length < 64 then
      { s.events with
        records := s.events.records ++ [{ e with time := s.now }]
        attn := decide (s.params.attnLevel ≤ s.events.records.length + 1) }
    else { s.events with overflow := true } := by
  unfold State.post
  rw [show Config.eventPlaces = 64 from rfl]
  split
  · simp [attnFor]
  · rfl


/-! ### reply -/

@[simp] theorem reply_pending (p : PortNo) (m : Msg) : (s.reply p m).pending = s.pending := rfl
@[simp] theorem reply_params (p : PortNo) (m : Msg) : (s.reply p m).params = s.params := rfl
@[simp] theorem reply_timer (p : PortNo) (m : Msg) : (s.reply p m).timer = s.timer := rfl
@[simp] theorem reply_lines (p : PortNo) (m : Msg) : (s.reply p m).lines = s.lines := rfl
@[simp] theorem reply_guardSeen (p : PortNo) (m : Msg) : (s.reply p m).guardSeen = s.guardSeen := rfl
@[simp] theorem reply_pins (p : PortNo) (m : Msg) : (s.reply p m).pins = s.pins := rfl
@[simp] theorem reply_accounts (p : PortNo) (m : Msg) : (s.reply p m).accounts = s.accounts := rfl
@[simp] theorem reply_rack (p : PortNo) (m : Msg) : (s.reply p m).rack = s.rack := rfl
@[simp] theorem reply_sched (p : PortNo) (m : Msg) : (s.reply p m).sched = s.sched := rfl
@[simp] theorem reply_seq (p : PortNo) (m : Msg) : (s.reply p m).seq = s.seq := rfl
@[simp] theorem reply_bins (p : PortNo) (m : Msg) : (s.reply p m).bins = s.bins := rfl
@[simp] theorem reply_shuttle (p : PortNo) (m : Msg) : (s.reply p m).shuttle = s.shuttle := rfl
@[simp] theorem reply_pointer (p : PortNo) (m : Msg) : (s.reply p m).pointer = s.pointer := rfl
@[simp] theorem reply_events (p : PortNo) (m : Msg) : (s.reply p m).events = s.events := rfl
@[simp] theorem reply_draws (p : PortNo) (m : Msg) : (s.reply p m).draws = s.draws := rfl
@[simp] theorem reply_now (p : PortNo) (m : Msg)  : (s.reply p m).now = s.now := rfl
@[simp] theorem reply_account (p : PortNo) (m : Msg) (i : Lathe) : (s.reply p m).account i = s.account i := rfl
@[simp] theorem reply_line (p : PortNo) (m : Msg) (i : Lathe) : (s.reply p m).line i = s.line i := rfl
@[simp] theorem reply_bin (p : PortNo) (m : Msg) (i : BinNo) : (s.reply p m).bin i = s.bin i := rfl
@[simp] theorem reply_lane (p : PortNo) (m : Msg) (i : LaneNo) : (s.reply p m).lane i = s.lane i := rfl
@[simp] theorem reply_compareOf (p : PortNo) (m : Msg) (i : Lathe) : (s.reply p m).compareOf i = s.compareOf i := rfl
@[simp] theorem reply_job (p : PortNo) (m : Msg) (i : Slot) : (s.reply p m).job i = s.job i := rfl

/-- The one thing a reply does (R178). -/
theorem reply_port_self (p : PortNo) (m : Msg) :
    (s.reply p m).port p = { s.port p with queue := (s.port p).queue ++ [m] } := by simp [State.reply]
theorem reply_port_ne (p q : PortNo) (m : Msg) (h : p ≠ q) : (s.reply p m).port q = s.port q := by
  simp [State.reply, h]


/-! ### notice -/

@[simp] theorem notice_pending (n : Lathe) (m : Msg) : (s.notice n m).pending = s.pending := rfl
@[simp] theorem notice_params (n : Lathe) (m : Msg) : (s.notice n m).params = s.params := rfl
@[simp] theorem notice_timer (n : Lathe) (m : Msg) : (s.notice n m).timer = s.timer := rfl
@[simp] theorem notice_lines (n : Lathe) (m : Msg) : (s.notice n m).lines = s.lines := rfl
@[simp] theorem notice_guardSeen (n : Lathe) (m : Msg) : (s.notice n m).guardSeen = s.guardSeen := rfl
@[simp] theorem notice_pins (n : Lathe) (m : Msg) : (s.notice n m).pins = s.pins := rfl
@[simp] theorem notice_accounts (n : Lathe) (m : Msg) : (s.notice n m).accounts = s.accounts := rfl
@[simp] theorem notice_rack (n : Lathe) (m : Msg) : (s.notice n m).rack = s.rack := rfl
@[simp] theorem notice_sched (n : Lathe) (m : Msg) : (s.notice n m).sched = s.sched := rfl
@[simp] theorem notice_seq (n : Lathe) (m : Msg) : (s.notice n m).seq = s.seq := rfl
@[simp] theorem notice_bins (n : Lathe) (m : Msg) : (s.notice n m).bins = s.bins := rfl
@[simp] theorem notice_shuttle (n : Lathe) (m : Msg) : (s.notice n m).shuttle = s.shuttle := rfl
@[simp] theorem notice_pointer (n : Lathe) (m : Msg) : (s.notice n m).pointer = s.pointer := rfl
@[simp] theorem notice_events (n : Lathe) (m : Msg) : (s.notice n m).events = s.events := rfl
@[simp] theorem notice_draws (n : Lathe) (m : Msg) : (s.notice n m).draws = s.draws := rfl
@[simp] theorem notice_now (n : Lathe) (m : Msg)  : (s.notice n m).now = s.now := rfl
@[simp] theorem notice_account (n : Lathe) (m : Msg) (i : Lathe) : (s.notice n m).account i = s.account i := rfl
@[simp] theorem notice_line (n : Lathe) (m : Msg) (i : Lathe) : (s.notice n m).line i = s.line i := rfl
@[simp] theorem notice_bin (n : Lathe) (m : Msg) (i : BinNo) : (s.notice n m).bin i = s.bin i := rfl
@[simp] theorem notice_lane (n : Lathe) (m : Msg) (i : LaneNo) : (s.notice n m).lane i = s.lane i := rfl
@[simp] theorem notice_compareOf (n : Lathe) (m : Msg) (i : Lathe) : (s.notice n m).compareOf i = s.compareOf i := rfl
@[simp] theorem notice_job (n : Lathe) (m : Msg) (i : Slot) : (s.notice n m).job i = s.job i := rfl

/-- The one thing a notice does (R179). -/
theorem notice_port_self (n : Lathe) (m : Msg) : (s.notice n m).port (lathePort n) =
    { s.port (lathePort n) with
      queue := (s.port (lathePort n)).queue.filter (fun x => x.kind != m.kind) ++ [m] } := by simp [State.notice]
theorem notice_port_ne (n : Lathe) (q : PortNo) (m : Msg) (h : lathePort n ≠ q) : (s.notice n m).port q = s.port q := by
  simp [State.notice, h]


/-! ### evalHold -/

@[simp] theorem evalHold_pending (n : Lathe) : (s.evalHold n).pending = s.pending := by
  unfold State.evalHold; dsimp only; split <;> rfl
@[simp] theorem evalHold_params (n : Lathe) : (s.evalHold n).params = s.params := by
  unfold State.evalHold; dsimp only; split <;> rfl
@[simp] theorem evalHold_timer (n : Lathe) : (s.evalHold n).timer = s.timer := by
  unfold State.evalHold; dsimp only; split <;> rfl
@[simp] theorem evalHold_guardSeen (n : Lathe) : (s.evalHold n).guardSeen = s.guardSeen := by
  unfold State.evalHold; dsimp only; split <;> rfl
@[simp] theorem evalHold_pins (n : Lathe) : (s.evalHold n).pins = s.pins := by
  unfold State.evalHold; dsimp only; split <;> rfl
@[simp] theorem evalHold_rack (n : Lathe) : (s.evalHold n).rack = s.rack := by
  unfold State.evalHold; dsimp only; split <;> rfl
@[simp] theorem evalHold_sched (n : Lathe) : (s.evalHold n).sched = s.sched := by
  unfold State.evalHold; dsimp only; split <;> rfl
@[simp] theorem evalHold_seq (n : Lathe) : (s.evalHold n).seq = s.seq := by
  unfold State.evalHold; dsimp only; split <;> rfl
@[simp] theorem evalHold_bins (n : Lathe) : (s.evalHold n).bins = s.bins := by
  unfold State.evalHold; dsimp only; split <;> rfl
@[simp] theorem evalHold_shuttle (n : Lathe) : (s.evalHold n).shuttle = s.shuttle := by
  unfold State.evalHold; dsimp only; split <;> rfl
@[simp] theorem evalHold_pointer (n : Lathe) : (s.evalHold n).pointer = s.pointer := by
  unfold State.evalHold; dsimp only; split <;> rfl
@[simp] theorem evalHold_events (n : Lathe) : (s.evalHold n).events = s.events := by
  unfold State.evalHold; dsimp only; split <;> rfl
@[simp] theorem evalHold_draws (n : Lathe) : (s.evalHold n).draws = s.draws := by
  unfold State.evalHold; dsimp only; split <;> rfl
@[simp] theorem evalHold_now (n : Lathe)  : (s.evalHold n).now = s.now := by
  unfold State.evalHold; dsimp only; split <;> rfl
@[simp] theorem evalHold_bin (n : Lathe) (i : BinNo) : (s.evalHold n).bin i = s.bin i := by
  unfold State.evalHold; dsimp only; split <;> rfl
@[simp] theorem evalHold_lane (n : Lathe) (i : LaneNo) : (s.evalHold n).lane i = s.lane i := by
  unfold State.evalHold; dsimp only; split <;> rfl
@[simp] theorem evalHold_compareOf (n : Lathe) (i : Lathe) : (s.evalHold n).compareOf i = s.compareOf i := by
  unfold State.evalHold; dsimp only; split <;> rfl
@[simp] theorem evalHold_job (n : Lathe) (i : Slot) : (s.evalHold n).job i = s.job i := by
  unfold State.evalHold; dsimp only; split <;> rfl

/-- The evaluation leaves the set that the account's fields give (R23). -/
theorem evalHold_account_self (n : Lathe) :
    (s.evalHold n).account n = { s.account n with holdSet := (s.account n).reasons } := by
  unfold State.evalHold
  dsimp only
  split
  · rename_i h
    rw [h]
  · simp
theorem evalHold_account_ne (n m : Lathe) (h : n ≠ m) : (s.evalHold n).account m = s.account m := by
  unfold State.evalHold
  dsimp only
  split <;> simp [h]
/-- A set that differs commands the new level (R23). -/
theorem evalHold_line_self (n : Lathe) : (s.evalHold n).line n =
    if (s.account n).reasons = (s.account n).holdSet then s.line n
    else (s.line n).command (s.account n).reasons.nonempty := by
  unfold State.evalHold
  dsimp only
  split <;> simp
theorem evalHold_line_ne (n m : Lathe) (h : n ≠ m) : (s.evalHold n).line m = s.line m := by
  unfold State.evalHold
  dsimp only
  split <;> simp [h]
/-- A set that differs queues HOLD-CHANGE (R23). -/
theorem evalHold_port (n : Lathe) (p : PortNo) : (s.evalHold n).port p =
    if (s.account n).reasons = (s.account n).holdSet then s.port p
    else (s.notice n (holdChangeMsg (s.account n).reasons)).port p := by
  unfold State.evalHold
  dsimp only
  split
  · rfl
  · rfl

end State

/-- A line's command is the level given (R62). -/
@[simp] theorem Line.command_holdCmd (l : Line) (b : Bool) : (l.command b).holdCmd = b := by
  unfold Line.command
  split
  · assumption
  · rfl

/-! ### The bits of an exchange (R152) and predictions between recomputations (R39, R43, R44) -/

/-- The first word of an exchange is the command word. -/
@[simp] theorem exchangeBits_command (k : OrderKind) (target : Option Station) (sp : Speed) :
    (exchangeBits k target sp).extractLsb' 32 32 = commandWord k target sp := by
  apply BitVec.eq_of_getLsbD_eq; intro i hi
  have h := BitVec.getLsbD_append (x := commandWord k target sp) (y := 0#32) (i := 32 + i)
  exact (by simp [exchangeBits, hi] : _ = _).trans (h.trans (by simp))

/-- The second word of an exchange is the filler word of zeros. -/
@[simp] theorem exchangeBits_filler (k : OrderKind) (target : Option Station) (sp : Speed) :
    (exchangeBits k target sp).extractLsb' 0 32 = 0 := by
  apply BitVec.eq_of_getLsbD_eq; intro i hi
  have h := BitVec.getLsbD_append (x := commandWord k target sp) (y := 0#32) (i := i)
  exact (by simp [exchangeBits, hi] : _ = _).trans (h.trans (by simp [hi]))

/-- The status word is what SHIN shows at the last 32 clocks, whatever it showed before. -/
@[simp] theorem statusShifted_append (ignored w : Word) : statusShifted (ignored ++ w) = w := by
  apply BitVec.eq_of_getLsbD_eq; intro i hi
  have h := BitVec.getLsbD_append (x := ignored) (y := w) (i := i)
  exact (by simp [statusShifted, hi] : _ = _).trans (h.trans (by simp [hi]))

/-- Within the age limit of t_last a prediction is used as it stands. -/
theorem Account.useTime_young (a : Account) (now : Time) (held : Option Time) (count : Nat)
    (h : a.tLast.age < Config.horizon) : a.useTime now held count = held := by
  simp [Account.useTime, Nat.not_le.mpr h]

/-- Past the age limit of t_last a prediction that stands is formed from the aged t_last. -/
theorem Account.useTime_aged (a : Account) (now : Time) (held : Time) (count : Nat)
    (h : Config.horizon ≤ a.tLast.age) :
    a.useTime now (some held) count = some (predict (a.tLast.read now) count (a.cycle.getD 0)) := by
  simp [Account.useTime, h]

/-- No prediction stands, none is used. -/
@[simp] theorem Account.useTime_none (a : Account) (now : Time) (count : Nat) : a.useTime now none count = none := by
  simp [Account.useTime]

/-- The time that a use between recomputations finds is the one the statements name. -/
theorem Account.useTime_used (a : Account) (now held : Time) (count cycle : Nat) (h : a.cycle = some cycle) :
    a.useTime now (some held) count = some (a.used now held count cycle) := by
  unfold Account.useTime Account.used predict Stamp.read
  by_cases old : 1073741824 ≤ a.tLast.age <;> simp [h, Config.horizon, horizonBefore, old]

/-- The SHUTTLE reply as the model forms it carries the fields of R162 and R184. -/
theorem shuttleMsg_fields (s : State) : shuttleMsg s.shuttle (s.active.map fun a => a.2) = ⟨0x59, s.shuttleFields⟩ := by
  have st (o : Option Station) : [b1 (targetCode o).1, b1 (targetCode o).2] = stationBytes o := by
    rcases o with _ | (_ | _ | _ | _ | _) <;> rfl
  have od (k : OrderKind) : b1 k.code = orderByte k := by cases k <;> rfl
  have ld (l : Load) : b1 l.code = loadByte l := by cases l <;> rfl
  have ss (x : ShuttleState) : b1 x.code = shuttleStateByte x := by cases x <;> rfl
  have po (x : Position) : [b1 x.code.1, b1 x.code.2] = positionBytes x := by
    rcases x with (_ | _ | _ | _ | _) | _ | _ <;> rfl
  have pu (x : Purpose) : b1 x.code = purposeByte x := by cases x <;> rfl
  have fa (x : FaultCode) : b1 x.code = faultByte x := by cases x <;> rfl
  have sp (x : StepIx) : b1 x.code = stepByte x := by cases x <;> rfl
  have fl (a b c d : Bool) : flagByte [a, b, c, d] =
      BitVec.ofNat 8 (a.toNat + 2 * b.toNat + 4 * c.toNat + 8 * d.toNat) := by
    cases a <;> cases b <;> cases c <;> cases d <;> rfl
  unfold shuttleMsg State.shuttleFields
  rw [fl]
  cases s.shuttle.outstanding <;> cases s.shuttle.fault <;> cases s.active <;>
    simp [← st, ← po, ← od, ← ld, ← ss, ← pu, ← fa, ← sp, b1]

end Sys2Proof.Machine
end

