-- ==== Sys2Proof/Laws/Reach.lean ====
section
/-! SUPPORT. What the shared operations can do, said once. Each operation's lemma says that it is made of primitive
updates of a named kind; what every such update keeps, the operation keeps. -/
namespace Sys2Proof.Machine

open Sys2Proof
open Relation (ReflTransGen)

/-! ### Primitive updates -/

/-- Updates of the schedule's bookkeeping: no shuttle, no step record. -/
inductive PlanPrim : State → State → Prop
  | sched (s : State) (x : Schedule) : PlanPrim s (s.setSched x)
  | claim (s : State) (k : LaneNo) (c : Nat) : PlanPrim s (s.setLane k { s.lane k with claimed := c })
  | post (s : State) (e : EventRec) : PlanPrim s (s.post e)

/-- Updates that hand out the shuttle and issue orders. -/
inductive SchedPrim : State → State → Prop
  | plan {s t : State} (h : PlanPrim s t) : SchedPrim s t
  | seq (s : State) (x : StepRecord) : SchedPrim s (s.setSeq x)
  | shuttle (s : State) (x : Shuttle) : SchedPrim s (s.setShuttle x)
  | guardWait (s : State) (t : Timer) : SchedPrim s (s.setGuardWait t)
  | stepTimer (s : State) (t : Timer) : SchedPrim s (s.setStepTimer t)
  | inFlight (s : State) (b : BinNo) (v : Nat) (h : v ≤ (s.bin b).free) :
      SchedPrim s (s.setBin b { s.bin b with inFlight := v })

/-- What an update of an account by the account unit keeps. -/
structure AcctKeeps (a b : Account) : Prop where
  holdSet : b.holdSet = a.holdSet
  program : b.program = a.program
  supervisor : b.supervisor = a.supervisor
  noProg : b.state = .noProg ↔ a.state = .noProg
  load : a.loadOk → b.loadOk
  tray : a.tray ≤ 1023 → b.tray ≤ 1023

/-- Updates by the account unit for lathe `n`. -/
inductive AcctPrim (n : Lathe) : State → State → Prop
  | sched {s t : State} (h : SchedPrim s t) : AcctPrim n s t
  | account (s : State) (a : Account) (h : AcctKeeps (s.account n) a) : AcctPrim n s (s.setAccount n a)
  | compare (s : State) (c : Compare) : AcctPrim n s (s.setCompare n c)
  | notice (s : State) (m : Msg) (h : m.isNotice = true) : AcctPrim n s (s.notice n m)

abbrev PlanReach := ReflTransGen PlanPrim
abbrev SchedReach := ReflTransGen SchedPrim
abbrev AcctReach (n : Lathe) := ReflTransGen (AcctPrim n)

/-- Updates by the job sequencer: those of the schedule, those of an account followed by the evaluation of its hold
reason set, and those of the rack, the bins and the free values. -/
inductive JobPrim : State → State → Prop
  | sched {s t : State} (h : SchedPrim s t) : JobPrim s t
  | visit {s t : State} (n : Lathe) (h : AcctReach n s t) : JobPrim s (t.evalHold n)
  | stockShort (s : State) (n : Lathe) (v : Bool) : JobPrim s (s.setStockShort n v)
  | rack (s : State) (x : Rack) : JobPrim s (s.setRack x)
  | dumped (s : State) (b : BinNo) :
      JobPrim s (s.setBin b { s.bin b with count := (s.bin b).count + (s.bin b).inFlight, inFlight := 0 })
  | draws (s : State) (k : Nat) : JobPrim s (s.setDraws k)

abbrev JobReach := ReflTransGen JobPrim

theorem PlanReach.toSched {s t : State} (h : PlanReach s t) : SchedReach s t := by
  induction h with
  | refl => exact .refl
  | tail _ h ih => exact ih.tail (.plan h)
theorem SchedReach.toAcct {n : Lathe} {s t : State} (h : SchedReach s t) : AcctReach n s t := by
  induction h with
  | refl => exact .refl
  | tail _ h ih => exact ih.tail (.sched h)
theorem SchedReach.toJob {s t : State} (h : SchedReach s t) : JobReach s t := by
  induction h with
  | refl => exact .refl
  | tail _ h ih => exact ih.tail (.sched h)

section Plan
open Relation.ReflTransGen

theorem plan_sched (s : State) (x : Schedule) : PlanReach s (s.setSched x) := single (.sched s x)
theorem plan_post (s : State) (e : EventRec) : PlanReach s (s.post e) := single (.post s e)
theorem plan_slot (s : State) (i : Slot) (j : Option Job) : PlanReach s (s.setSlot i j) := plan_sched s _
theorem plan_updateJob (s : State) (i : Slot) (f : Job → Job) : PlanReach s (s.updateJob i f) := plan_slot s _ _
theorem plan_claim (s : State) (k : LaneNo) (c : Nat) : PlanReach s (s.setLane k { s.lane k with claimed := c }) :=
  single (.claim s k c)

theorem plan_takeClaim (s : State) (i : Slot) (k : LaneNo) : PlanReach s (s.takeClaim i k) :=
  (plan_claim s k _).trans (plan_updateJob _ i _)

theorem plan_enterNoStock (s : State) (i : Slot) : PlanReach s (s.enterNoStock i) := by
  unfold State.enterNoStock
  split
  · exact .refl
  · exact (plan_slot _ _ _).trans (plan_post _ _)

theorem plan_present (k : LaneNo) (fuel : Nat) (s : State) : PlanReach s (State.present k fuel s) := by
  induction fuel generalizing s with
  | zero => exact .refl
  | succ m ih =>
    unfold State.present
    split
    · split
      · exact (plan_takeClaim s _ k).trans (ih _)
      · exact .refl
    · exact .refl

theorem plan_stockGain (s : State) (k : LaneNo) : PlanReach s (s.stockGain k) := by
  unfold State.stockGain
  split
  · exact plan_present k 32 s
  · exact .refl

theorem plan_evalBinBlock (s : State) (i : Slot) : PlanReach s (s.evalBinBlock i) := by
  unfold State.evalBinBlock
  split
  · exact .refl
  · split
    · exact .refl
    · split
      · exact .refl
      · split
        · split
          · exact .refl
          · exact plan_slot _ _ _
        · split
          · exact .refl
          · exact plan_sched _ _
        · exact .refl

theorem plan_foldl {α : Type} (f : State → α → State) (h : ∀ s a, PlanReach s (f s a)) (l : List α) (s : State) :
    PlanReach s (l.foldl f s) := by
  induction l generalizing s with
  | nil => exact .refl
  | cons a l ih => exact (h s a).trans (ih _)

theorem plan_evalBins (s : State) (b : BinNo) : PlanReach s (s.evalBins b) := by
  refine plan_foldl _ (fun s i => ?_) _ _
  split
  · split
    · exact plan_evalBinBlock _ _
    · exact .refl
  · exact .refl

theorem plan_createIn (s : State) (i : Slot) (n : Lathe) (k : JobKind) : PlanReach s (s.createIn i n k) := by
  unfold State.createIn
  dsimp only
  split
  · exact .refl
  · split
    · split
      · exact (plan_sched s _).trans (plan_takeClaim _ _ _)
      · exact (plan_sched s _).trans (plan_enterNoStock _ _)
    · exact (plan_sched s _).trans (plan_evalBinBlock _ _)
    · exact plan_sched s _

theorem plan_defer (s : State) (n : Lathe) (k : JobKind) : PlanReach s (s.defer n k) := by
  unfold State.defer
  split
  · exact .refl
  · exact plan_sched s _

theorem plan_request (s : State) (n : Lathe) (k : JobKind) : PlanReach s (s.request n k) := by
  unfold State.request
  split
  · exact .refl
  · split
    · exact plan_defer s n k
    · split
      · exact plan_createIn s _ n k
      · exact plan_defer s n k

theorem plan_serveFrom (s : State) (l : List (Lathe × JobKind)) : PlanReach s (s.serveFrom l) := by
  induction l generalizing s with
  | nil => exact plan_sched s _
  | cons e rest ih =>
    unfold State.serveFrom
    split
    · split
      · exact (plan_sched s _).trans (plan_createIn _ _ _ _)
      · exact .refl
    · exact ih s

theorem plan_serveDeferred (s : State) : PlanReach s s.serveDeferred := plan_serveFrom s _

theorem plan_vacate (s : State) (i : Slot) : PlanReach s (s.vacate i) := plan_sched s _

theorem plan_releaseClaim (s : State) (j : Job) : PlanReach s (s.releaseClaim j) := by
  unfold State.releaseClaim
  split
  · exact plan_claim s _ _
  · exact .refl

theorem plan_gainOfRelease (s : State) (j : Job) : PlanReach s (s.gainOfRelease j) := by
  unfold State.gainOfRelease
  split
  · exact plan_stockGain s _
  · exact .refl

theorem plan_jobDone (s : State) (j : Job) : PlanReach s (s.jobDone j) := by
  unfold State.jobDone
  split
  · exact plan_post s _
  · exact plan_post s _
  · exact .refl

theorem plan_collectAgain (s : State) (n : Lathe) : PlanReach s (s.collectAgain n) := by
  unfold State.collectAgain
  split
  · split
    · exact plan_request s n _
    · exact .refl
  · exact .refl

theorem plan_suspend (s : State) (i : Slot) : PlanReach s (s.suspend i) := by
  unfold State.suspend
  split
  · exact .refl
  · rename_i j _
    have key : ∀ b : BlockReason, PlanReach s
        (if b = .none then
          s.setSched
            { s.sched with
              slots := s.sched.slots.write i (some { j with state := .suspended, step := .one, short := false })
              stack := i :: s.sched.stack }
        else s.setSlot i (some { j with state := .waiting, block := b, step := .one, short := false })) := fun b => by
      split
      · exact plan_sched s _
      · exact plan_slot s _ _
    exact key _

theorem plan_withdrawExcess (k : LaneNo) (fuel : Nat) (s : State) : PlanReach s (State.withdrawExcess k fuel s) := by
  induction fuel generalizing s with
  | zero => exact .refl
  | succ m ih =>
    unfold State.withdrawExcess
    split
    · split
      · exact (((plan_claim s k _).trans (plan_sched _ _)).trans (plan_enterNoStock _ _)).trans (ih _)
      · exact .refl
    · exact .refl

theorem plan_unpark (s : State) (n : Lathe) (i : Slot) : PlanReach s (s.unpark n i) := by
  unfold State.unpark
  split
  · split
    · exact (plan_slot s _ _).trans (plan_evalBinBlock _ _)
    · exact .refl
  · exact .refl

theorem plan_setDeadline (s : State) (i : Slot) (t : Time) : PlanReach s (s.setDeadline i t) := plan_updateJob s i _

theorem plan_rewriteDeliver (s : State) (n : Lathe) : PlanReach s (s.rewriteDeliver n) := by
  unfold State.rewriteDeliver
  split
  · exact plan_setDeadline s _ _
  · exact .refl

theorem plan_rewriteCollect (s : State) (n : Lathe) : PlanReach s (s.rewriteCollect n) := by
  unfold State.rewriteCollect
  split
  · exact plan_setDeadline s _ _
  · exact .refl

end Plan

section Sched
open Relation.ReflTransGen

theorem sched_seq (s : State) (x : StepRecord) : SchedReach s (s.setSeq x) := single (.seq s x)
theorem sched_shuttle (s : State) (x : Shuttle) : SchedReach s (s.setShuttle x) := single (.shuttle s x)
theorem sched_guardWait (s : State) (t : Timer) : SchedReach s (s.setGuardWait t) := single (.guardWait s t)
theorem sched_stepTimer (s : State) (t : Timer) : SchedReach s (s.setStepTimer t) := single (.stepTimer s t)

theorem sched_releaseShuttle (s : State) : SchedReach s s.releaseShuttle := by
  unfold State.releaseShuttle
  split
  · exact .refl
  · exact .refl
  · split <;> exact sched_shuttle s _

theorem sched_exchange (s : State) (k : OrderKind) : SchedReach s (s.exchange k) := sched_shuttle s _

theorem sched_issue (s : State) (k : OrderKind) (t : Option Station) (sp : Speed) (why : Purpose) :
    SchedReach s (s.issue k t sp why) := (sched_shuttle s _).trans (sched_stepTimer _ _)

theorem sched_enterWait (s : State) (ph : Phase) : SchedReach s (s.enterWait ph) :=
  (sched_seq s _).trans (sched_shuttle _ _)

theorem sched_beginStep (s : State) : SchedReach s s.beginStep := (sched_seq s _).trans (sched_shuttle _ _)

/-- A step's order issued, where a DUMP's bin has room for the parts. -/
theorem sched_issueStep (s : State) (j : Job) (o : Order)
    (h : ∀ b, o.kind = .dump → o.target = .bin b → j.parts ≤ (s.bin b).free) : SchedReach s (s.issueStep j o) := by
  have h1 : SchedReach s ((s.issue o.kind (some o.target) s.shuttle.load.speed .step).noteIssue j o) :=
    (sched_issue s _ _ _ _).trans (sched_seq _ _)
  refine .trans (h1.trans ?_) (sched_shuttle _ _)
  unfold State.holdInFlight
  split
  · rename_i b hk ht
    exact single (.inFlight _ b _ (h b hk ht))
  · exact .refl

theorem sched_checkAndIssue (s : State) : SchedReach s s.checkAndIssue := by
  unfold State.checkAndIssue
  split
  · exact .refl
  · split
    · exact .refl
    · split
      · exact ((sched_seq s _).trans (sched_guardWait _ _)).trans (sched_enterWait _ _)
      · split
        · split
          · refine sched_issueStep s _ _ fun b hk _ => ?_
            simp_all
          · exact (sched_enterWait s _).trans (plan_post _ _).toSched
        · split
          · rename_i b' hk' ht' hf
            refine sched_issueStep s _ _ fun b hk ht => ?_
            rw [ht'] at ht
            cases ht
            simp only [Bin.fits, Bool.and_eq_true, decide_eq_true_eq] at hf
            exact hf.2
          · exact (sched_enterWait s _).trans (plan_post _ _).toSched
        · rename_i hne
          exact sched_issueStep s _ _ fun b hk ht => absurd ht (hne b hk)

theorem sched_activate (s : State) (i : Slot) : SchedReach s (s.activate i) :=
  (plan_updateJob s i _).toSched.trans (sched_seq _ _)

theorem sched_startJob (s : State) (i : Slot) : SchedReach s (s.startJob i) :=
  ((sched_activate s i).trans (sched_beginStep _)).trans (sched_checkAndIssue _)

theorem sched_dispatch (s : State) : SchedReach s s.dispatch := by
  unfold State.dispatch
  split
  · split
    · exact (plan_sched s _).toSched.trans (sched_startJob _ _)
    · split
      · exact sched_startJob s _
      · exact .refl
  · exact .refl

theorem sched_stopJobTimers (s : State) : SchedReach s s.stopJobTimers := by
  unfold State.stopJobTimers
  dsimp only
  split
  · exact (sched_guardWait s _).trans (sched_stepTimer _ _)
  · exact sched_guardWait s _

theorem sched_clearParked (s : State) (n : Lathe) : SchedReach s (s.clearParked n) :=
  (plan_foldl _ (fun s i => plan_unpark s n i) _ s).toSched.trans (sched_dispatch _)

theorem sched_dropInFlight (s : State) (o : OutOrder) : SchedReach s (s.dropInFlight o) := by
  unfold State.dropInFlight
  split
  · exact single (.inFlight s _ 0 (Nat.zero_le _))
  · exact .refl

theorem sched_setLoad (s : State) (l : Load) : SchedReach s (s.setLoad l) := sched_shuttle s _

theorem sched_request_dispatch (s : State) (n : Lathe) (k : JobKind) : SchedReach s (s.request n k).dispatch :=
  (plan_request s n k).toSched.trans (sched_dispatch _)

theorem sched_checkThreshold (s : State) (n : Lathe) : SchedReach s (s.checkThreshold n) := by
  unfold State.checkThreshold
  split
  · split
    · exact sched_request_dispatch s n _
    · exact .refl
  · exact .refl

theorem sched_deliverOnFire (s : State) (n : Lathe) : SchedReach s (s.deliverOnFire n) := by
  unfold State.deliverOnFire
  split
  · exact .refl
  · exact sched_request_dispatch s n _

theorem sched_fireIf (s : State) (n : Lathe) (b : Bool) : SchedReach s (s.fireIf n b) := by
  unfold State.fireIf
  split
  · exact sched_deliverOnFire s n
  · exact .refl

theorem sched_wantBar (s : State) (n : Lathe) : SchedReach s (s.wantBar n) := by
  unfold State.wantBar
  split
  · exact (plan_setDeadline s _ _).toSched
  · split
    · exact .refl
    · exact sched_request_dispatch s n _

end Sched

end Sys2Proof.Machine
end

