-- ==== Sys2Proof/Laws/ReachJobs.lean ====
section
/-! SUPPORT. What the account unit's and the job sequencer's operations can do, said once. -/
namespace Sys2Proof.Machine

open Sys2Proof
open Relation (ReflTransGen)
open Relation.ReflTransGen (single)

/-- Reaching by a last stretch, the stretch before it given after it. -/
theorem last {r : State → State → Prop} {a b c : State} (h : ReflTransGen r b c) (h' : ReflTransGen r a b) :
    ReflTransGen r a c := h'.trans h

section Acct
variable {n : Lathe}

theorem acct_set (s : State) (a : Account) (h : AcctKeeps (s.account n) a) : AcctReach n s (s.setAccount n a) :=
  single (.account s a h)
theorem acct_compare (s : State) (c : Compare) : AcctReach n s (s.setCompare n c) := single (.compare s c)
theorem acct_notice (s : State) (m : Msg) (h : m.isNotice = true) : AcctReach n s (s.notice n m) :=
  single (.notice s m h)
theorem acct_post (s : State) (e : EventRec) : AcctReach n s (s.post e) := (plan_post s e).toSched.toAcct

theorem acct_settleCompare (s : State) : AcctReach n s (s.settleCompare n) := by
  unfold State.settleCompare
  split
  · exact .refl
  · exact acct_compare s _

theorem acct_writeCompare (s : State) : AcctReach n s (s.writeCompare n).1 := by
  unfold State.writeCompare
  dsimp only
  split
  · exact acct_compare s _
  · exact acct_settleCompare s

theorem acct_fireIf (s : State) (b : Bool) : AcctReach n s (s.fireIf n b) := (sched_fireIf s n b).toAcct

theorem acct_rearm (s : State) : AcctReach n s (s.rearm n) := (acct_writeCompare s).trans (acct_fireIf _ _)

theorem keeps_predicted (a : Account) (now : Time) : AcctKeeps a (a.predicted now) :=
  ⟨rfl, rfl, rfl, Iff.rfl, id, id⟩

theorem acct_recompute (s : State) : AcctReach n s (s.recompute n).1 :=
  ((acct_set s _ (keeps_predicted _ _)).trans (acct_writeCompare _)).trans
    (PlanReach.toSched ((plan_rewriteDeliver _ n).trans (plan_rewriteCollect _ n))).toAcct

theorem acct_recomputeAndFire (s : State) : AcctReach n s (s.recomputeAndFire n) :=
  (acct_recompute s).trans (acct_fireIf _ _)

/-- A state change outside NOPROG that leaves no load behind it. -/
theorem acct_goTo (s : State) (new : AcctState) (h : (s.account n).state ≠ .noProg) (h' : new ≠ .noProg)
    (hl : (s.account n).loadOk → new ≠ .loading →
      (s.account n).loadTimer = .stopped ∧ (s.account n).marked = false) :
    AcctReach n s (s.goTo n new) := by
  unfold State.goTo
  dsimp only
  split
  · exact .refl
  · refine last (acct_post _ _) (acct_set s _ ⟨rfl, rfl, rfl, by simp [h, h'], fun ho => ?_, id⟩)
    by_cases hn : new = .loading
    · exact ⟨fun _ => hn, fun _ => hn⟩
    · obtain ⟨h1, h2⟩ := hl ho hn
      exact ⟨fun k => absurd h1 k, fun k => by simp only [Account.marked] at h2 k; simp_all⟩

/-- Out of LOADING no load stands: the premise of `acct_goTo`. -/
theorem loadOk_rest {a : Account} (h : a.state ≠ .loading) (ho : a.loadOk) :
    a.loadTimer = .stopped ∧ a.marked = false :=
  ⟨by by_contra k; exact h (ho.1 k), by by_contra k; exact h (ho.2 (by simpa using k))⟩

theorem State.goTo_account_state (s : State) (n : Lathe) (new : AcctState) :
    ((s.goTo n new).account n).state = new := by
  unfold State.goTo
  dsimp only
  split
  · assumption
  · unfold State.post; split <;> simp

theorem acct_actOnCradle (s : State) (h : (s.account n).state ≠ .noProg) (hl : (s.account n).state ≠ .loading) :
    AcctReach n s (s.actOnCradle n) := by
  unfold State.actOnCradle
  split
  · split
    · exact acct_goTo s _ h (by decide) fun ho _ => loadOk_rest hl ho
    · have hs := s.goTo_account_state n .loading
      refine ((acct_goTo s _ h (by decide) fun _ k => absurd rfl k).trans (acct_set _ _ ?_)).trans
        (acct_notice _ _ rfl)
      exact ⟨rfl, rfl, rfl, Iff.rfl, fun _ => ⟨fun _ => hs, fun _ => hs⟩, id⟩
  · exact (acct_goTo s _ h (by decide) fun ho _ => loadOk_rest hl ho).trans (sched_wantBar _ n).toAcct

theorem acct_enterAwait (s : State) (h : (s.account n).state ≠ .noProg) (hl : (s.account n).state ≠ .loading) :
    AcctReach n s (s.enterAwait n) :=
  last (acct_actOnCradle _ (by simpa using h) (by simpa using hl)) (acct_set s _ ⟨rfl, rfl, rfl, Iff.rfl, id, id⟩)

theorem loadBar_cradle (a : Account) (now : Time) : (a.loadBar now).cradle = none := by
  unfold Account.loadBar
  split
  · assumption
  · rfl

theorem loadBar_keeps (a : Account) (now : Time) (t : Timer) (ht : t = .stopped) :
    AcctKeeps a { a.loadBar now with loadTimer := t } := by
  have hc := loadBar_cradle a now
  refine ⟨?_, ?_, ?_, ?_, fun _ => ⟨fun k => absurd ht k, fun k => ?_⟩, ?_⟩
  · unfold Account.loadBar; split <;> rfl
  · unfold Account.loadBar; split <;> rfl
  · unfold Account.loadBar; split <;> rfl
  · unfold Account.loadBar; split <;> rfl
  · simp only [Account.marked, hc] at k; exact absurd k (by decide)
  · unfold Account.loadBar; split <;> exact id

theorem loadBar_state (a : Account) (now : Time) : (a.loadBar now).state = a.state := by
  unfold Account.loadBar; split <;> rfl

theorem acct_countCut (a : Account) (g : Program) (c : CurrentBar) (t : Time) : AcctKeeps a (a.countCut g c t) :=
  ⟨rfl, rfl, rfl, Iff.rfl, id, id⟩

theorem acct_cutToBar (s : State) (g : Program) (c : CurrentBar) : AcctReach n s (s.cutToBar n g c) := by
  unfold State.cutToBar
  dsimp only
  split
  · refine last (acct_set _ _ ?_) (acct_post s _)
    rw [State.post_account]
    exact acct_countCut _ _ _ _
  · exact acct_set _ _ (acct_countCut _ _ _ _)

end Acct

section Job

theorem job_plan {s t : State} (h : PlanReach s t) : JobReach s t := h.toSched.toJob
theorem job_visit {s t : State} (n : Lathe) (h : AcctReach n s t) : JobReach s (t.evalHold n) := single (.visit n h)
theorem job_rack (s : State) (x : Rack) : JobReach s (s.setRack x) := single (.rack s x)
theorem job_lane (s : State) (k : LaneNo) (l : LaneRecord) : JobReach s (s.setLane k l) := job_rack s _
theorem job_dispatch (s : State) : JobReach s s.dispatch := (sched_dispatch s).toJob
theorem job_post (s : State) (e : EventRec) : JobReach s (s.post e) := job_plan (plan_post s e)
theorem job_slot (s : State) (i : Slot) (j : Option Job) : JobReach s (s.setSlot i j) := job_plan (plan_slot s i j)
theorem job_updateJob (s : State) (i : Slot) (f : Job → Job) : JobReach s (s.updateJob i f) :=
  job_plan (plan_updateJob s i f)
theorem job_seq (s : State) (x : StepRecord) : JobReach s (s.setSeq x) := (sched_seq s x).toJob
theorem job_shuttle (s : State) (x : Shuttle) : JobReach s (s.setShuttle x) := (sched_shuttle s x).toJob
theorem job_setLoad (s : State) (l : Load) : JobReach s (s.setLoad l) := job_shuttle s _
theorem job_stockShort (s : State) (n : Lathe) (v : Bool) : JobReach s (s.setStockShort n v) := single (.stockShort s n v)

theorem job_returnDeparted (s : State) (n : Lathe) : JobReach s (s.returnDeparted n) := by
  unfold State.returnDeparted
  split
  · rename_i h
    exact job_visit n (acct_actOnCradle s (by simp [h]) (by simp [h]))
  · exact .refl

theorem job_departed (s : State) (j : Job) : JobReach s (s.departed j) := by
  unfold State.departed
  split
  · exact job_returnDeparted s _
  · exact .refl

theorem job_cancelIdle (s : State) (i : Slot) : JobReach s (s.cancelIdle i) := by
  unfold State.cancelIdle
  split
  · exact .refl
  · exact ((((job_plan (((plan_releaseClaim s _).trans (plan_vacate _ i)).trans (plan_serveDeferred _))).trans
      (job_dispatch _)).trans (job_plan (plan_gainOfRelease _ _))).trans (job_dispatch _)).trans (job_departed _ _)

theorem job_removeActive (s : State) (i : Slot) : JobReach s (s.removeActive i) := by
  unfold State.removeActive
  split
  · exact .refl
  · exact ((((((((sched_stopJobTimers s).toJob.trans (job_plan (plan_releaseClaim _ _))).trans (job_seq _ _)).trans
      (sched_releaseShuttle _).toJob).trans (job_plan (plan_vacate _ i))).trans (job_plan (plan_serveDeferred _))).trans
      (job_plan (plan_gainOfRelease _ _))).trans (job_departed _ _)).trans (job_dispatch _)

theorem job_completeActive (s : State) (i : Slot) (e : Ending) : JobReach s (s.completeActive i e) := by
  unfold State.completeActive
  split
  · exact .refl
  · rename_i j _
    dsimp only
    have h1 := (((((job_plan (plan_jobDone s j)).trans (job_seq _ .clear)).trans (sched_releaseShuttle _).toJob).trans
      (job_plan (plan_vacate _ i))).trans (job_plan (plan_serveDeferred _)))
    cases e
    · exact h1.trans (job_dispatch _)
    · exact (h1.trans (job_plan (plan_collectAgain _ _))).trans (job_dispatch _)
    · exact (h1.trans (job_returnDeparted _ _)).trans (job_dispatch _)

theorem job_takeUp (s : State) : JobReach s s.takeUp := by
  unfold State.takeUp
  dsimp only
  split
  · exact (sched_beginStep s).toJob
  · split
    · exact (sched_beginStep s).toJob.trans (job_completeActive _ _ _)
    · exact (sched_beginStep s).toJob.trans (sched_checkAndIssue _).toJob

theorem job_crossBoundary (s : State) : JobReach s s.crossBoundary := by
  unfold State.crossBoundary
  split
  · exact .refl
  · split
    · split
      · exact (job_plan (plan_suspend s _)).trans (sched_startJob _ _).toJob
      · exact job_takeUp s
    · exact job_takeUp s

theorem job_goOn (s : State) : JobReach s s.goOn := by
  unfold State.goOn
  split
  · exact ((sched_beginStep s).toJob.trans (job_seq _ _)).trans (job_shuttle _ _)
  · exact job_crossBoundary s

theorem job_chooseDestination (s : State) (i : Slot) (b : BarRecord) : JobReach s (s.chooseDestination i b) := by
  unfold State.chooseDestination
  split
  · exact (job_lane s _ _).trans (job_updateJob _ i _)
  · exact job_updateJob s i _

theorem job_convertToReturn (s : State) (i : Slot) : JobReach s (s.convertToReturn i) := by
  unfold State.convertToReturn
  split
  · exact .refl
  · exact ((job_updateJob s i _).trans (job_chooseDestination _ i _)).trans (job_seq _ _)

theorem job_afterOutcome (s : State) (i : Slot) (next : StepIx) (picked : Bool) :
    JobReach s (s.afterOutcome i next picked) := by
  unfold State.afterOutcome
  dsimp only
  have h1 := job_updateJob s i fun j => { j with step := next }
  split
  · exact h1
  · split
    · exact h1.trans (job_goOn _)
    · split
      · exact h1.trans (job_removeActive _ i)
      · split
        · split
          · exact (h1.trans (job_convertToReturn _ i)).trans (job_goOn _)
          · exact (h1.trans (job_updateJob _ i _)).trans (job_goOn _)
        · exact h1.trans (job_goOn _)

theorem job_freezeStep (s : State) (o : OutOrder) : JobReach s (s.freezeStep o) := by
  unfold State.freezeStep
  dsimp only
  have h1 := (job_seq s { s.seq with phase := .unissued }).trans (sched_dropInFlight _ o).toJob
  split
  · split
    · exact h1.trans (job_removeActive _ _)
    · exact h1
  · exact h1

theorem job_declareFault (s : State) (c : FaultCode) (d : Byte) (o : OutOrder) : JobReach s (s.declareFault c d o) := by
  unfold State.declareFault
  dsimp only
  refine last (job_post _ _) ?_
  split
  · exact last (job_freezeStep _ o) (last (job_shuttle _ _) (sched_stepTimer s _).toJob)
  · exact last (job_shuttle _ _) (sched_stepTimer s _).toJob

theorem job_reclaim (s : State) (i : Slot) : JobReach s (s.reclaim i) := by
  unfold State.reclaim
  split
  · exact ((job_plan (plan_takeClaim s i _)).trans (job_updateJob _ i _)).trans (job_goOn _)
  · exact (((job_plan (plan_enterNoStock s i)).trans (job_seq _ _)).trans (sched_releaseShuttle _).toJob).trans
      (job_dispatch _)

theorem job_pickLaneBar (s : State) (i : Slot) (j : Job) (k : LaneNo) : JobReach s (s.pickLaneBar i j k) := by
  unfold State.pickLaneBar
  split
  · exact .refl
  · dsimp only
    refine last (job_afterOutcome _ i _ _) ?_
    split
    · exact last (job_post _ _) (last (job_slot _ i _) (last (job_setLoad _ _) (job_lane s k _)))
    · exact last (job_slot _ i _) (last (job_setLoad _ _) (job_lane s k _))

theorem job_pickLaneMissing (s : State) (i : Slot) (j : Job) (k : LaneNo) : JobReach s (s.pickLaneMissing i j k) := by
  unfold State.pickLaneMissing
  split
  · exact .refl
  · dsimp only
    split
    · exact last (job_reclaim _ i) (last (job_plan (plan_withdrawExcess k 32 _)) (last (job_slot _ i _)
        (last (job_lane _ k _) (last (job_post _ _) (last (job_setLoad _ _) (job_lane s k _))))))
    · exact last (job_removeActive _ i) (last (job_plan (plan_withdrawExcess k 32 _)) (last (job_slot _ i _)
        (last (job_lane _ k _) (last (job_post _ _) (last (job_setLoad _ _) (job_lane s k _))))))

theorem acct_stageCradle {n : Lathe} (s : State) (b : BarRecord) : AcctReach n s (s.stageCradle n b) := by
  unfold State.stageCradle
  dsimp only
  have h1 : AcctReach n s ((s.setAccount n { s.account n with cradle := some ⟨b, false⟩ }).notice n (stagedMsg b)) :=
    last (acct_notice _ _ rfl)
      (acct_set s _ ⟨rfl, rfl, rfl, Iff.rfl, fun ho => ⟨ho.1, fun k => Bool.noConfusion k⟩, id⟩)
  split
  · rename_i h
    exact h1.trans (acct_actOnCradle _ (by rw [h]; decide) (by rw [h]; decide))
  · exact h1.trans (acct_settleCompare _)

theorem job_placeLathe (s : State) (i : Slot) (j : Job) : JobReach s (s.placeLathe i j) := by
  unfold State.placeLathe
  split
  · exact .refl
  · exact (((job_setLoad s _).trans (job_slot _ i _)).trans (job_visit _ (acct_stageCradle _ _))).trans
      (job_completeActive _ i _)

theorem job_placeShort (s : State) (i : Slot) (j : Job) : JobReach s (s.placeShort i j) := by
  unfold State.placeShort
  dsimp only
  have h1 := ((job_setLoad s .none).trans (job_rack _ _)).trans
    (job_slot (s.setLoad .none).rejectBar i (some { j with bar := none, short := false }))
  split
  · exact (h1.trans (job_stockShort _ _ _)).trans (job_removeActive _ i)
  · split
    · exact h1.trans (job_reclaim _ i)
    · exact h1.trans (job_removeActive _ i)

theorem job_emptyParts (s : State) (i : Slot) (j : Job) : JobReach s (s.emptyParts i j) := by
  unfold State.emptyParts
  dsimp only
  refine last (job_afterOutcome _ i _ _) (last (job_visit j.lathe (last (acct_recomputeAndFire _)
    (acct_set _ _ ⟨rfl, rfl, rfl, Iff.rfl, id, fun h => le_trans (Nat.sub_le _ _) h⟩)))
    (last (job_slot _ i _) (job_setLoad s _)))

theorem job_emptyNothing (s : State) (i : Slot) (j : Job) : JobReach s (s.emptyNothing i j) := by
  unfold State.emptyNothing
  dsimp only
  exact last (job_completeActive _ i _) (last (job_visit _ (acct_recomputeAndFire _))
    (last (job_post _ _) (job_setLoad s _)))

theorem job_dumped (s : State) (b : BinNo) :
    JobReach s (s.setBin b { s.bin b with count := (s.bin b).count + (s.bin b).inFlight, inFlight := 0 }) :=
  single (.dumped s b)

theorem job_dumpDone (s : State) (i : Slot) (j : Job) (b : BinNo) : JobReach s (s.dumpDone i j b) := by
  unfold State.dumpDone
  dsimp only
  exact last (job_completeActive _ i _) (last (job_plan (plan_evalBins _ b)) (last (job_slot _ i _)
    (last (job_dumped (s.setLoad .none) b) (job_setLoad s _))))

theorem job_pickedRecord (s : State) (n : Lathe) : JobReach s (s.pickedRecord n).2 := by
  unfold State.pickedRecord
  split
  · exact .refl
  · exact single (.draws s _)

theorem acct_emptyCradle {n : Lathe} (s : State) : AcctReach n s (s.emptyCradle n) := by
  unfold State.emptyCradle
  dsimp only
  have h1 : AcctReach n s (s.setAccount n { s.account n with cradle := none }) :=
    acct_set s _ ⟨rfl, rfl, rfl, Iff.rfl, fun ho => ⟨ho.1, fun k => Bool.noConfusion k⟩, id⟩
  have h2 : AcctReach n s (if ((s.setAccount n { s.account n with cradle := none }).account n).wantsCompare
      then (s.setAccount n { s.account n with cradle := none }).rearm n
      else s.setAccount n { s.account n with cradle := none }) := by
    split
    · exact h1.trans (acct_rearm _)
    · exact h1
  by_cases h : ((if ((s.setAccount n { s.account n with cradle := none }).account n).wantsCompare
      then (s.setAccount n { s.account n with cradle := none }).rearm n
      else s.setAccount n { s.account n with cradle := none }).account n).state = .await
  · rw [if_pos h]; exact h2.trans (sched_wantBar _ n).toAcct
  · rw [if_neg h]; exact h2

theorem job_returnPickBar (s : State) (i : Slot) (j : Job) : JobReach s (s.returnPickBar i j) := by
  unfold State.returnPickBar
  dsimp only
  exact last (job_afterOutcome _ i _ _) (last (job_chooseDestination _ i _)
    (last (job_visit j.lathe (acct_emptyCradle _)) (last (job_slot _ i _) (last (job_setLoad _ _)
    (job_pickedRecord s j.lathe)))))

theorem job_returnPickMissing (s : State) (i : Slot) (j : Job) : JobReach s (s.returnPickMissing i j) := by
  unfold State.returnPickMissing
  dsimp only
  exact last (job_completeActive _ i _) (last (job_visit j.lathe (acct_emptyCradle _)) (last (job_post _ _)
    (last (job_setLoad _ _) (job_pickedRecord s j.lathe))))

theorem job_returnPlace (s : State) (i : Slot) (j : Job) : JobReach s (s.returnPlace i j) := by
  unfold State.returnPlace
  split
  · exact .refl
  · dsimp only
    split
    · exact ((((job_setLoad s _).trans (job_slot _ i _)).trans (job_lane _ _ _)).trans
        (job_plan (plan_stockGain _ _))).trans (job_completeActive _ i _)
    · exact (((job_setLoad s _).trans (job_slot _ i _)).trans (job_rack _ _)).trans (job_completeActive _ i _)

theorem job_takeOutcome (s : State) (i : Slot) (j : Job) (l : Load) : JobReach s (s.takeOutcome i j l) := by
  unfold State.takeOutcome
  split
  · split
    · split
      · exact job_pickLaneBar s i j _
      · exact job_pickLaneMissing s i j _
    · exact .refl
  · split
    · exact job_placeShort s i j
    · exact job_placeLathe s i j
  · split
    · exact job_emptyParts s i j
    · exact job_emptyNothing s i j
  · split
    · exact job_dumpDone s i j _
    · exact .refl
  · split
    · exact job_returnPickBar s i j
    · exact job_returnPickMissing s i j
  · exact job_returnPlace s i j
  · exact (job_setLoad s _).trans (job_afterOutcome _ i _ _)
  · exact (job_setLoad s _).trans (job_afterOutcome _ i _ _)

theorem job_stepOutcome (s : State) (o : OutOrder) (l : Load) : JobReach s (s.stepOutcome o l) := by
  unfold State.stepOutcome
  split
  · exact .refl
  · split
    · exact job_takeOutcome s _ _ l
    · exact job_declareFault s _ _ o

theorem job_noteStatus (s : State) (w : Word) : JobReach s (s.noteStatus w) := job_shuttle s _

theorem job_evaluatePoll (s : State) (w : Word) (o : OutOrder) : JobReach s (s.evaluatePoll w o) := by
  unfold State.evaluatePoll
  split
  · exact job_shuttle s _
  · dsimp only
    split
    · exact (job_noteStatus s w).trans (job_declareFault _ _ _ o)
    · split
      · exact (job_noteStatus s w).trans (job_declareFault _ _ _ o)
      · exact job_noteStatus s w

theorem job_poll (s : State) (w : Word) : JobReach s (s.poll w) := by
  unfold State.poll
  split
  · exact .refl
  · split
    · exact .refl
    · dsimp only
      split
      · exact (sched_exchange s _).toJob.trans (job_evaluatePoll _ w _)
      · exact (sched_exchange s _).toJob.trans (job_shuttle _ _)

theorem job_endOrder (s : State) (w : Word) : JobReach s (s.endOrder w) :=
  ((job_noteStatus s w).trans (sched_stepTimer _ _).toJob).trans (job_shuttle _ _)

theorem job_homeDone (s : State) (o : OutOrder) (l : Load) : JobReach s (s.homeDone o l) := by
  unfold State.homeDone
  split
  · split
    · exact job_shuttle s _
    · exact (job_shuttle s _).trans (job_dispatch _)
  · exact job_declareFault s _ _ o

theorem job_handOn (s : State) (o : OutOrder) (l : Load) : JobReach s (s.handOn o l) := by
  unfold State.handOn
  split
  · exact job_stepOutcome s o l
  · exact job_homeDone s o l
  · exact .refl

theorem job_afterClear (s : State) (sp : Speed) : JobReach s (s.afterClear sp) := by
  unfold State.afterClear
  split
  · exact (sched_issue s _ _ _ _).toJob.trans (job_shuttle _ _)
  · split
    · exact job_shuttle s _
    · split
      · exact job_takeUp s
      · exact (job_shuttle s _).trans (job_dispatch _)

theorem job_endGuardWait (s : State) (n : Lathe) : JobReach s (s.endGuardWait n) := by
  unfold State.endGuardWait
  split
  · split
    · exact (sched_guardWait s _).toJob.trans (job_takeUp _)
    · exact .refl
  · exact .refl

theorem job_guardChanged (s : State) (n : Lathe) (c : Bool) : JobReach s (s.guardChanged n c) := by
  have h1 : JobReach s (if s.params.guardReport.getLsbD n.val = true then
      s.post (event .guardChange (if c then 0 else 1) (lathe := some n)) else s) := by
    split
    · exact job_post s _
    · exact .refl
  unfold State.guardChanged
  dsimp only
  by_cases hc : c = true
  · rw [if_pos hc]
    exact (h1.trans (job_endGuardWait _ n)).trans (sched_clearParked _ n).toJob
  · rw [if_neg hc]
    exact h1

theorem job_parkActive (s : State) (i : Slot) (n : Lathe) : JobReach s (s.parkActive i n) := by
  unfold State.parkActive
  dsimp only
  have h1 := ((job_updateJob s i fun j => { j with state := .waiting, step := .one, block := .guardParked }).trans
    (job_seq _ .clear)).trans (sched_releaseShuttle _).toJob
  split
  · exact h1.trans (sched_clearParked _ n).toJob
  · exact h1.trans (job_dispatch _)

theorem job_guardOverdue (s : State) (j : Job) : JobReach s (s.guardOverdue j) :=
  ((job_seq s _).trans (job_post _ _)).trans (sched_guardWait _ _).toJob

theorem job_recheckDump (s : State) (b : BinNo) : JobReach s (s.recheckDump b) := by
  unfold State.recheckDump
  split
  · split
    · exact job_takeUp s
    · exact .refl
  · exact .refl

theorem job_endRejectWait (s : State) : JobReach s s.endRejectWait := by
  unfold State.endRejectWait
  split
  · exact job_takeUp s
  · exact .refl

theorem job_leaveHalt (s : State) : JobReach s s.leaveHalt := by
  unfold State.leaveHalt
  split
  · split
    · exact job_crossBoundary s
    · exact job_takeUp s
  · exact (job_shuttle s _).trans (job_dispatch _)

theorem job_haltWait (s : State) : JobReach s s.haltWait :=
  ((sched_guardWait s _).toJob.trans (job_seq _ _)).trans (job_shuttle _ _)

theorem job_cancelDeliver (s : State) (n : Lathe) (m : CancelMark) : JobReach s (s.cancelDeliver n m) := by
  unfold State.cancelDeliver
  split
  · exact .refl
  · split
    · exact .refl
    · split
      · split
        · split
          · exact job_slot s _ _
          · exact job_removeActive s _
        · split
          · exact job_slot s _ _
          · exact .refl
      · exact job_cancelIdle s _

end Job

end Sys2Proof.Machine
end

