-- ==== Sys2Proof/Laws/Keeps.lean ====
section
/-! SUPPORT. What every update of the account unit and of the job sequencer keeps: the fields they leave alone, and
each condition of Safety. -/
namespace Sys2Proof.Machine

open Sys2Proof
open Relation (ReflTransGen)

/-- A condition that one update keeps is kept by any run of such updates. -/
theorem keepsAll {r : State → State → Prop} {P : State → Prop} (h : ∀ s t, r s t → P s → P t) {s t : State}
    (hr : ReflTransGen r s t) (hs : P s) : P t := by
  induction hr with
  | refl => exact hs
  | tail _ ht ih => exact h _ _ ht ih

/-! ### Fields left alone -/

theorem Kept.refl (s : State) : Kept s s := ⟨rfl, rfl, rfl, rfl, rfl, rfl, rfl, rfl, rfl, rfl⟩
theorem Kept.trans {s t u : State} (h : Kept s t) (k : Kept t u) : Kept s u :=
  ⟨k.pending.trans h.pending, k.params.trans h.params, k.guardSeen.trans h.guardSeen, k.pins.trans h.pins,
    k.pointer.trans h.pointer, k.now.trans h.now, k.binary.trans h.binary, k.decimal.trans h.decimal,
    k.sel.trans h.sel, k.capture.trans h.capture⟩

theorem keptAll {r : State → State → Prop} (h : ∀ s t, r s t → Kept s t) {s t : State} (hr : ReflTransGen r s t) :
    Kept s t := by
  induction hr with
  | refl => exact .refl _
  | tail _ ht ih => exact ih.trans (h _ _ ht)

theorem kept_post (s : State) (e : EventRec) : Kept s (s.post e) := by constructor <;> simp
theorem kept_evalHold (s : State) (n : Lathe) : Kept s (s.evalHold n) := by constructor <;> simp

theorem PlanPrim.kept : ∀ {s t : State}, PlanPrim s t → Kept s t
  | _, _, .sched _ _ => by constructor <;> rfl
  | _, _, .claim _ _ _ => by constructor <;> rfl
  | _, _, .post s e => kept_post s e
theorem SchedPrim.kept : ∀ {s t : State}, SchedPrim s t → Kept s t
  | _, _, .plan h => h.kept
  | _, _, .seq _ _ => by constructor <;> rfl
  | _, _, .shuttle _ _ => by constructor <;> rfl
  | _, _, .guardWait _ _ => by constructor <;> rfl
  | _, _, .stepTimer _ _ => by constructor <;> rfl
  | _, _, .inFlight _ _ _ _ => by constructor <;> rfl
theorem AcctPrim.kept {n : Lathe} : ∀ {s t : State}, AcctPrim n s t → Kept s t
  | _, _, .sched h => h.kept
  | _, _, .account _ _ _ => by constructor <;> rfl
  | _, _, .compare _ _ => by constructor <;> rfl
  | _, _, .notice _ _ _ => by constructor <;> rfl
theorem AcctReach.kept {n : Lathe} {s t : State} (h : AcctReach n s t) : Kept s t := keptAll (fun _ _ => AcctPrim.kept) h
theorem JobPrim.kept : ∀ {s t : State}, JobPrim s t → Kept s t
  | _, _, .sched h => h.kept
  | _, _, .visit n h => h.kept.trans (kept_evalHold _ n)
  | _, _, .stockShort _ _ _ => by constructor <;> rfl
  | _, _, .rack _ _ => by constructor <;> rfl
  | _, _, .dumped _ _ => by constructor <;> rfl
  | _, _, .draws _ _ => by constructor <;> rfl
theorem JobReach.kept {s t : State} (h : JobReach s t) : Kept s t := keptAll (fun _ _ => JobPrim.kept) h

/-! ### The event queue -/

theorem eventsOk_post (s : State) (e : EventRec) (h : s.eventsOk) : (s.post e).eventsOk := by
  simp only [State.eventsOk, State.post_events, State.post_params] at *
  split
  · simp; omega
  · simpa using h

theorem PlanPrim.eventsOk : ∀ {s t : State}, PlanPrim s t → s.eventsOk → t.eventsOk
  | _, _, .sched _ _, h => h
  | _, _, .claim _ _ _, h => h
  | _, _, .post s e, h => eventsOk_post s e h
theorem SchedPrim.eventsOk : ∀ {s t : State}, SchedPrim s t → s.eventsOk → t.eventsOk
  | _, _, .plan p, h => p.eventsOk h
  | _, _, .seq _ _, h => h
  | _, _, .shuttle _ _, h => h
  | _, _, .guardWait _ _, h => h
  | _, _, .stepTimer _ _, h => h
  | _, _, .inFlight _ _ _ _, h => h
theorem AcctPrim.eventsOk {n : Lathe} : ∀ {s t : State}, AcctPrim n s t → s.eventsOk → t.eventsOk
  | _, _, .sched p, h => p.eventsOk h
  | _, _, .account _ _ _, h => h
  | _, _, .compare _ _, h => h
  | _, _, .notice _ _ _, h => h
theorem AcctReach.eventsOk {n : Lathe} {s t : State} (h : AcctReach n s t) (hs : s.eventsOk) : t.eventsOk :=
  keepsAll (r := AcctPrim n) (P := State.eventsOk) (fun _ _ => AcctPrim.eventsOk) h hs
theorem eventsOk_evalHold (s : State) (n : Lathe) (h : s.eventsOk) : (s.evalHold n).eventsOk := by
  simpa [State.eventsOk] using h
theorem JobPrim.eventsOk : ∀ {s t : State}, JobPrim s t → s.eventsOk → t.eventsOk
  | _, _, .sched p, h => p.eventsOk h
  | _, _, .visit n p, h => eventsOk_evalHold _ n (p.eventsOk h)
  | _, _, .stockShort _ _ _, h => h
  | _, _, .rack _ _, h => h
  | _, _, .dumped _ _, h => h
  | _, _, .draws _ _, h => h
theorem JobReach.eventsOk {s t : State} (h : JobReach s t) (hs : s.eventsOk) : t.eventsOk :=
  keepsAll (r := JobPrim) (P := State.eventsOk) (fun _ _ => JobPrim.eventsOk) h hs

/-! ### The bins -/

theorem binsOk_setBin (s : State) (b : BinNo) (x : Bin) (hx : x.ok) (h : s.binsOk) : (s.setBin b x).binsOk := by
  intro i
  rw [State.setBin_bin]
  split
  · exact hx
  · exact h i

theorem PlanPrim.bins : ∀ {s t : State}, PlanPrim s t → t.bins = s.bins
  | _, _, .sched _ _ => rfl
  | _, _, .claim _ _ _ => rfl
  | _, _, .post s e => s.post_bins e
theorem binsOk_congr {s t : State} (h : t.bins = s.bins) (hs : s.binsOk) : t.binsOk := by
  simpa [State.binsOk, State.bin, h] using hs
theorem SchedPrim.binsOk : ∀ {s t : State}, SchedPrim s t → s.binsOk → t.binsOk
  | _, _, .plan p, h => binsOk_congr p.bins h
  | _, _, .seq _ _, h => h
  | _, _, .shuttle _ _, h => h
  | _, _, .guardWait _ _, h => h
  | _, _, .stepTimer _ _, h => h
  | _, _, .inFlight s b v hv, h => by
    refine binsOk_setBin s b _ ?_ h
    have := h b
    simp only [Bin.ok, Bin.free] at *
    omega
theorem AcctPrim.binsOk {n : Lathe} : ∀ {s t : State}, AcctPrim n s t → s.binsOk → t.binsOk
  | _, _, .sched p, h => p.binsOk h
  | _, _, .account _ _ _, h => h
  | _, _, .compare _ _, h => h
  | _, _, .notice _ _ _, h => h
theorem AcctReach.binsOk {n : Lathe} {s t : State} (h : AcctReach n s t) (hs : s.binsOk) : t.binsOk :=
  keepsAll (r := AcctPrim n) (P := State.binsOk) (fun _ _ => AcctPrim.binsOk) h hs
theorem JobPrim.binsOk : ∀ {s t : State}, JobPrim s t → s.binsOk → t.binsOk
  | _, _, .sched p, h => p.binsOk h
  | _, _, .visit n p, h => binsOk_congr (State.evalHold_bins _ n) (p.binsOk h)
  | _, _, .stockShort _ _ _, h => h
  | _, _, .rack _ _, h => h
  | _, _, .dumped s b, h => by
    refine binsOk_setBin s b _ ?_ h
    have := h b
    simp only [Bin.ok] at *
    omega
  | _, _, .draws _ _, h => h
theorem JobReach.binsOk {s t : State} (h : JobReach s t) (hs : s.binsOk) : t.binsOk := keepsAll (r := JobPrim) (P := State.binsOk) (fun _ _ => JobPrim.binsOk) h hs

/-! ### Hold reasons and the HOLD line -/

/-- Between the evaluations of lathe `n`'s set: every other lathe's hold is as R22 gives, and the level commanded for
`n` is that of the set held. -/
def State.holdOkBut (s : State) (n : Lathe) : Prop :=
  (∀ m, m ≠ n → s.holdOkAt m) ∧ (s.line n).holdCmd = (s.account n).holdSet.nonempty

theorem State.holdOk.but {s : State} (h : s.holdOk) (n : Lathe) : s.holdOkBut n := ⟨fun m _ => h m, (h n).2⟩

theorem holdOkAt_congr {s t : State} {n : Lathe} (ha : t.account n = s.account n) (hl : t.line n = s.line n)
    (h : s.holdOkAt n) : t.holdOkAt n := by
  simpa [State.holdOkAt, ha, hl] using h

theorem holdOkBut_congr {s t : State} {n : Lathe} (ha : t.accounts = s.accounts) (hl : t.lines = s.lines)
    (h : s.holdOkBut n) : t.holdOkBut n := by
  simpa [State.holdOkBut, State.holdOkAt, State.account, State.line, ha, hl] using h

theorem holdOk_congr {s t : State} (ha : t.accounts = s.accounts) (hl : t.lines = s.lines) (h : s.holdOk) :
    t.holdOk := by
  simpa [State.holdOk, State.holdOkAt, State.account, State.line, ha, hl] using h

theorem PlanPrim.accounts : ∀ {s t : State}, PlanPrim s t → t.accounts = s.accounts
  | _, _, .sched _ _ => rfl
  | _, _, .claim _ _ _ => rfl
  | _, _, .post s e => s.post_accounts e
theorem PlanPrim.lines : ∀ {s t : State}, PlanPrim s t → t.lines = s.lines
  | _, _, .sched _ _ => rfl
  | _, _, .claim _ _ _ => rfl
  | _, _, .post s e => s.post_lines e
theorem SchedPrim.accounts : ∀ {s t : State}, SchedPrim s t → t.accounts = s.accounts
  | _, _, .plan p => p.accounts
  | _, _, .seq _ _ => rfl
  | _, _, .shuttle _ _ => rfl
  | _, _, .guardWait _ _ => rfl
  | _, _, .stepTimer _ _ => rfl
  | _, _, .inFlight _ _ _ _ => rfl
theorem SchedPrim.lines : ∀ {s t : State}, SchedPrim s t → t.lines = s.lines
  | _, _, .plan p => p.lines
  | _, _, .seq _ _ => rfl
  | _, _, .shuttle _ _ => rfl
  | _, _, .guardWait _ _ => rfl
  | _, _, .stepTimer _ _ => rfl
  | _, _, .inFlight _ _ _ _ => rfl

theorem AcctPrim.holdOkBut {n : Lathe} : ∀ {s t : State}, AcctPrim n s t → s.holdOkBut n → t.holdOkBut n
  | _, _, .sched p, h => holdOkBut_congr p.accounts p.lines h
  | _, _, .account s a k, h => by
    refine ⟨fun m hm => ?_, ?_⟩
    · exact holdOkAt_congr (s.setAccount_account_ne n a m hm.symm) rfl (h.1 m hm)
    · simp [k.holdSet, h.2]
  | _, _, .compare _ _, h => h
  | _, _, .notice _ _ _, h => h
theorem AcctReach.holdOkBut {n : Lathe} {s t : State} (h : AcctReach n s t) (hs : s.holdOkBut n) : t.holdOkBut n :=
  keepsAll (r := AcctPrim n) (P := fun s => s.holdOkBut n) (fun _ _ => AcctPrim.holdOkBut) h hs

/-- The evaluation of lathe `n`'s set restores the hold of every lathe. -/
theorem holdOk_evalHold (s : State) (n : Lathe) (h : s.holdOkBut n) : (s.evalHold n).holdOk := by
  intro m
  by_cases hm : m = n
  · subst hm
    refine ⟨?_, ?_⟩
    · rw [State.evalHold_account_self]; rfl
    · rw [State.evalHold_account_self, State.evalHold_line_self]
      split
      · rename_i heq
        rw [h.2, heq]
      · simp
  · exact holdOkAt_congr (s.evalHold_account_ne n m (Ne.symm hm)) (s.evalHold_line_ne n m (Ne.symm hm)) (h.1 m hm)

theorem JobPrim.holdOk : ∀ {s t : State}, JobPrim s t → s.holdOk → t.holdOk
  | _, _, .sched p, h => holdOk_congr p.accounts p.lines h
  | _, _, .visit n p, h => holdOk_evalHold _ n (p.holdOkBut (h.but n))
  | _, _, .stockShort s n v, h => fun m => by
    by_cases hm : n = m
    · subst hm
      have := h n
      simpa [State.holdOkAt, State.setStockShort, Account.reasons] using this
    · exact holdOkAt_congr (s := s) (by simp [State.setStockShort, hm]) rfl (h m)
  | _, _, .rack _ _, h => h
  | _, _, .dumped _ _, h => h
  | _, _, .draws _ _, h => h
theorem JobReach.holdOk {s t : State} (h : JobReach s t) (hs : s.holdOk) : t.holdOk := keepsAll (r := JobPrim) (P := State.holdOk) (fun _ _ => JobPrim.holdOk) h hs

/-! ### Accounts: load, program, tray -/

/-- A condition on one account that updates of the account unit keep. -/
theorem accounts_keep {P : Account → Prop} (hp : ∀ a b, AcctKeeps a b → P a → P b)
    (hh : ∀ a h, P a → P { a with holdSet := h }) (hq : ∀ a v, P a → P { a with stockShort := v }) {s t : State}
    (hj : JobReach s t) (hs : ∀ n, P (s.account n)) : ∀ n, P (t.account n) := by
  have ha : ∀ {n : Lathe} {s t : State}, AcctPrim n s t → (∀ m, P (s.account m)) → ∀ m, P (t.account m) := by
    intro n s t h hs m
    cases h with
    | sched p => simpa [State.account, p.accounts] using hs m
    | account a k =>
      rw [State.setAccount_account]
      split
      · exact hp _ _ k (hs n)
      · exact hs m
    | compare c => exact hs m
    | notice _ _ => exact hs m
  refine keepsAll (P := fun s => ∀ n, P (s.account n)) (fun s t h hs m => ?_) hj hs
  cases h with
  | sched p => simpa [State.account, p.accounts] using hs m
  | @visit t' n p =>
    have h1 := keepsAll (P := fun s => ∀ n, P (s.account n)) (fun _ _ => ha) p hs
    by_cases hm : n = m
    · subst hm
      rw [State.evalHold_account_self]
      exact hh _ _ (h1 n)
    · rw [State.evalHold_account_ne _ _ _ hm]
      exact h1 m
  | stockShort n v =>
    by_cases hm : n = m
    · subst hm
      simpa [State.setStockShort] using hq _ v (hs n)
    · simpa [State.setStockShort, hm] using hs m
  | rack x => exact hs m
  | dumped b => exact hs m
  | draws k => exact hs m

theorem JobReach.loadOk {s t : State} (h : JobReach s t) (hs : s.loadOk) : t.loadOk :=
  accounts_keep (P := Account.loadOk) (fun _ _ k => k.load) (fun _ _ h => h) (fun _ _ h => h) h hs
theorem JobReach.programOk {s t : State} (h : JobReach s t) (hs : s.programOk) : t.programOk :=
  accounts_keep (P := fun a => a.state = .noProg ↔ a.program = none)
    (fun a b k h => by rw [k.program]; exact k.noProg.trans h) (fun _ _ h => h) (fun _ _ h => h) h hs
theorem JobReach.trayOk {s t : State} (h : JobReach s t) (hs : ∀ n, (s.account n).tray ≤ 1023) :
    ∀ n, (t.account n).tray ≤ 1023 :=
  accounts_keep (P := fun a => a.tray ≤ 1023) (fun _ _ k => k.tray) (fun _ _ h => h) (fun _ _ h => h) h hs

/-! ### Lines and ports -/

theorem Line.ok_command {l : Line} (b : Bool) (h : l.ok) : (l.command b).ok := by
  unfold Line.command
  split
  · exact h
  · exact ⟨h.1, h.2.1, Nat.zero_le _, Nat.zero_le _⟩

theorem linesOk_evalHold (s : State) (n : Lathe) (h : ∀ m, (s.line m).ok) : ∀ m, ((s.evalHold n).line m).ok := by
  intro m
  by_cases hm : n = m
  · subst hm
    rw [State.evalHold_line_self]
    split
    · exact h n
    · exact Line.ok_command _ (h n)
  · rw [State.evalHold_line_ne _ _ _ hm]
    exact h m

theorem AcctReach.lines {n : Lathe} {s t : State} (h : AcctReach n s t) : t.lines = s.lines := by
  induction h with
  | refl => rfl
  | tail _ ht ih =>
    rw [← ih]
    cases ht with
    | sched p => exact p.lines
    | account a k => rfl
    | compare c => rfl
    | notice m k => rfl

theorem JobReach.linesOk {s t : State} (h : JobReach s t) (hs : ∀ m, (s.line m).ok) : ∀ m, (t.line m).ok := by
  refine keepsAll (r := JobPrim) (P := fun s => ∀ m, (s.line m).ok) (fun s t h hs => ?_) h hs
  cases h with
  | sched p => simpa [State.line, p.lines] using hs
  | visit n p => exact linesOk_evalHold _ n (by simpa [State.line, p.lines] using hs)
  | stockShort n v => exact hs
  | rack x => exact hs
  | dumped b => exact hs
  | draws k => exact hs

/-- A port's queue split into its replies and its notices. -/
theorem Port.queue_split (q : Port) :
    q.queue.length = (q.queue.filter fun m => !m.isNotice).length + q.notices.length := by
  simp only [Port.notices]
  induction q.queue with
  | nil => rfl
  | cons m l ih => by_cases h : m.isNotice = true <;> simp [h, ih] <;> omega

/-- At most three notices wait in a queue that holds no two of one kind (R179). -/
theorem Port.notices_le {q : Port} (h : (q.notices.map (·.kind)).Nodup) : q.notices.length ≤ 3 := by
  have hsub : q.notices.map (·.kind) ⊆ [0x44, 0x45, 0x46] := by
    intro k hk
    obtain ⟨m, hm, rfl⟩ := List.mem_map.1 hk
    have := (List.mem_filter.1 hm).2
    simp only [Msg.isNotice, Bool.or_eq_true, beq_iff_eq] at this
    simp
    tauto
  simpa using (h.subperm hsub).length_le

/-- The first two conditions of a port's queue give the third. -/
theorem Port.ok_of {q : Port} (h1 : q.replies ≤ 1) (h2 : (q.notices.map (·.kind)).Nodup) : q.ok := by
  refine ⟨h1, h2, ?_⟩
  have := q.queue_split
  have := Port.notices_le h2
  have : (q.queue.filter fun m => !m.isNotice).length ≤ q.replies := Nat.le_add_right _ _
  omega

/-- A notice that joins a port's queue, replacing the one of its kind. -/
theorem Port.ok_notice {q : Port} (m : Msg) (hm : m.isNotice = true) (h : q.ok) :
    Port.ok { q with queue := q.queue.filter (fun x => x.kind != m.kind) ++ [m] } := by
  refine Port.ok_of ?_ ?_
  · have : ((q.queue.filter fun x => x.kind != m.kind).filter fun x => !x.isNotice).length ≤
        (q.queue.filter fun x => !x.isNotice).length := by
      rw [List.filter_filter]
      refine List.Sublist.length_le (List.monotone_filter_right _ fun x hx => ?_)
      simp only [Bool.and_eq_true] at hx
      exact hx.1
    have h1 := h.1
    simp only [Port.replies, List.filter_append, List.filter_cons, hm] at h1 ⊢
    simp only [Bool.not_true, Bool.false_eq_true, if_false, List.filter_nil, List.append_nil]
    omega
  · have h2 := h.2.1
    simp only [Port.notices, List.filter_append, List.filter_cons, hm, if_true, List.filter_nil, List.map_append,
      List.map_cons, List.map_nil]
    refine List.Nodup.append ?_ (by simp) ?_
    · rw [List.filter_filter]
      refine List.Nodup.sublist (List.Sublist.map _ (List.monotone_filter_right _ fun x hx => ?_)) h2
      simp only [Bool.and_eq_true] at hx
      exact hx.1
    · intro k hk hk'
      obtain ⟨x, hx, rfl⟩ := List.mem_map.1 hk
      have := (List.mem_filter.1 (List.mem_filter.1 hx).1).2
      simp at hk' this
      exact this hk'

theorem PlanPrim.ports : ∀ {s t : State}, PlanPrim s t → t.ports = s.ports
  | _, _, .sched _ _ => rfl
  | _, _, .claim _ _ _ => rfl
  | _, _, .post s e => s.post_ports e
theorem SchedPrim.ports : ∀ {s t : State}, SchedPrim s t → t.ports = s.ports
  | _, _, .plan p => p.ports
  | _, _, .seq _ _ => rfl
  | _, _, .shuttle _ _ => rfl
  | _, _, .guardWait _ _ => rfl
  | _, _, .stepTimer _ _ => rfl
  | _, _, .inFlight _ _ _ _ => rfl

theorem lathePort_ne (n : Lathe) : lathePort n ≠ supervisorPort := by
  intro h
  have := congrArg Fin.val h
  simp only [lathePort, supervisorPort] at this
  omega

theorem portsOk_notice (s : State) (n : Lathe) (m : Msg) (hm : m.isNotice = true) (h : s.portsOk) :
    (s.notice n m).portsOk := by
  refine ⟨fun p => ?_, ?_⟩
  · by_cases hp : lathePort n = p
    · subst hp
      rw [State.notice_port_self]
      exact Port.ok_notice m hm (h.1 _)
    · rw [State.notice_port_ne _ _ _ _ hp]
      exact h.1 p
  · rw [State.notice_port_ne _ _ _ _ (lathePort_ne n)]
    exact h.2

theorem portsOk_congr {s t : State} (hp : t.ports = s.ports) (h : s.portsOk) : t.portsOk := by
  simpa [State.portsOk, State.port, hp] using h

theorem portsOk_evalHold (s : State) (n : Lathe) (h : s.portsOk) : (s.evalHold n).portsOk := by
  have hn := portsOk_notice s n (holdChangeMsg (s.account n).reasons) rfl h
  simp only [State.portsOk, State.evalHold_port] at *
  split
  · exact h
  · exact hn

theorem AcctPrim.portsOk {n : Lathe} : ∀ {s t : State}, AcctPrim n s t → s.portsOk → t.portsOk
  | _, _, .sched p, h => portsOk_congr p.ports h
  | _, _, .account _ _ _, h => h
  | _, _, .compare _ _, h => h
  | _, _, .notice s m k, h => portsOk_notice s n m k h
theorem AcctReach.portsOk {n : Lathe} {s t : State} (h : AcctReach n s t) (hs : s.portsOk) : t.portsOk :=
  keepsAll (r := AcctPrim n) (P := State.portsOk) (fun _ _ => AcctPrim.portsOk) h hs
theorem JobPrim.portsOk : ∀ {s t : State}, JobPrim s t → s.portsOk → t.portsOk
  | _, _, .sched p, h => portsOk_congr p.ports h
  | _, _, .visit n p, h => portsOk_evalHold _ n (p.portsOk h)
  | _, _, .stockShort _ _ _, h => h
  | _, _, .rack _ _, h => h
  | _, _, .dumped _ _, h => h
  | _, _, .draws _ _, h => h
theorem JobReach.portsOk {s t : State} (h : JobReach s t) (hs : s.portsOk) : t.portsOk :=
  keepsAll (r := JobPrim) (P := State.portsOk) (fun _ _ => JobPrim.portsOk) h hs

/-- Notices leave all of a port but its queue. -/
theorem notice_port_counts (s : State) (n : Lathe) (m : Msg) (p : PortNo) :
    ((s.notice n m).port p).counts = (s.port p).counts := by
  by_cases hp : lathePort n = p
  · subst hp
    rw [State.notice_port_self]
  · rw [State.notice_port_ne _ _ _ _ hp]

theorem AcctReach.counts {n : Lathe} {s t : State} (h : AcctReach n s t) (p : PortNo) :
    (t.port p).counts = (s.port p).counts := by
  induction h with
  | refl => rfl
  | tail _ ht ih =>
    rw [← ih]
    cases ht with
    | sched q => simp [State.port, q.ports]
    | account a k => rfl
    | compare c => rfl
    | notice m k => exact notice_port_counts _ n m p

theorem JobReach.counts {s t : State} (h : JobReach s t) (p : PortNo) : (t.port p).counts = (s.port p).counts := by
  induction h with
  | refl => rfl
  | tail _ ht ih =>
    rw [← ih]
    cases ht with
    | sched q => simp [State.port, q.ports]
    | visit n q =>
      rw [State.evalHold_port]
      split
      · exact q.counts p
      · rw [notice_port_counts, q.counts p]
    | stockShort n v => rfl
    | rack x => rfl
    | dumped b => rfl
    | draws k => rfl

/-! ### The compare tests of a tick (R59) -/

theorem PlanPrim.compareOf : ∀ {s t : State}, PlanPrim s t → ∀ n, t.compareOf n = s.compareOf n
  | _, _, .sched _ _, _ => rfl
  | _, _, .claim _ _ _, _ => rfl
  | _, _, .post s e, n => s.post_compareOf e n
theorem SchedPrim.compareOf : ∀ {s t : State}, SchedPrim s t → ∀ n, t.compareOf n = s.compareOf n
  | _, _, .plan p, n => p.compareOf n
  | _, _, .seq _ _, _ => rfl
  | _, _, .shuttle _ _, _ => rfl
  | _, _, .guardWait _ _, _ => rfl
  | _, _, .stepTimer _ _, _ => rfl
  | _, _, .inFlight _ _ _ _, _ => rfl

/-- All that a compare's test can do: nothing, or mark it spent and ask for a DELIVER job. -/
theorem State.testCompare_cases (s : State) (n : Lathe) :
    s.testCompare n = s ∨
      ((s.compareOf n).armed = true ∧ (s.compareOf n).spent = false ∧
        atOrBefore (s.compareOf n).value s.now = true ∧
        s.testCompare n = (s.setCompare n { s.compareOf n with spent := true }).deliverOnFire n) := by
  unfold State.testCompare
  cases h1 : (s.compareOf n).armed <;> cases h2 : (s.compareOf n).spent <;>
    cases h3 : atOrBefore (s.compareOf n).value s.now <;> simp [h1, h2, h3]

/-- A compare that does not fire is left as it stands. -/
theorem State.testCompare_quiet (s : State) (n : Lathe)
    (h : ¬((s.compareOf n).armed = true ∧ (s.compareOf n).spent = false ∧
      atOrBefore (s.compareOf n).value s.now = true)) : s.testCompare n = s :=
  (s.testCompare_cases n).resolve_right fun k => h ⟨k.1, k.2.1, k.2.2.1⟩

/-- A compare's test is made of updates of its account. -/
theorem acct_testCompare (s : State) (n : Lathe) : AcctReach n s (s.testCompare n) := by
  rcases s.testCompare_cases n with h | ⟨-, -, -, h⟩ <;> rw [h]
  exact (ReflTransGen.single (.compare s _)).trans
    ((sched_deliverOnFire _ n).lift id fun _ _ p => AcctPrim.sched p)

/-- A compare's test changes no account. -/
theorem State.testCompare_accounts (s : State) (n : Lathe) : (s.testCompare n).accounts = s.accounts := by
  rcases s.testCompare_cases n with h | ⟨-, -, -, h⟩ <;> rw [h]
  exact keepsAll (P := fun t => t.accounts = s.accounts) (fun _ _ p k => p.accounts.trans k) (sched_deliverOnFire _ n) rfl

/-- A compare's test changes no port. -/
theorem State.testCompare_ports (s : State) (n : Lathe) : (s.testCompare n).ports = s.ports := by
  rcases s.testCompare_cases n with h | ⟨-, -, -, h⟩ <;> rw [h]
  exact keepsAll (P := fun t => t.ports = s.ports) (fun _ _ p k => p.ports.trans k) (sched_deliverOnFire _ n) rfl

/-- The compare tested is spent where it fires, and no other changes. -/
theorem State.testCompare_compareOf (s : State) (n m : Lathe) :
    (s.testCompare n).compareOf m =
      if n = m then
        { s.compareOf m with
          spent := (s.compareOf m).spent || ((s.compareOf m).armed && atOrBefore (s.compareOf m).value s.now) }
      else s.compareOf m := by
  by_cases k : (s.compareOf n).armed = true ∧ (s.compareOf n).spent = false ∧
      atOrBefore (s.compareOf n).value s.now = true
  · have step : (s.testCompare n).compareOf m = (s.setCompare n { s.compareOf n with spent := true }).compareOf m := by
      have e : s.testCompare n = (s.setCompare n { s.compareOf n with spent := true }).deliverOnFire n := by
        simp [State.testCompare, k]
      rw [e]
      exact keepsAll (P := fun t => t.compareOf m = _) (fun _ _ p q => (p.compareOf m).trans q)
        (sched_deliverOnFire _ n) rfl
    rw [step, State.setCompare_compareOf]
    split
    · next e => subst e; simp [k]
    · rfl
  · rw [s.testCompare_quiet n k]
    split
    · next e =>
      subst e
      generalize s.compareOf n = c at k ⊢
      rcases c with ⟨_ | _, v, _ | _⟩ <;> simp_all
    · rfl

/-- What the test of each compare keeps, a tick's tests keep. -/
theorem State.testCompares_keep {P : State → Prop} (h : ∀ s n, P s → P (s.testCompare n)) {s : State} (hs : P s) :
    P s.testCompares := by
  unfold State.testCompares
  generalize allLathes = l
  induction l generalizing s with
  | nil => exact hs
  | cons n l ih => exact ih (h s n hs)

/-- The rows of all compares, run in turn, are a tick's tests. -/
theorem State.compareRows_eq (u : State) : u.compareRows = .next u.testCompares := by
  unfold State.compareRows State.testCompares allLathes
  generalize List.finRange 12 = l
  induction l generalizing u with
  | nil => rfl
  | cons n l ih => exact ih (u.testCompare n)

end Sys2Proof.Machine
end

