-- ==== Sys2Proof/Laws/Links.lean ====
section
/-! SUPPORT. The small lemmas of characters, and what hearing a candidate character leaves of a port. -/
namespace Sys2Proof

/-! ### Bits and samples -/

@[simp] theorem majority_eq_isHigh : ∀ x : Samples, majority x = isHigh x := by decide
@[simp] theorem isHigh_steady (b : Bool) : isHigh (steady b) = b := by cases b <;> decide
@[simp] theorem disagree_steady (b : Bool) : disagree (steady b) = false := by cases b <;> decide

/-- A bit of a byte put together from bits, each set where its own condition holds. -/
theorem foldl_twoPow_getLsbD (v : Fin 8 → Bool) (l : List (Fin 8)) (x : Byte) (i : Fin 8) :
    (l.foldl (fun (x : Byte) j => if v j then x ||| BitVec.twoPow 8 j.val else x) x).getLsbD i.val =
      (x.getLsbD i.val || (v i && decide (i ∈ l))) := by
  induction l generalizing x with
  | nil => simp
  | cons j l ih =>
    rw [List.foldl_cons, ih]
    by_cases h : i = j
    · subst h; cases v i <;> simp
    · have : i.val ≠ j.val := fun e => h (Fin.ext e)
      cases v j <;> simp [h, this]

/-- Bit `i` of the byte is what the samples of data bit `i` decide to. -/
theorem RxChar.byte_getLsbD (c : RxChar) (i : Fin 8) : c.byte.getLsbD i.val = isHigh (c.data.read i) := by
  rw [RxChar.byte, foldl_twoPow_getLsbD (fun i => majority (c.data.read i))]
  simp

/-- The noise mark is set where a bit that stands at the setting has samples that differ. -/
theorem RxChar.noise_eq_noisy (c : RxChar) (parity : Bool) : c.noise parity = c.noisy parity := by
  have all : ∀ f : Samples → Bool,
      c.data.toList.any f = (List.finRange 8).any fun i => f (c.data.read i) := by
    intro f
    have : c.data.toList = (List.finRange 8).map c.data.read := by
      apply List.ext_getElem <;> simp [Bank.read]
    rw [this, List.any_map]
    rfl
  simp only [RxChar.noisy, RxChar.bits, List.any_append, all]
  cases parity <;> simp [RxChar.noise, disagree, Bool.or_assoc]

/-- A start bit that decides high is a false start, and one that decides low with a low stop bit a framing error. -/
theorem RxChar.received_of_start (c : RxChar) (parity : Bool) (h : isHigh c.start = true) :
    c.received parity = .falseStart := by
  simp [RxChar.received, h]
theorem RxChar.received_of_stop (c : RxChar) (parity : Bool) (h : isHigh c.start = false)
    (h' : isHigh c.stop = false) : c.received parity = .error .framing := by
  simp [RxChar.received, h, h']

end Sys2Proof

namespace Sys2Proof.Machine

open Sys2Proof

/-! ### Hearing a character -/

theorem Port.looks_iff_listens (q : Port) (c : RxChar) : q.looks c = true ↔ q.listens c := by
  simp [Port.looks, Port.listens]

/-- Hearing a candidate character leaves the port as it is, or takes the character and then looks for a start bit at
once but after a framing error. -/
theorem Port.hear_cases (q : Port) (p : PortNo) (c : RxChar) (named : Received → Bool) :
    q.hear p c named = q ∨
      (q.listens c ∧ named (c.received q.setting.parity) = true ∧
        q.hear p c named =
          { q.take p (c.noise q.setting.parity) (c.received q.setting.parity) with
            seenHigh := c.received q.setting.parity != .error .framing }) := by
  unfold Port.hear
  simp only
  split
  · rename_i h
    simp only [Bool.and_eq_true] at h
    exact .inr ⟨(q.looks_iff_listens c).1 h.1, h.2, rfl⟩
  · exact .inl rfl

/-- Hearing a candidate character leaves the sending side and the settings of the port. -/
theorem Port.hear_sending_side (q : Port) (p : PortNo) (c : RxChar) (named : Received → Bool) :
    let t := q.hear p c named
    t.setting = q.setting ∧ t.txSetting = q.txSetting ∧ t.newSetting = q.newSetting ∧ t.queue = q.queue ∧
      t.tx = q.tx ∧ t.breakMark = q.breakMark ∧ t.breaking = q.breaking := by
  rcases q.hear_cases p c named with h | ⟨-, -, h⟩ <;> rw [h]
  · simp
  · generalize c.received q.setting.parity = r
    cases r <;> simp only [Port.take, Port.noise, Port.head, Port.truncate, Port.bad, Port.data, Port.join, Port.offer,
      Port.errorChar] <;> repeat' split
    all_goals simp

end Sys2Proof.Machine
end

