-- ==== Sys2Proof/Tests/Slice0.lean ====
section
/-! SUPPORT. Tests of single commands on small states, with results taken from the spec's worked examples and tables,
and a witness for the hypotheses of every statement that has some. -/
namespace Sys2Proof.Tests

open Sys2Proof Sys2Proof.Machine

set_option Elab.async false

/-! ### Small states -/

/-- The outcome is a next state that satisfies `f`. -/
def after (o : Host.Outcome State Fault Refusal) (f : State → Bool) : Bool :=
  match o with
  | .next t => f t
  | _ => false

/-- What holds of the job in every slot holds of every job. -/
theorem all_jobs {s : State} {P : Slot → Job → Prop} [∀ i j, Decidable (P i j)]
    (h : ∀ i, (s.job i).all (fun j => decide (P i j)) = true) : ∀ i j, s.job i = some j → P i j := by
  intro i j hj
  have := h i
  simpa [hj] using this

/-- The program of the worked bar (2.8), material 14, class 5, output bin 3. -/
def prog : Program := ⟨14, 5, 480, 30, 20, 800, 120, 100, 3, 420, .rising⟩
/-- A bar of that material whose home is lane 6. -/
def bar (id length : Nat) : BarRecord := ⟨id, length, 7, 6, 14, 5, false⟩
/-- A bar in the spindle with this remaining length. -/
def spindle (remaining : Nat) : CurrentBar := ⟨902, 30000, 7, remaining, 3, false⟩

/-- An account with the program installed, its hold reason set evaluated. -/
def acct (st : AcctState) (cur : Option CurrentBar) (cradle : Option CradleBar) : Account :=
  let a : Account :=
    { Account.powerOn with
      state := st, program := some prog, current := cur, cradle := cradle, cycle := some 4200
      partsLeft := cur.map fun c => prog.partsLeft c.remaining, tOut := cur.map fun _ => 5000
      tFull := some 9000 }
  { a with holdSet := a.reasons }

/-- Lathe `n` with this account, the GUARD inputs seen, and its line's HOLD as R22 gives. -/
def withAcct (s : State) (n : Lathe) (a : Account) : State :=
  ((s.setGuardSeen true).setAccount n a).setLine n { s.line n with holdCmd := a.holdSet.nonempty }
/-- The part from reset with this account of lathe 2. -/
def lathe2 (st : AcctState) (cur : Option CurrentBar := none) (cradle : Option CradleBar := none) : State :=
  withAcct State.reset 2 (acct st cur cradle)
/-- The hall time set. -/
def at_ (s : State) (t : Time) : State := s.setTimer { s.timer with time := t }
/-- The GUARD of every lathe closed. -/
def closed (s : State) : State := s.setLines (s.lines.each fun l => { l with guardClosed := true })
/-- The shuttle in this state with this load. -/
def shuttle (s : State) (st : ShuttleState) (l : Load := .none) : State :=
  s.setShuttle { s.shuttle with state := st, load := l }
/-- Lane `k` set up for the program's material, with these bars. -/
def withLane (s : State) (k : LaneNo) (bars : List BarRecord) : State :=
  s.setLane k { s.lane k with material := 14, diameter := 5, bars := bars }
/-- `count` records in the event queue. -/
def events (s : State) (count : Nat) : State :=
  s.setEvents ⟨List.replicate count ⟨.strayCut, 0, some 2, none, none, none, 0⟩, false, decide (1 ≤ count)⟩

/-- DELIVER job 90 of lathe 2 with a claim on lane 6. -/
def deliver : Job :=
  ⟨90, .deliver, 2, some 6, true, none, .waiting, .none, 5000, 100, .one, false, none, 0, 0, .none⟩
/-- COLLECT job 52 of lathe 2 for bin 3. -/
def collect : Job :=
  ⟨52, .collect, 2, none, false, some 3, .waiting, .none, 9000, 100, .one, false, none, 0, 0, .none⟩
/-- RETURN job 77 of lathe 2, with its bar bound for lane 6. -/
def returning : Job :=
  ⟨77, .ret, 2, some 6, false, none, .waiting, .none, 6000, 100, .four, false, some (bar 841 30000), 0, 0, .none⟩

/-- The job ACTIVE in slot 31 with this phase of its step. -/
def active (s : State) (j : Job) (ph : Phase) : State :=
  (s.setSlot 31 (some { j with state := .active })).setSeq ⟨some 31, ph, j.order, 0, 0, false⟩
/-- An order outstanding, with the word held for its end if one is. -/
def ordered (s : State) (o : OutOrder) (w : Option Word) : State :=
  s.setShuttle { s.shuttle with outstanding := some o, heldWord := w, lastTarget := o.target }
/-- The ACTIVE job's own order outstanding, STEPPING with this load, ended by the word `w`. -/
def ending (s : State) (j : Job) (k : OrderKind) (target : Station) (l : Load) (w : Word) : State :=
  ordered (shuttle (active s j .outstanding) .stepping l) ⟨k, some target, l.speed, .step⟩ (some w)

/-- DONE, station kind, index, load sensed and echo of a status word, bits 31–30, 29–27, 26–22, 21–20, 19–16
(R152). -/
def done (kind index load echo : Nat) : Word :=
  BitVec.ofNat 32 (2 * 2 ^ 30 + kind * 2 ^ 27 + index * 2 ^ 22 + load * 2 ^ 20 + echo * 2 ^ 16)

/-- The fields of the worked bar's SETUP (2.8). -/
def setupMsg (remaining : Option (BitVec 16)) : SetupMsg :=
  ⟨if remaining.isSome then 1 else 0, 14, 5, 480, 30, 20, 800, 120, 100, 3, 420, remaining⟩

/-- A port with this receive state. -/
def receiving (s : State) (p : PortNo) (r : Receive) : State := s.setPort p { s.port p with rx := r }
/-- A character as an undisturbed line brings it at a parity setting. -/
def char (parity mark : Bool) (b : Byte) : RxChar := RxChar.ofBits (charBits parity mark b)

/-! ### Commands that are not well formed, and table words -/

/-- LP12 sends no restart break (R183). -/
theorem test_wf_restart_break_send : (Instr.restartBreakSend 12).wellFormed = false := by decide
theorem test_wf_restart_break_end : (Instr.restartBreakEnd 12).wellFormed = false := by decide
theorem test_wf_restart_break_lathe : (Instr.restartBreakSend 11).wellFormed = true := by decide
/-- No row of the table gives bits. -/
theorem test_no_table_word : decodeTableWord 8 0 = none := by decide
theorem test_fetch_word_leaves_queue : (State.reset.withFetchWord 8 0).pending = [] := by decide +kernel

/-! ### Messages and drive words, written out from the spec's layouts -/

/-- STATUS is 26 03 D7 (R173). -/
theorem test_status_bytes : Request.status.bytes = [0x26, 0x03, 0xD7] := by decide
/-- 26 03 D7 spells STATUS. -/
theorem test_status_parse : parseRequest [0x26, 0x03, 0xD7] = some .status := by decide
/-- STOCK of lane 6, L 30000 = 7530h, lot 7: 69h, LEN 8, lane, length, lot, CHECK (R184). -/
theorem test_stock_parse :
    parseRequest [0x69, 0x08, 0x06, 0x75, 0x30, 0x00, 0x07, 0xDD] = some (.stock 6 30000 7) := by decide
/-- A LEN that does not match the kind spells no request (R178). -/
theorem test_short_stock_parse : parseRequest [0x69, 0x07, 0x06, 0x75, 0x30, 0x00, 0xE5] = none := by decide
/-- MOVE LANE 6 fast is 2h, 1, 6, 0: 22600000h (R152). -/
theorem test_move_word : commandWord .move (some (.lane 6)) .fast = 0x22600000 := by decide
/-- PLACE REJECT slow is 4h, 4, 0, 2: 48080000h (R152). -/
theorem test_place_word : commandWord .place (some .reject) .slow = 0x48080000 := by decide
/-- An exchange of MOVE LANE 6 at FAST: SHSEL asserted low at each of the 64 clocks, the command word's most significant
bit first and the filler word of zeros last; the status word is what SHIN shows at the last 32 clocks (R152). -/
theorem test_exchange_levels :
    (exchangeLevels (exchangeBits .move (some (.lane 6)) .fast)).map (·.2) =
        ([false, false, true, false, false, false, true, false, false, true, true, false] ++
          List.replicate 52 false) ∧
      (exchangeLevels (exchangeBits .poll none .fast)).all (fun x => x.1 == false) = true ∧ shselReleased = true ∧
      statusShifted 0xFFFFFFFF80000001 = 0x80000001 := by
  decide
/-- DONE, LATHE 2, BAR, echo MOVE is 10 010 00010 01 0010: 90920000h (R152). -/
theorem test_done_word :
    matchesOrder 0x90920000 ⟨.move, some (.lathe 2), .slow, .step⟩ = true ∧ sensedLoad 0x90920000 = .bar := by decide
/-- All ones is no answer, and a lathe index of 12 garbled (R154). -/
theorem test_no_answer : answered 0xFFFFFFFF = false ∧ answered (done 2 12 0 2) = false := by decide

/-! ### The worked bar (2.8), its tray and its end (2.9) -/

/-- LOADED at 1,000,000. -/
def loadingBar : State :=
  at_ (withAcct State.reset 2 { acct .loading none (some ⟨bar 841 30000, true⟩) with tray := 97 }) 1000000
theorem test_loaded_predictions :
    after (exec (.loaded 2) loadingBar) (fun t =>
      let a := t.account 2
      a.partsLeft == some 57 && a.tOut == some 1239400 && a.tFull == some 1096600 &&
        t.compareOf 2 == ⟨true, 1179400, false⟩ && a.current == some ⟨841, 30000, 7, 29980, 0, false⟩) = true := by
  decide +kernel

/-- Lathe 2 after the second cut, with this hall time and what stood then. -/
def cutting (now tLast : Time) (c tray remaining : Nat) : State :=
  at_ (withAcct State.reset 2
    { acct .running (some (spindle remaining)) none with
      cycle := some c, tray := tray, tLast := ⟨tLast, 0⟩, sampleValid := true }) now
/-- Cut 3: C 4213 to 4186, R 28450, parts left 54, and COLLECT created, due at 1,096,270. -/
theorem test_cut_smooths :
    after (exec (.cutEdge 2 .rising) (cutting 1012550 1008550 4213 99 28960)) (fun t =>
      let a := t.account 2
      a.cycle == some 4186 && a.partsLeft == some 54 && a.tOut == some 1238594 && a.tFull == some 1096270 &&
        (t.job 0).any (fun j => j.kind == .collect && j.bin == some 3 && j.deadline == 1096270)) = true := by
  decide +kernel
/-- Cut 4: a sample of 27,450 above 4 × 4186 is held out. -/
theorem test_cut_held_out :
    after (exec (.cutEdge 2 .rising) (cutting 1040000 1012550 4186 100 28450)) (fun t =>
      let a := t.account 2
      a.cycle == some 4186 && a.partsLeft == some 53 && a.tOut == some 1261858 && a.tray == 101) = true := by
  decide +kernel
/-- 2.9, cut C: R 800 to 290 with parts left already 0 raises BAR_OVERRUN. -/
theorem test_cut_overruns :
    after (exec (.cutEdge 2 .rising) (cutting 1012550 1008550 4213 50 800)) (fun t =>
      (t.account 2).current.any (fun c => c.remaining == 290 && c.overrun) &&
        t.events.records.any (fun e => e.kind == .barOverrun)) = true := by
  decide +kernel
/-- 2.9: READY with R 1310 and parts left 1 is EARLY_BAR_END, remnant 1310, predicted 800. -/
theorem test_ready_early_end :
    after (exec (.ready 2) (lathe2 .running (some (spindle 1310)))) (fun t =>
      t.events.records.head?.any (fun e => e.kind == .earlyBarEnd && e.value == halves 1310 800)) = true := by
  decide +kernel
/-- 2.8: EMPTY with T_issue 101 of 101 parts, T_full 1,542,320. -/
theorem test_empty_takes_tray :
    after (exec .orderComplete
      (let j := { collect with step := .two };
        let s := ending (closed (cutting 1041500 1040000 4186 101 27940)) j .empty (.lathe 2) .none (done 2 2 2 5);
        s.setSeq { s.seq with tIssue := 101 })) (fun t =>
      (t.account 2).tray == 0 && (t.account 2).tFull == some 1542320 &&
        (t.job 31).any (fun j => j.parts == 101 && j.deadline == 1542320)) = true := by
  decide +kernel

/-! ### The rack's and the bins' worked sequences (chapters 4 and 7) -/

/-- PICK LANE 6 with no bar: 210 dropped, LANE_MISSING of 210 and 1, job 42 claims again on lane 9. -/
theorem test_missing_bar_reclaims :
    after (exec .orderComplete
      (let j := { deliver with id := 42, step := .two };
        let s0 := withLane (withLane (closed (lathe2 .running)) 6 [bar 210 30000, bar 211 30000]) 9
          [bar 305 30000, bar 306 30000];
        let s1 := s0.setLane 6 { s0.lane 6 with claimed := 2 };
        let s2 := s1.setSlot 0 (some { deliver with id := 41, lathe := 7 });
        ending s2 j .pick (.lane 6) .none (done 1 6 0 3))) (fun t =>
      (t.lane 6).bars == [bar 211 30000] && (t.lane 6).claimed == 1 && (t.lane 9).claimed == 1 &&
        (t.job 31).any (fun j => j.lane == some 9 && j.step == .one) &&
        t.events.records.head?.any (fun e => e.kind == .laneMissing && e.value == halves 210 1)) = true := by
  decide +kernel
/-- UNSTOCK of lane 6 with claimed 2 of 2 is refused LANE_CLAIMED. -/
theorem test_unstock_claimed :
    after (exec (.unstock 6)
      (let s := withLane State.reset 6 [bar 210 30000, bar 211 30000];
        s.setLane 6 { s.lane 6 with claimed := 2 })) (fun t =>
      (t.port 12).queue == [⟨0x51, [0x6A, 13]⟩]) = true := by
  decide +kernel
/-- BIN SET of 1950 with count 1900 and 78 in flight holds 1978. -/
theorem test_bin_set_keeps_contents :
    after (exec (.binSet 5 1950) (State.reset.setBin 5 ⟨2000, 1900, true, 78⟩)) (fun t =>
      t.bin 5 == ⟨1978, 1900, true, 78⟩ &&
        (t.port 12).queue == [⟨0x56, [5, 0x07, 0xBA, 0x07, 0x6C, 1, 0, 78]⟩]) = true := by
  decide +kernel

/-! ### Lathe requests -/

/-- SETUP with a bar in NOPROG: RUNNING, and HOLD-CHANGE with the empty set behind the ACK (R10, R20). -/
theorem test_setup_runs :
    after (exec (.setup 2 (setupMsg (some 20000))) State.reset) (fun t =>
      (t.account 2).state == .running && (t.port 2).queue == [⟨0x41, [0x21]⟩, ⟨0x46, [0]⟩]) = true := by
  decide +kernel
/-- STOP in LOADING is refused LOADING_BUSY (R17). -/
theorem test_stop_loading :
    after (exec (.stop 2) (lathe2 .loading)) (fun t => (t.port 2).queue == [⟨0x42, [0x24, 6]⟩]) = true := by
  decide +kernel
/-- RESUME in STOPPED with LOAD_FAULT is refused LOAD_FAULT (R18). -/
theorem test_resume_load_fault :
    after (exec (.resume 2) (withAcct State.reset 2 { acct .stopped none none with loadFault := true })) (fun t =>
      (t.port 2).queue == [⟨0x42, [0x25, 7]⟩]) = true := by
  decide +kernel
/-- ACCOUNT has LEN 54 (R184). -/
theorem test_account_length : (accountMsg (acct .running (some (spindle 1310)) none)).bytes.length = 54 := by
  decide +kernel

/-! ### Time and lines -/

/-- A guard change is taken at the second tick that shows it (R60). -/
theorem test_guard_settles :
    after (exec (.hallTick 4 0 0) (State.reset.setGuardSeen true)) (fun t =>
      (t.line 2).guardClosed == false && (t.line 2).settle == 1) = true := by
  decide +kernel
/-- The third tick of difference raises HOLD_MISMATCH, commanded asserted and sensed released (R63). -/
theorem test_hold_mismatch :
    after (exec (.hallTick 0 0xFFB 0)
      (let s := State.reset.setGuardSeen true;
        s.setLine 2 { s.line 2 with mismatch := 2 })) (fun t =>
      t.events.records == [⟨.holdMismatch, 1, some 2, none, none, none, 1⟩]) = true := by
  decide +kernel
/-- At the tick selection of 1 ms C0 of 420 tenths is 42,000 (R34). -/
theorem test_cycle_start : cycleStart 420 .ms1 = 42000 ∧ cycleStart 420 .ms10 = 4200 := by decide
/-- The tick that reaches a compare's value, 5001, marks it spent and has lathe 2 ask for a DELIVER job (R46, R59); the
row that follows finds it spent. -/
theorem test_tick_fires :
    let s := at_ (lathe2 .running (some (spindle 1310))) 5000;
    after (exec (.hallTick 0 0xFFF 0) (s.setCompare 2 ⟨true, 5001, false⟩)) (fun t =>
      (t.compareOf 2).spent && t.hasJob 2 .deliver &&
        after (exec (.deliveryCompareFire 2) t) (fun v => v == t)) = true := by
  decide +kernel
/-- The hall time wraps and 2^32 − 1 is before 0 (R53). -/
theorem test_hall_time_wraps :
    after (exec (.hallTick 0 0xFFF 0) (at_ State.reset 0xFFFFFFFF)) (fun t => t.now == 0) = true ∧
      isBefore 0xFFFFFFFF 0 = true := by
  decide +kernel

/-! ### Supervisor requests -/

/-- A LANE ASSIGN of a lane with a bar is refused LANE_BUSY (R71). -/
theorem test_lane_busy :
    after (exec (.laneAssign 6 3 2) (withLane State.reset 6 [bar 210 30000])) (fun t =>
      (t.port 12).queue == [⟨0x51, [0x65, 14]⟩]) = true := by
  decide +kernel
/-- PARAM SET of LOAD_LIMIT with 1 is held as 100 (R185, R186). -/
theorem test_param_clamps :
    after (exec (.paramSet 3 1) State.reset) (fun t =>
      t.params.loadLimit == 100 && (t.port 12).queue == [⟨0x52, [3, 0, 0, 0, 100]⟩]) = true := by
  decide +kernel
/-- IDENT: device number 3112 is 0C28h (R190). -/
theorem test_ident :
    after (exec .ident State.reset) (fun t => (t.port 12).queue == [⟨0x5B, [0x0C, 0x28, 1, 12, 24, 8, 32, 64]⟩]) =
      true := by
  decide +kernel
/-- A request waits while its port still holds a reply (R177). -/
theorem test_request_waits :
    after (exec (.requestTake 0)
      (State.reset.setPort 12 { State.reset.port 12 with mailbox := some Request.ident.bytes, tx := some ⟨0x50, [0x62]⟩ }))
      (fun t => (t.port 12).mailbox.isSome && (t.port 12).queue == []) = true := by
  decide +kernel
/-- RESTART with a bar on the shuttle is refused SHUTTLE_BUSY (R168). -/
theorem test_restart_busy :
    after (exec .restart (shuttle State.reset .halted .bar)) (fun t =>
      (t.port 12).queue == [⟨0x51, [0x79, 18]⟩]) = true := by
  decide +kernel

/-! ### Characters on a line -/

/-- 21h as a head with parity on: start 0, 1000 0100 from the least significant bit, mark 1, a parity bit of 1 for the
three ones, stop 1 (R169). -/
theorem test_head_bits :
    charBits true true 0x21 =
      [false, true, false, false, false, false, true, false, false, true, true, true] := by decide
/-- Without parity a character has 11 bits (R169). -/
theorem test_data_bits :
    charBits false false 0x80 = [false, false, false, false, false, false, false, false, true, false, true] := by decide
/-- Samples high, low, high decide high and mark the character noisy (R170). -/
theorem test_noise_majority :
    after (exec (.messageBegun 11 { char true true 0x26 with data := (char true true 0x26).data.write 1 5 })
      State.reset) (fun t => (t.port 11).rx == .inMessage [0x26] && (t.port 11).counts.noise == 1) = true := by
  decide +kernel
/-- A start bit that decides high is not a character and is not counted (R170). -/
theorem test_false_start :
    after (exec (.characterError 11 .framing { char true true 0x26 with start := 6, stop := 0 }) State.reset)
      (fun t => t.port 11 == State.reset.port 11) = true := by
  decide +kernel
/-- A framing error is counted, and the next start bit waits until the line has been high (R170, R171). -/
theorem test_framing_waits_for_high :
    after (exec (.characterError 11 .framing { char true true 0x26 with stop := 0 })
      (receiving State.reset 11 (.inMessage [0x21]))) (fun t =>
        (t.port 11).rx == .discarding && (t.port 11).counts.framing == 1 &&
          after (exec (.messageBegun 11 { char true true 0x26 with fromHigh := false }) t) (fun u =>
            u.port 11 == t.port 11)) = true := by
  decide +kernel
/-- With parity off there is no parity error (R171). -/
theorem test_parity_off :
    after (exec (.characterError 11 .parity { char true true 0x26 with parity := 7 })
      (State.reset.setPort 11 { State.reset.port 11 with setting := ⟨.b19200, false⟩ })) (fun t =>
        (t.port 11).counts.parity == 0 && (t.port 11).rx == .lineIdle) = true := by
  decide +kernel

/-! ### The drive -/

/-- A TIMEOUT sends STOP with the target of the order last issued: 7h, 2, 2, 0 (R160). -/
theorem test_timeout_stops :
    after (exec .stepTimerExpiry
      (let s := ordered (shuttle State.reset .homing) ⟨.move, some (.lathe 2), .fast, .step⟩ none;
        s.setTimer { s.timer with stepTimer := .expired })) (fun t =>
      t.shuttle.state == .fault && t.shuttle.shout == some 0x7420000000000000) = true := by
  decide +kernel
/-- READY ends a CLEAR after UNKNOWN_LOAD, and HOME goes out again slow (R153, R166): 1h, 5, 0, 2. -/
theorem test_clear_homes_slow :
    after (exec .clearComplete
      (let s := ordered (shuttle State.reset .fault) ⟨.clear, some .home, .fast, .clear⟩ (some 0);
        s.setShuttle { s.shuttle with
          homeFailed := true, fault := some ⟨.unknownLoad, ⟨.home, some .home, .fast, .home⟩, 0, .bar⟩ })) (fun t =>
      t.shuttle.state == .homing && t.shuttle.shout == some 0x1A08000000000000) = true := by
  decide +kernel
/-- SHUTTLE HALT in FAULT is answered with the record at LEN 21 (9.7): FAULT, lane 6, BAR, flags 0, 2 and 3, CLEAR
for lathe 11, no-answer 2, TIMEOUT of a PLACE at lathe 11, drive code 2Ah, PARTS, job 90 at step 4. -/
theorem test_shuttle_reply :
    after (exec .shuttleHalt
      (let s := active State.reset { deliver with step := .four } .unissued;
        s.setShuttle { s.shuttle with
          state := .fault, position := .at (.lane 6), load := .bar, noAnswer := 2
          outstanding := some ⟨.clear, some (.lathe 11), .slow, .clear⟩
          fault := some ⟨.timeout, ⟨.place, some (.lathe 11), .slow, .step⟩, 0x2A, .parts⟩ })) (fun t =>
      (t.port 12).queue == [⟨0x59, [6, 1, 6, 1, 13, 8, 2, 11, 2, 2, 4, 4, 2, 11, 0x2A, 2, 90, 4]⟩]) = true := by
  decide +kernel

/-! ### Witnesses for the statements' hypotheses, clause by clause -/

/-- A counter at its top, a stage at its top, and both. -/
theorem witness_IdleStepCountsRefclk :
    let top (b d : Nat) : State := State.reset.setTimer { State.reset.timer with binary := b, decimal := d };
    (top 16382 9).pending = [] ∧ (top 16382 9).timer.binary < 16383 ∧
      ((top 16383 8).pending = [] ∧ ¬(top 16383 8).timer.binary < 16383 ∧
        (top 16383 8).timer.decimal + 1 < (top 16383 8).timer.sel.ms) ∧
      (top 16383 9).pending = [] ∧ ¬(top 16383 9).timer.decimal + 1 < (top 16383 9).timer.sel.ms := by
  decide +kernel

/-- The GUARD of lathe 2 alone at the second tick of its change: to open; to closed with a guard wait there, of a
DELIVER job and of a RETURN job at its PICK; and to closed with jobs parked. 63 records held. -/
theorem witness_HallTickCountsAndSamples :
    let near (s : State) (held : Bool) : State :=
      events ((s.setGuardSeen true).setLine 2 { s.line 2 with guardClosed := held, settle := 1 }) 63;
    let d : Job := { deliver with state := .active, step := .three, claim := false, bar := some (bar 841 30000) };
    let r : Job := { returning with state := .active, step := .two, lane := none, bar := none };
    let base := lathe2 .stopped none (some ⟨bar 841 30000, false⟩);
    let waits (j : Job) (l : Load) : State := near (shuttle (active base j .guardPending) .waiting l) false;
    let c : Job := { collect with block := .guardParked };
    let parked := near ((base.setSlot 31 (some c)).setSlot 30 (some { c with lathe := 7 })) false;
    (∀ s ∈ [waits d .bar, waits r .none, parked], s.guardSeen = true ∧ s.shuttle.outstanding = none ∧
        (s.line 2).settle ≠ 0 ∧ (∀ m : Lathe, (4#12).getLsbD m.val ≠ (s.line m).guardClosed ↔ m = 2) ∧
        s.events.records.length < 64 ∧ (4#12).getLsbD 2 = true) ∧
      ((near base true).guardSeen = true ∧ (near base true).shuttle.outstanding = none ∧
        ((near base true).line 2).settle ≠ 0 ∧
        (∀ m : Lathe, (0#12).getLsbD m.val ≠ ((near base true).line m).guardClosed ↔ m = 2) ∧
        (near base true).events.records.length < 64) ∧
      ((waits d .bar).seq.phase = .guardPending ∧ (waits d .bar).active = some (31, d) ∧
        d.order = some ⟨.move, .lathe 2⟩) ∧
      ((waits r .none).seq.phase = .guardPending ∧ (waits r .none).active = some (31, r) ∧
        r.order = some ⟨.pick, .lathe 2⟩ ∧ ((waits r .none).account 2).cradle = some ⟨bar 841 30000, false⟩) ∧
      (parked.seq.phase ≠ .guardPending ∧ parked.shuttleFree = false ∧ parked.job 31 = some c ∧
        c.state = .waiting ∧ c.bin = some 3 ∧ (parked.account 2).program = some prog ∧
        parked.job 30 = some { c with lathe := 7 }) := by
  decide +kernel

/-- 52 records held, HOLD sensed as commanded on lathes 0 to 10 and not on 11. -/
theorem witness_QuietTickChangesCountsOnly :
    let s := events (State.reset.setGuardSeen true) 52;
    s.shuttle.outstanding = none ∧ (s.guardSeen = true ∧ ∀ n : Lathe, (0#12).getLsbD n.val = (s.line n).guardClosed) ∧
      s.events.records.length + 12 ≤ 64 := by
  decide +kernel

/-- An order outstanding with two polls unanswered. -/
def polled (o : OutOrder) : State :=
  let s := ordered (shuttle (State.reset.setGuardSeen true) .stepping) o none;
  s.setShuttle { s.shuttle with noAnswer := 2 }
/-- MOVE LATHE 11. -/
def moveOut : OutOrder := ⟨.move, some (.lathe 11), .fast, .step⟩

/-- The hypotheses of the two statements about a poll: order, held word, count, GUARD inputs. -/
def pollable (s : State) : Bool :=
  s.shuttle.outstanding == some moveOut && s.shuttle.heldWord == none && decide (s.shuttle.noAnswer < 3) &&
    s.guardSeen && decide (∀ n : Lathe, (0#12).getLsbD n.val = (s.line n).guardClosed)
/-- The word is answered and fails the order without ending it. -/
def fails (w : Word) : Bool :=
  answered w && !endsOrder w moveOut && (statusState w == 3 || (statusState w == 2 && statusEcho w == moveOut.kind.code))

/-- SHIN high at the first 32 clocks, which are ignored: an unanswered word, one that ends the order, and BUSY. -/
theorem witness_PollGoesOn :
    ([(0xFFFFFFFF : Word), done 2 11 0 2, 0x40020000].all fun w => ((0xFFFFFFFF : Word) ++ w).extractLsb' 0 32 == w) ∧
    pollable (polled moveOut) = true ∧ fails 0xFFFFFFFF = false ∧ fails (done 2 11 0 2) = false ∧
      fails 0x40020000 = false ∧ answered 0xFFFFFFFF = false ∧ endsOrder (done 2 11 0 2) moveOut = true ∧
      (answered 0x40020000 = true ∧ endsOrder 0x40020000 moveOut = false) := by
  decide +kernel

/-- SHIN high at the first 32 clocks: drive state FAULT, and DONE at LATHE 10; 63 records held. -/
theorem witness_PollFaultsOrder :
    ([(0xC0020500 : Word), done 2 10 0 2].all fun w => ((0xFFFFFFFF : Word) ++ w).extractLsb' 0 32 == w) ∧
    pollable (events (polled moveOut) 63) = true ∧ (events (polled moveOut) 63).unmarked ∧
      (events (polled moveOut) 63).events.records.length < 64 ∧ fails 0xC0020500 = true ∧ statusState 0xC0020500 = 3 ∧
      fails (done 2 10 0 2) = true ∧ statusState (done 2 10 0 2) = 2 :=
  ⟨by decide +kernel, by decide +kernel, fun i j h => absurd h (by
      have e : (events (polled moveOut) 63).active = none := by decide +kernel
      simp [e]),
    by decide +kernel, by decide +kernel, by decide +kernel, by decide +kernel, by decide +kernel⟩

/-- A polled MOVE of a job marked STOP, its lane closed, with load NONE and with a bar aboard. -/
theorem witness_PollFaultsMarked :
    let m : OutOrder := ⟨.move, some (.lane 6), .fast, .step⟩;
    let j : Job := { deliver with cancel := .stop };
    let u0 (l : Load) : State := ordered (shuttle (active (lathe2 .running) j .outstanding) .stepping l) m none;
    let u (l : Load) : State := (u0 l).setLane 6 { (u0 l).lane 6 with isOpen := false, claimed := 1 };
    (∀ l ∈ [Load.none, .bar], (u l).shuttle.outstanding = some m ∧ (u l).shuttle.heldWord = none ∧
        (u l).shuttle.noAnswer < 3 ∧ (u l).guardSeen = true ∧
        (∀ n : Lathe, (0#12).getLsbD n.val = ((u l).line n).guardClosed) ∧ (u l).events.records.length < 64 ∧
        (u l).active = some (31, { j with state := .active }) ∧ j.kind = .deliver ∧ j.cancel ≠ .none ∧
        (u l).shuttle.load = l ∧ (u l).sched.deferred = [] ∧ ((u l).lane 6).isOpen = false) ∧
      answered 0xC0020500 = true ∧ endsOrder 0xC0020500 m = false ∧ statusState 0xC0020500 = 3 ∧
      answered (done 1 7 0 2) = true ∧ endsOrder (done 1 7 0 2) m = false ∧ statusState (done 1 7 0 2) = 2 ∧
      statusEcho (done 1 7 0 2) = m.kind.code := by
  decide +kernel

/-- The count at 3, and the timer run out, with a DUMP outstanding; both with a job marked STOP, its lane closed, and
with the same job and a bar aboard. -/
theorem witness_SilentDriveFaultsOrder :
    let o : OutOrder := ⟨.dump, some (.bin 7), .medium, .step⟩;
    let s0 := ordered (shuttle (active State.reset { collect with step := .four, bin := some 7 } .outstanding) .stepping
      .parts) o none;
    let s1 := (s0.setShuttle { s0.shuttle with noAnswer := 3 }).setTimer { s0.timer with stepTimer := .expired };
    let s := events s1 63;
    let m : OutOrder := ⟨.move, some (.lane 6), .fast, .step⟩;
    let j : Job := { deliver with cancel := .stop };
    let u0 (l : Load) : State := events (ordered (shuttle (active (lathe2 .running) j .outstanding) .stepping l) m none) 63;
    let u (l : Load) : State :=
      (((u0 l).setShuttle { (u0 l).shuttle with noAnswer := 3 }).setLane 6
        { (u0 l).lane 6 with isOpen := false, claimed := 1 }).setTimer { (u0 l).timer with stepTimer := .expired };
    (s.shuttle.outstanding = some o ∧ s.unmarked ∧ s.events.records.length < 64 ∧ 3 ≤ s.shuttle.noAnswer ∧
      s.timer.stepTimer = .expired) ∧
      (∀ l ∈ [Load.none, .bar], (u l).shuttle.outstanding = some m ∧ (u l).events.records.length < 64 ∧
        (u l).active = some (31, { j with state := .active }) ∧ m.purpose = .step ∧ 3 ≤ (u l).shuttle.noAnswer ∧
        (u l).timer.stepTimer = .expired ∧ (u l).sched.deferred = [] ∧ (u l).shuttle.load = l ∧ ((u l).lane 6).isOpen = false) := by
  refine ⟨⟨by decide +kernel, fun i j h => ?_, by decide +kernel, by decide +kernel, by decide +kernel⟩,
    by decide +kernel⟩
  cases h
  rfl

/-- A compare of lathe 2 in RUNNING, as given, at the hall time it names. -/
def firing (c : Compare) (stock : List BarRecord) : State :=
  let s := withLane (at_ (lathe2 .running (some (spindle 1310))) 5000) 23 stock;
  s.setCompare 2 c

/-- A tick reaches the value 5001 from hall time 5000, passes over it where it is spent, and does not reach 5002; it
reaches nothing from reset. -/
theorem witness_TickReachesCompare :
    (firing ⟨true, 5001, false⟩ []).reaches 2 5001 = true ∧ (firing ⟨true, 5001, false⟩ []).now + 1 = 5001 ∧
      ((firing ⟨true, 5001, false⟩ []).account 2).program.isSome = true ∧
      (firing ⟨true, 5001, true⟩ []).reaches 2 5001 = false ∧
      (firing ⟨true, 5002, false⟩ []).reaches 2 5001 = false ∧ ∀ n, State.reset.reaches n 1 = false := by
  decide +kernel

/-- Not reached by one tick; reached with a job, short of stock, with every slot full, with a lane and with none. -/
theorem witness_CompareFireAsksForDelivery :
    let c : Compare := ⟨true, 5000, false⟩;
    let s := firing c [];
    let full := s.setSched { s.sched with slots := .fill (some { collect with lathe := 7 }) };
    (s.shuttleFree = false ∧ (firing ⟨true, 5001, false⟩ []).shuttleFree = false ∧
        atOrBefore ((firing ⟨true, 5001, false⟩ []).compareOf 2).value 5000 = false) ∧
      ((s.compareOf 2).armed = true ∧ (s.compareOf 2).spent = false ∧ atOrBefore (s.compareOf 2).value s.now = true) ∧
      (s.setSlot 31 (some deliver)).hasJob 2 .deliver = true ∧
      (s.hasJob 2 .deliver = false ∧ (s.account 2).stockShort = false) ∧
      (full.shuttleFree = false ∧ full.hasJob 2 .deliver = false ∧ full.emptySlot = none ∧
        (2, JobKind.deliver) ∉ full.sched.deferred) ∧
      (s.emptySlot = some 0 ∧ s.sched.deferred = [] ∧ (s.account 2).program = some prog ∧
        (s.account 2).current = some (spindle 1310) ∧ (s.account 2).tOut = some 5000 ∧
        (s.account 2).partsLeft = some 1 ∧ (s.account 2).cycle = some 4200 ∧ s.claimLane prog = none) ∧
      ((firing c [bar 210 30000]).shuttleFree = false ∧ (firing c [bar 210 30000]).claimLane prog = some 23 ∧
        (firing c [bar 210 30000]).hasJob 2 .deliver = false ∧
        (firing c [bar 210 30000]).emptySlot = some 0) := by
  decide +kernel

/-- A well-kept state in the midst of its work: a DELIVER job at its PICK, its claim on the one bar of lane 6. -/
def working : State :=
  let s0 := withLane (lathe2 .running (some (spindle 1310))) 6 [bar 210 30000];
  let s := s0.setLane 6 { s0.lane 6 with claimed := 1 };
  ordered (shuttle (active s { deliver with step := .two } .outstanding) .stepping)
    ⟨.pick, some (.lane 6), .fast, .step⟩ none

theorem working_books : working.BooksOk := by
  have one : ∀ i j, working.job i = some j → i = 31 ∧ j = { deliver with step := .two, state := .active } :=
    all_jobs (P := fun i j => i = 31 ∧ j = { deliver with step := .two, state := .active }) (by decide +kernel)
  have act : working.active = some (31, { deliver with step := .two, state := .active }) := by decide +kernel
  have out : working.shuttle.outstanding = some ⟨.pick, some (.lane 6), .fast, .step⟩ := by decide +kernel
  have at31 : working.job 31 = some { deliver with step := .two, state := .active } := by decide +kernel
  constructor
  · unfold State.idsOk; decide +kernel
  · unfold State.lanesOk State.reservedFor; rw [act]; decide +kernel
  · refine ⟨fun i i' j j' h h' _ _ _ => (one i j h).1.trans (one i' j' h').1.symm, ?_, ?_⟩ <;> decide +kernel
  · refine ⟨fun i => ⟨fun h => ?_, fun ⟨j, h, _⟩ => ?_⟩, fun i => ⟨fun h => ?_, fun ⟨j, h, k⟩ => ?_⟩, ?_, ?_⟩
    · have : working.seq.job = some 31 := by decide +kernel
      obtain rfl : (31 : Slot) = i := Option.some.inj (this.symm.trans h)
      exact ⟨_, at31, rfl⟩
    · rw [(one i j h).1]; decide +kernel
    · have : working.sched.stack = [] := by decide +kernel
      rw [this] at h; cases h
    · rw [(one i j h).2] at k; cases k
    · decide +kernel
    · decide +kernel
  · refine ⟨fun i j h => ?_, ?_⟩
    · rw [(one i j h).2]; unfold Job.ok; decide +kernel
    · rw [act]; decide +kernel
  · refine ⟨by decide +kernel, by decide +kernel, ?_, by decide +kernel, ?_, ?_, by decide +kernel, ?_⟩
    · rw [out]; exact ⟨fun _ => ⟨_, rfl, rfl⟩, fun _ => by decide +kernel⟩
    · rw [out]; exact ⟨fun h => absurd h (by decide +kernel), fun ⟨o, h, k⟩ => by cases h; cases k⟩
    · rw [out]; intro o h k; cases h; cases k
    · rw [act, out]; intro i j h
      cases h
      refine ⟨fun h => absurd h (by decide +kernel), fun o h _ => ?_⟩
      cases h; rfl
  · refine ⟨by decide +kernel, by decide +kernel, by decide +kernel, ?_⟩
    rw [act]; intro i j h
    cases h
    exact fun _ h => absurd h (by decide +kernel)

/-- No id issued and the top ids issued, with bar 1 and job 1 held; a well-kept state that steps. -/
theorem witness_AllocatorsIssueFreeIds :
    let wrap0 := (withLane State.reset 6 [bar 1 30000]).setSlot 31 (some { deliver with id := 1 });
    let wrap1 := wrap0.setSched { wrap0.sched with lastJobId := 255 };
    let wrap := wrap1.setRack { wrap1.rack with lastBarId := 65535 };
    (∀ s ∈ [State.reset, wrap], s.sched.lastJobId ≤ 255 ∧ s.rack.lastBarId ≤ 65535 ∧ s.barIds.length < 65535) ∧
      wrap.nextJobId = 2 ∧ wrap.nextBarId = 2 ∧
      working.BooksOk ∧ after (step working) (fun t => t.timer.binary == 1) = true := by
  exact ⟨by decide +kernel, by decide +kernel, by decide +kernel, working_books, by decide +kernel⟩

/-- 62 records held. -/
theorem witness_LoadTimerExpiryGivesUp :
    let s := events (withAcct State.reset 11
      { acct .loading none (some ⟨bar 841 30000, true⟩) with loadTimer := .expired }) 62;
    (s.account 11).loadTimer = .expired ∧ (s.account 11).state = .loading ∧ s.events.records.length + 2 ≤ 64 := by
  decide +kernel

/-- A guard wait of the job in slot 31 whose timer has run out. -/
def guardWaiting (j : Job) (l : Load) : State :=
  let s := shuttle (active (lathe2 .running) j .guardPending) .waiting l;
  s.setTimer { s.timer with guardWait := .expired }

/-- With a bar aboard, and with load NONE and no other job. -/
theorem witness_GuardWaitExpiryActs :
    let j : Job := { deliver with state := .active, step := .three };
    let k : Job := { collect with state := .active };
    ((guardWaiting j .bar).timer.guardWait = .expired ∧ (guardWaiting j .bar).active = some (31, j) ∧
        (guardWaiting j .bar).seq.phase = .guardPending ∧ (guardWaiting j .bar).shuttle.load ≠ .none) ∧
      ((guardWaiting k .none).timer.guardWait = .expired ∧ (guardWaiting k .none).active = some (31, k) ∧
        (guardWaiting k .none).seq.phase = .guardPending ∧ (guardWaiting k .none).shuttle.load = .none ∧
        ((guardWaiting k .none).line k.lathe).guardClosed = false ∧
        (guardWaiting k .none).shuttle.haltPending = false ∧ (guardWaiting k .none).shuttle.state = .waiting ∧
        (guardWaiting k .none).sched.stack = []) ∧
      ∀ i j', i ≠ 31 → (guardWaiting k .none).job i = some j' → j'.eligible = false := by
  refine ⟨by decide +kernel, by decide +kernel, fun i j' hi h => ?_⟩
  exact all_jobs (P := fun i j => i ≠ 31 → j.eligible = false) (by decide +kernel) i j' h hi

/-- The debounce age one below CUT_DEBOUNCE and at it, a stray cut, and one without a bar; the tray below the threshold,
and at it with a COLLECT job, with a slot empty and with none. -/
theorem witness_CutCountedToTrayOnly :
    let aged (s : State) (k : Nat) : State := s.setLine 2 { s.line 2 with debounce := k };
    let tray (k : Nat) : State := aged (withAcct State.reset 2 { acct .idle none none with tray := k }) 20;
    let held := (tray 99).setSlot 31 (some collect);
    let full := (tray 99).setSched { State.reset.sched with slots := .fill (some { collect with lathe := 7 }) };
    (∀ g, ((aged (lathe2 .idle) 19).account 2).program = some g →
        g.edge ≠ .rising ∨ ((aged (lathe2 .idle) 19).line 2).debounce < (aged (lathe2 .idle) 19).params.cutDebounce) ∧
      (∀ s ∈ [events (aged (lathe2 .loading) 20) 63, events (aged (lathe2 .lost) 20) 63, tray 98, tray 99, held, full],
        (s.account 2).program = some prog ∧ prog.edge = .rising ∧ s.params.cutDebounce ≤ (s.line 2).debounce ∧
          s.events.records.length < 64 ∧ (s.account 2).current = none ∧ s.shuttleFree = false ∧
          ((s.account 2).state = .idle ∨ (s.account 2).state = .loading ∨ (s.account 2).state = .lost)) ∧
      held.findJob 2 .collect = some 31 ∧
      ((tray 98).findJob 2 .collect = none ∧ min (((tray 98).account 2).tray + 1) 1023 < prog.threshold) ∧
      (full.findJob 2 .collect = none ∧ prog.threshold ≤ min ((full.account 2).tray + 1) 1023 ∧
        full.emptySlot = none) ∧
      ((tray 99).findJob 2 .collect = none ∧ (tray 99).emptySlot = some 0 ∧ (tray 99).sched.deferred = []) := by
  refine ⟨fun g h => ?_, by decide +kernel⟩
  cases h
  exact .inr (by decide +kernel)

/-- R one pitch above 0, 63 records held, the debounce age at CUT_DEBOUNCE; the cradle empty in RUNNING, LOST and
STOPPED, and a bar on it; a DELIVER and a COLLECT job of the lathe and a job of another. -/
theorem witness_CutCountedToBar :
  ∀ p ∈ [(AcctState.stopped, none), (.running, none), (.lost, none), (.running, some ⟨bar 841 30000, false⟩)],
    let s0 := events (lathe2 p.1 (some (spindle 510)) p.2) 63;
    let s1 := ((s0.setSlot 31 (some deliver)).setSlot 30 (some collect)).setSlot 29 (some { collect with lathe := 7 });
    let s := s1.setLine 2 { s1.line 2 with debounce := 20 };
    (s.shuttleFree = false ∧ s.findJob 2 .deliver = some 31 ∧ s.findJob 2 .collect = some 30 ∧
      s.job 29 = some { collect with lathe := 7 }) ∧
    (s.account 2).program = some prog ∧ prog.edge = .rising ∧ s.params.cutDebounce ≤ (s.line 2).debounce ∧
      (s.account 2).current = some (spindle 510) ∧ (s.account 2).cycle = some 4200 ∧
      ((s.account 2).state = .running ∨ (s.account 2).state = .stopped ∨ (s.account 2).state = .lost) ∧
      s.events.records.length < 64 := by
  decide +kernel

/-- The characters of 62h with and without the mark bit, with parity on and off; a low line after a framing error; a
receiver in each state, on LP11 and on LP12. -/
theorem witness_HeadCharacterBeginsMessage :
    (∀ parity : Bool, (char parity true 0x62).reads parity true 0x62) ∧
      ∀ p ∈ [(11 : PortNo), 12],
        let heard (r : Receive) : Port := (receiving State.reset p r).port p;
        ((heard .lineIdle).setting.parity = true ∧ (heard .lineIdle).rx = .lineIdle ∧
          (heard (.inMessage [0x26, 3])).rx = .inMessage [0x26, 3]) ∧
        (heard .lineIdle).listens (char true true 0x62) ∧ (heard (.inMessage [0x26, 3])).listens (char true true 0x62) ∧
        ¬(heard .broken).listens (char true true 0x62) ∧
        ¬(heard .lineIdle).listens { char true true 0x62 with fromHigh := false } := by
  unfold RxChar.reads Port.listens; decide +kernel

/-- The second byte, a byte that does not fill LEN, and the one that does, and the first data character outside a
message. -/
theorem witness_DataCharacterJoinsMessage :
    let heard (r : Receive) : Port := (receiving State.reset 12 r).port 12;
    let c (b : Byte) : RxChar := char true false b;
    (∀ b ∈ [(4 : Byte), 10, 0x90], (c b).reads true false b) ∧
      (∀ r ∈ [Receive.lineIdle, .inMessage [0x62], .inMessage [0x62, 4], .inMessage [0x62, 4, 10]],
        (heard r).listens (c 4) ∧ (heard r).rx = r ∧ (heard r).setting.parity = true) ∧
      ¬(heard .broken).listens (c 4) ∧ [0x62#8, 4, 10].length < (4#8).toNat ∧
      [0x62#8, 4, 10, 0x90].length = (4#8).toNat := by
  unfold RxChar.reads Port.listens; decide +kernel

/-- A framing error and a parity error, a port with parity off, a false start and a port that takes no candidate; the
receive states. -/
theorem witness_LineConditionsMoveReceiver :
    let q := State.reset.port 12;
    let low : RxChar := { char true true 0x62 with stop := 1 };
    let odd : RxChar := { char true true 0x62 with mark := 0 };
    let off := State.reset.setPort 12 { q with setting := ⟨.b19200, false⟩ };
    (q.listens low ∧ isHigh low.start = false ∧ isHigh low.stop = false) ∧
      (q.listens odd ∧ isHigh odd.start = false ∧ isHigh odd.stop = true ∧ q.setting.parity = true ∧
        odd.ones % 2 = 1) ∧
      (off.port 12).setting.parity = false ∧ isHigh ({ low with start := 5 } : RxChar).start = true ∧
      ¬q.listens { low with fromHigh := false } ∧ ((receiving State.reset 12 .broken).port 12).rx = .broken ∧
      ((receiving State.reset 12 (.inMessage [0x26])).port 12).rx = .inMessage [0x26] ∧ q.rx = .lineIdle := by
  unfold Port.listens; decide +kernel

/-- LP12, and LP11 in LOADING, STOPPED, RUNNING and NOPROG with 63 records held. LP11 with 62, in each
state; in STOPPED with a bar in the spindle, the compare's value a tick ahead and reached, with a DELIVER job, short of
stock and with neither. -/
theorem witness_LinkBreakLosesLathe :
    ((receiving State.reset 12 .broken).port 12).rx = .broken ∧ (State.reset.port 12).rx ≠ .broken ∧
      (12 : PortNo) ≠ lathePort 11 ∧ (11 : PortNo) = lathePort 11 ∧
      (∀ st ∈ [AcctState.loading, .stopped, .running, .noProg],
        let s := events (withAcct State.reset 11 (acct st none (some ⟨bar 841 30000, st == .loading⟩))) 63;
        (s.port 11).rx ≠ .broken ∧ s.events.records.length < 64 ∧ (s.account 11).state = st ∧
          (s.account 11).program = some prog ∧
          (s.account 11).cradle = some ⟨bar 841 30000, st == .loading⟩ ∧
          (let d : Job := { deliver with lathe := 11 };
            let c : Job := { collect with lathe := 11 };
            let u := ((s.setSlot 31 (some d)).setSlot 30 (some c)).setSlot 29 (some collect);
            u.shuttleFree = false ∧ u.findJob 11 .deliver = some 31 ∧ u.job 31 = some d ∧
              u.findJob 11 .collect = some 30 ∧ u.job 30 = some c ∧ u.job 29 = some collect)) ∧
      (∀ st ∈ [AcctState.noProg, .idle, .await, .loading, .running, .stopped, .lost],
        let s := events (withAcct State.reset 11 (acct st none none)) 62;
        (s.port 11).rx ≠ .broken ∧ s.events.records.length + 2 ≤ 64 ∧ (s.account 11).state = st) ∧
      ∀ x ∈ [(false, false), (true, false), (false, true)], ∀ now ∈ [14999, 15000],
        let a := { acct .stopped (some (spindle 1310)) none with tOut := some 75000, stockShort := x.2 };
        let s0 := at_ (events (withAcct State.reset 11 { a with holdSet := a.reasons }) 62) (BitVec.ofNat 32 now);
        let s := if x.1 then s0.setSlot 30 (some { deliver with lathe := 11 }) else s0;
        (s.port 11).rx ≠ .broken ∧ s.events.records.length + 2 ≤ 64 ∧ (s.account 11).state = .stopped ∧
          (s.account 11).current = some (spindle 1310) ∧ (s.account 11).cradle = none ∧
          (s.account 11).tOut = some 75000 ∧ (s.account 11).partsLeft = some 1 ∧
          (s.account 11).cycle = some 4200 ∧ (s.account 11).program.isSome = true ∧
          atOrBefore (75000 - BitVec.ofNat 32 s.params.lookahead) s.now = decide (now = 15000) ∧
          s.hasJob 11 .deliver = x.1 ∧ (s.account 11).stockShort = x.2 ∧ s.shuttleFree = false ∧
          s.sched.deferred = [] ∧ s.emptySlot = some 0 := by
  refine ⟨?_, ?_, ?_, ?_, ?_, ?_, ?_⟩ <;> decide +kernel

theorem witness_SendingMovesQueue :
    let q := State.reset.port 11;
    let m : Msg := ⟨0x41, [0x22]⟩;
    let start := State.reset.setPort 11 { q with queue := [m] };
    let sent := State.reset.setPort 11 { q with tx := some m };
    let mark := State.reset.setPort 11 { q with breakMark := true };
    let breaking := State.reset.setPort 11 { q with breakMark := true, breaking := true };
    ((start.port 11).tx = none ∧ (start.port 11).queue = [m] ∧ (start.port 11).breakMark = false ∧
        (start.port 11).breaking = false ∧ m.bytes.length = 4 ∧
        ({ q with tx := some m, txSetting := q.setting } : Port).sending[3]?.isSome = true) ∧
      ((sent.port 11).tx ≠ none ∧ q.queue = [] ∧ (mark.port 11).breakMark = true ∧
        (breaking.port 11).breaking = true) ∧
      (sent.port 11).tx = some m ∧
      ((mark.port 11).breakMark = true ∧ (mark.port 11).tx = none ∧ (mark.port 11).breaking = false) ∧
      (breaking.port 11).breaking = true := by
  decide +kernel

/-- LP12's own turn, the last of the thirteen, and a message that spells no request on LP0, the first. -/
theorem witness_RequestTakeServesNextPort :
    let s := State.reset.setPort 12 { State.reset.port 12 with mailbox := some Request.ident.bytes };
    let bad := State.reset.setPort 0 { State.reset.port 0 with mailbox := some [0x26, 4, 0, 0xD6] };
    (∀ p, (State.reset.port p).mailbox = none ∨ (State.reset.port p).replyPending = true) ∧
      ((s.port 12).mailbox = some Request.ident.bytes ∧ (s.port 12).replyPending = false ∧
        (∀ q : PortNo, (q.val + 12 - s.pointer.val) % 13 < ((12 : PortNo).val + 12 - s.pointer.val) % 13 →
          (s.port q).mailbox = none ∨ (s.port q).replyPending = true) ∧
        parseRequest Request.ident.bytes = some .ident ∧ requestRow 12 0 .ident = some .ident) ∧
      ((bad.port 0).mailbox = some [0x26, 4, 0, 0xD6] ∧ (bad.port 0).replyPending = false ∧
        (∀ q : PortNo, (q.val + 12 - bad.pointer.val) % 13 < ((0 : PortNo).val + 12 - bad.pointer.val) % 13 →
          (bad.port q).mailbox = none ∨ (bad.port q).replyPending = true) ∧
        parseRequest [0x26, 4, 0, 0xD6] = none) := by
  decide +kernel

/-- A part length of 9 and of 10 units, a remaining length of 40001 and of 40000, and each state check. -/
theorem witness_SetupRefusals :
    let short : SetupMsg := { setupMsg none with part := 9 };
    let long : SetupMsg := setupMsg (some 40001);
    let fits : SetupMsg := { setupMsg (some 40000) with part := 10 };
    let j : Job := { deliver with step := .three };
    let carrying := shuttle (active (lathe2 .stopped) j .outstanding) .stepping .bar;
    (State.reset.port (lathePort 2)).replyPending = false ∧ short.part.toNat < 10 ∧
      (∃ r, long.remaining = some r ∧ (r.toNat = 0 ∨ 40000 < r.toNat)) ∧
      (¬(fits.material.toNat = 0 ∨ fits.diameter.toNat < 1 ∨ 15 < fits.diameter.toNat ∨ fits.part.toNat < 10 ∨
          20000 < fits.part.toNat ∨ fits.capacity.toNat = 0 ∨ 7 < fits.bin.toNat ∨ 4 ≤ fits.options.toNat ∨
          (fits.options.getLsbD 0 = false ∧ fits.remaining ≠ none) ∨
          (fits.options.getLsbD 0 = true ∧ fits.remaining = none)) ∧ fits.remaining = some 40000) ∧
      ((lathe2 .loading).account 2).state = .loading ∧ ((lathe2 .loading).port 2).replyPending = false ∧
      ((lathe2 .running).account 2).state = .running ∧ ((lathe2 .running).port 2).replyPending = false ∧
      ((carrying.port 2).replyPending = false ∧ (carrying.account 2).state ≠ .loading ∧
        (carrying.account 2).state ≠ .running ∧ carrying.active = some (31, { j with state := .active }) ∧
        j.kind = .deliver ∧ j.lathe = 2 ∧ carrying.shuttle.load = .bar) := by
  exact ⟨by decide +kernel, by decide +kernel, ⟨40001, by decide +kernel, .inr (by decide +kernel)⟩, by decide +kernel,
    by decide +kernel, by decide +kernel, by decide +kernel, by decide +kernel, by decide +kernel⟩

/-- From reset with a bar, and in STOPPED without one; a DELIVER job WAITING and ACTIVE, a cradle bar of another
material, and a tray at the threshold, without and with a COLLECT job. -/
theorem witness_SetupInstallsProgram :
    let base := lathe2 .stopped;
    let wait := base.setSlot 31 (some { deliver with lane := none, claim := false, block := .noStock });
    let act := shuttle (active base deliver .outstanding) .stepping;
    let other := lathe2 .stopped none (some ⟨{ bar 841 30000 with material := 15 }, false⟩);
    let full := withAcct State.reset 2 { acct .stopped none none with tray := 100 };
    let col := full.setSlot 31 (some collect);
    ((State.reset.port (lathePort 2)).replyPending = false ∧
        State.reset.setupRefusal 2 (setupMsg (some 40000)) = none) ∧
      (∀ s ∈ [base, wait, act, other, full, col], (s.port (lathePort 2)).replyPending = false ∧
        s.setupRefusal 2 (setupMsg none) = none ∧ s.shuttleFree = false ∧ s.sched.deferred = []) ∧
      (base.account 2).cradle = none ∧
      (∀ s ∈ [base, wait, act, other], s.hasJob 2 .collect = false ∧ (s.account 2).tray < 100) ∧
      (base.findJob 2 .deliver = none ∧ wait.findJob 2 .deliver = some 31 ∧ act.findJob 2 .deliver = some 31 ∧
        act.job 31 = some { deliver with state := .active } ∧ act.shuttle.load = .none ∧
        act.seq.phase = .outstanding) ∧
      (other.findJob 2 .deliver = none ∧ other.hasJob 2 .ret = false ∧ other.emptySlot = some 0) ∧
      (full.findJob 2 .deliver = none ∧ full.hasJob 2 .collect = false ∧ 100 ≤ (full.account 2).tray ∧
        full.emptySlot = some 0) ∧
      col.findJob 2 .collect = some 31 ∧ col.job 31 = some collect ∧ collect.bin = some 3 ∧
      collect.state = .waiting ∧ collect.block = .none := by
  decide +kernel

/-- A cradle bar of lathe 2 without the loading mark. -/
def staged : CradleBar := ⟨bar 841 30000, false⟩

/-- A SETUP with a bar from reset, at a look-ahead that puts the value a tick ahead and at one that has it reached; and
in STOPPED. 63 records held. -/
theorem witness_SetupArmsCompare :
    let m := setupMsg (some 1310);
    let with_ (look : Nat) : State :=
      events (State.reset.setParams { State.reset.params with lookahead := look }) 63;
    (∀ look ∈ [4199, 4200], ((with_ look).port (lathePort 2)).replyPending = false ∧
        (with_ look).setupRefusal 2 m = none ∧ (with_ look).events.records.length < 64 ∧
        ((with_ look).account 2).cradle = none ∧ (with_ look).findJob 2 .deliver = none ∧
        (with_ look).emptySlot = some 0 ∧ (with_ look).sched.deferred = [] ∧ (with_ look).shuttleFree = false ∧
        after (exec (.setup 2 m) (with_ look)) (fun t => (t.account 2).state == .running &&
          (t.account 2).tOut == some 4200) = true ∧
        atOrBefore ((4200 : Time) - BitVec.ofNat 32 look) (with_ look).now = decide (look = 4200)) ∧
      (lathe2 .stopped).setupRefusal 2 m = none := by
  decide +kernel

/-- From RUNNING, from IDLE and in STOPPED with LOAD_FAULT, without a RETURN job of lathe 2 and with one; 62 records
held. -/
theorem witness_ReadyStartsLoading :
    ∀ s0 ∈ [events (lathe2 .running (some (spindle 1310)) (some staged)) 62, events (lathe2 .idle none (some staged)) 62,
        events (withAcct State.reset 2 { acct .stopped none (some staged) with loadFault := true }) 62],
      ∀ ret ∈ [false, true],
      let s := if ret then s0.setSlot 31 (some { returning with step := .one, lane := none, bar := none }) else s0;
      (s.port (lathePort 2)).replyPending = false ∧ (s.account 2).program = some prog ∧
        (s.account 2).cradle = some staged ∧ staged.loading = false ∧ s.hasJob 2 .ret = ret ∧ s.events.records.length + 2 ≤ 64 ∧
        (((s.account 2).state = .running ∧ (s.account 2).current = some (spindle 1310)) ∨ (s.account 2).state = .idle ∨
          ((s.account 2).state = .stopped ∧ (s.account 2).loadFault = true)) := by
  decide +kernel

/-- A DELIVER job standing, short of stock, no job, and in STOPPED with LOAD_FAULT. -/
theorem witness_ReadyAsksForBar :
    let s := lathe2 .running (some (spindle 800));
    let held := s.setSlot 31 (some deliver);
    let short := withAcct State.reset 2 { acct .idle none none with stockShort := true };
    let retry := withAcct State.reset 2 { acct .stopped none none with loadFault := true };
    (∀ u ∈ [s, held, short, retry], (u.port (lathePort 2)).replyPending = false ∧ (u.account 2).program = some prog ∧
        (u.account 2).cradle = none ∧
        ((u.account 2).state = .running ∨ ((u.account 2).state = .idle ∧ (u.account 2).current = none) ∨
          ((u.account 2).state = .stopped ∧ (u.account 2).loadFault = true ∧ (u.account 2).current = none)) ∧
        u.shuttleFree = false) ∧
      held.findJob 2 .deliver = some 31 ∧
      (short.findJob 2 .deliver = none ∧ (short.account 2).stockShort = true) ∧
      s.findJob 2 .deliver = none ∧ (s.account 2).stockShort = false ∧ s.emptySlot = some 0 ∧ s.sched.deferred = [] := by
  decide +kernel

/-- Every state of an account, STOPPED with LOAD_FAULT and a cradle bar among them. -/
theorem witness_LatheRequestsByState :
    (∀ st ∈ [AcctState.noProg, .idle, .await, .loading, .running, .stopped, .lost],
        ((lathe2 st).port (lathePort 2)).replyPending = false ∧ ((lathe2 st).account 2).state = st ∧
          ((lathe2 st).account 2).loadFault = false) ∧
      let s := withAcct State.reset 2 { acct .stopped none (some staged) with loadFault := true };
      (s.port (lathePort 2)).replyPending = false ∧ (s.account 2).state = .stopped ∧
        (s.account 2).loadFault = true := by
  decide +kernel

theorem witness_LoadedMakesBarCurrent :
    ∀ s ∈ [lathe2 .loading none (some ⟨bar 841 30000, true⟩),
        withAcct State.reset 2 { acct .stopped none (some ⟨bar 841 30000, true⟩) with loadFault := true }],
      (s.port (lathePort 2)).replyPending = false ∧ (s.account 2).program = some prog ∧
        (s.account 2).cradle = some ⟨bar 841 30000, true⟩ ∧ (s.account 2).cycle = some 4200 ∧
        (((s.account 2).state = .loading ∧ (s.account 2).loadFault = false) ∨
          ((s.account 2).state = .stopped ∧ (s.account 2).loadFault = true)) := by
  decide +kernel

/-- No job; a job WAITING without a claim, ACTIVE with load NONE, ACTIVE with a short bar, and with one that is
not. -/
theorem witness_StopStopsLathe :
    let s := events (lathe2 .running (some (spindle 1310))) 63;
    let waits : Job := { deliver with lane := none, claim := false, block := .noStock };
    let act (j : Job) (l : Load) : State := shuttle (active s j .outstanding) .stepping l;
    let short : Job := { deliver with step := .three, short := true, bar := some (bar 5 1000) };
    (∀ u ∈ [s, s.setSlot 31 (some waits), act deliver .none, act short .bar, act { short with short := false } .bar],
        (u.port (lathePort 2)).replyPending = false ∧ (u.account 2).state = ResumeState.running.toState ∧
          u.events.records.length < 64 ∧ u.shuttleFree = false ∧ u.sched.deferred = []) ∧
      s.findJob 2 .deliver = none ∧
      ((s.setSlot 31 (some waits)).findJob 2 .deliver = some 31 ∧ waits.state = .waiting ∧ waits.claim = false) ∧
      ((act deliver .none).findJob 2 .deliver = some 31 ∧
        (act deliver .none).job 31 = some { deliver with state := .active } ∧
        (act deliver .none).shuttle.load = .none ∧ (act deliver .none).seq.phase = .outstanding) ∧
      ((act short .bar).findJob 2 .deliver = some 31 ∧ (act short .bar).job 31 = some { short with state := .active } ∧
        (act short .bar).shuttle.load = .bar) ∧
      (act { short with short := false } .bar).findJob 2 .deliver = some 31 ∧
      (act { short with short := false } .bar).shuttle.load ≠ .none := by
  decide +kernel

/-- LOST with LOAD_FAULT; STOPPED to IDLE, to RUNNING, and to AWAIT with and without a cradle bar and with a RETURN
job. -/
theorem witness_ResumeReturnsLathe :
    let back (r : ResumeState) (cur : Option CurrentBar) (cr : Option CradleBar) : State :=
      withAcct State.reset 2 { acct .stopped cur cr with resume := r };
    let lost := withAcct State.reset 2 { acct .lost none (some staged) with loadFault := true, resume := .await };
    let held := (back .await none (some staged)).setSlot 31 (some { returning with step := .one, bar := none });
    (∀ s ∈ [lost, back .idle none none, back .running (some (spindle 1310)) none, back .await none none, held,
          back .await none (some staged)],
        (s.port (lathePort 2)).replyPending = false ∧ (s.account 2).program = some prog ∧
          ((s.account 2).state = .lost ∨ ((s.account 2).state = .stopped ∧ (s.account 2).loadFault = false))) ∧
      (lost.account 2).loadFault = true ∧ ((back .idle none none).account 2).resume = .idle ∧
      (((back .running (some (spindle 1310)) none).account 2).resume = .running ∧
        ((back .running (some (spindle 1310)) none).account 2).current = some (spindle 1310) ∧
        ((back .running (some (spindle 1310)) none).account 2).cycle = some 4200 ∧
        ((back .running (some (spindle 1310)) none).account 2).cradle = none) ∧
      (held.hasJob 2 .ret = true ∧ (held.account 2).cradle = some staged) ∧
      (back .await none (some staged)).hasJob 2 .ret = false ∧
      ((back .await none (some staged)).account 2).cradle = some staged := by
  decide +kernel

/-- STOPPED to AWAIT with an empty cradle, with a DELIVER job, short of stock, with an empty slot and with none; STOPPED
to RUNNING with the value reached. 63 records held. -/
theorem witness_ResumeAsksForBar :
    let back (r : ResumeState) (cur : Option CurrentBar) (short : Bool) : State :=
      events (withAcct State.reset 2 { acct .stopped cur none with resume := r, stockShort := short }) 63;
    let s := back .await none false;
    let held := s.setSlot 31 (some deliver);
    let full := s.setSched { s.sched with slots := .fill (some { collect with lathe := 7 }) };
    let run (now : Time) : State := at_ (back .running (some (spindle 1310)) false) now;
    (∀ u ∈ [s, held, full, back .await none true, run 0],
        (u.port (lathePort 2)).replyPending = false ∧ (u.account 2).program = some prog ∧
          (u.account 2).state = .stopped ∧ (u.account 2).loadFault = false ∧ (u.account 2).cradle = none ∧
          u.shuttleFree = false ∧ u.sched.deferred = [] ∧ u.events.records.length < 64) ∧
      ((s.account 2).resume = .await ∧ (s.account 2).current = none ∧ s.findJob 2 .deliver = none ∧
        (s.account 2).stockShort = false ∧ s.emptySlot = some 0 ∧ held.findJob 2 .deliver = some 31 ∧
        full.findJob 2 .deliver = none ∧ full.emptySlot = none ∧
        ((back .await none true).account 2).stockShort = true) ∧
      (((run 0).account 2).resume = .running ∧ (run 0).findJob 2 .deliver = none ∧
        (run 0).findJob 2 .collect = none ∧ (run 0).emptySlot = some 0 ∧
        atOrBefore (((run 0).account 2).tLast.read 0 + 4200 - BitVec.ofNat 32 (run 0).params.lookahead) 0 = true) := by
  decide +kernel

/-- Lathe 11 and lathe byte 12, slot 31 with a job and slot byte 32; lathe 10 and slot 30 with nothing. -/
theorem witness_ReadingRequestsReport :
    let s := withAcct (State.reset.setSlot 31 (some returning)) 11 (acct .running (some (spindle 1310)) (some staged));
    (s.port (lathePort 11)).replyPending = false ∧ (s.account 11).program = some prog ∧
      (s.account 11).current = some (spindle 1310) ∧ (s.account 11).cradle = some staged ∧
      (s.port supervisorPort).replyPending = false ∧ 11 < (12 : Byte).toNat ∧ 31 < (32 : Byte).toNat ∧
      s.job 30 = none ∧ s.job 31 = some returning ∧ returning.bar = some (bar 841 30000) ∧
      (s.port (lathePort 10)).replyPending = false ∧ (s.account 10).program = none ∧ (s.account 10).current = none ∧
      (s.account 10).cradle = none ∧ deliver.bar = none := by
  decide +kernel

/-- Numbers 0 and 10, 1 and 9. -/
theorem witness_ParametersSetAndGet :
    (State.reset.port supervisorPort).replyPending = false ∧
      ((0 : Byte).toNat = 0 ∧ 9 < (10 : Byte).toNat ∧ (1 : Byte).toNat = 0 + 1 ∧ (9 : Byte).toNat = 8 + 1) := by
  decide +kernel

/-- A value outside the seven, the selection held, another while lathe 2 has a program, and another at reset. -/
theorem witness_TickSetReselects :
    ((State.reset.port supervisorPort).replyPending = false ∧ (3 : Byte).toNat ∉ [1, 2, 5, 10, 20, 50, 100]) ∧
      (TickSel.ms10.ms = (10 : Byte).toNat ∧ State.reset.timer.sel = .ms10) ∧
      (((lathe2 .idle).port supervisorPort).replyPending = false ∧ TickSel.ms100.ms = (100 : Byte).toNat ∧
        (lathe2 .idle).timer.sel ≠ .ms100 ∧ ¬∀ n, ((lathe2 .idle).account n).state = .noProg) ∧
      (∀ n, (State.reset.account n).state = .noProg) ∧ (∀ i, State.reset.job i = none) ∧
      State.reset.sched.deferred = [] := by
  decide +kernel

/-- Port 13, rate 5, parity 2, and LP12 and LP0 at rate 4. -/
theorem witness_LinkSetAndRead :
    (State.reset.port supervisorPort).replyPending = false ∧
      (12 < (13 : Byte).toNat ∧ 4 < (5 : Byte).toNat ∧ 1 < (2 : Byte).toNat) ∧
      ((12 : PortNo).val = (12 : Byte).toNat ∧ (0 : PortNo).val = (0 : Byte).toNat ∧
        Rate.b115200.code = (4 : Byte).toNat ∧ true.toNat = (1 : Byte).toNat) := by
  decide +kernel

/-- Lane 24, class 16, class 1 without a material; lane 23 empty, with a bar, and with a reservation. -/
theorem witness_LaneAssignSetsLane :
    let stocked := withLane State.reset 23 [bar 210 30000];
    let reserved := State.reset.setLane 23 { State.reset.lane 23 with reserved := 1 };
    (State.reset.port supervisorPort).replyPending = false ∧ (stocked.port supervisorPort).replyPending = false ∧
      (reserved.port supervisorPort).replyPending = false ∧ 23 < (24 : Byte).toNat ∧
      ((14 : Byte).toNat ≠ 0 ∧ 15 < (16 : Byte).toNat) ∧ ((0 : Byte).toNat = 0 ∧ (1 : Byte).toNat ≠ 0) ∧
      ((23 : LaneNo).val = (23 : Byte).toNat ∧ ¬(15 < (15 : Byte).toNat) ∧ (stocked.lane 23).bars ≠ [] ∧
        (reserved.lane 23).reserved ≠ 0 ∧ (State.reset.lane 23).bars = [] ∧ (State.reset.lane 23).reserved = 0) := by
  decide +kernel

/-- Lane 24, and lane 23 open and closed with one bar and two jobs that wait for it, that of slot 31 first. -/
theorem witness_LaneOpenAndClose :
    let s0 := withLane (lathe2 .running) 23 [bar 210 30000];
    let s1 := s0.setLane 23 { s0.lane 23 with isOpen := false };
    let j : Job := { deliver with lane := none, claim := false, block := .noStock };
    let s := (s1.setSlot 31 (some j)).setSlot 30 (some { j with deadline := 5001 });
    ((s.port supervisorPort).replyPending = false ∧ 23 < (24 : Byte).toNat ∧ (23 : LaneNo).val = (23 : Byte).toNat ∧
      (s0.lane 23).isOpen = true ∧ (s.lane 23).isOpen = false ∧ (s.lane 23).material ≠ 0) ∧
      ((s.lane 23).bars.length = (s.lane 23).claimed + 1 ∧ s.shuttleFree = false ∧ s.job 31 = some j ∧
        (s.account 2).program = some prog ∧ (s.lane 23).material = prog.material ∧
        (s.lane 23).diameter = prog.diameter) ∧
      (∀ i' j', s.job i' = some j' → i' ≠ 31 → i' = 30 ∧ j'.deadline = 5001) ∧
      goesBefore 31 j 30 { j with deadline := 5001 } := by
  exact ⟨by decide +kernel, by decide +kernel,
    all_jobs (P := fun i' j' => i' ≠ 31 → i' = 30 ∧ j'.deadline = 5001) (by decide +kernel), .inl (by decide +kernel)⟩

/-- Lane 24, position 12; lane 23 at positions 11, past its bars, and 0, its front. -/
theorem witness_LaneReadReports :
    let s := withLane State.reset 23 [bar 210 30000];
    (s.port supervisorPort).replyPending = false ∧ 23 < (24 : Byte).toNat ∧ 11 < (12 : Byte).toNat ∧
      (23 : LaneNo).val = (23 : Byte).toNat ∧ (11 : Byte).toNat ≤ 11 ∧
      (s.lane 23).bars[(0 : Byte).toNat]? = some (bar 210 30000) ∧ (s.lane 23).bars[(11 : Byte).toNat]? = none := by
  decide +kernel

/-- Lengths 999, 1000, 40000 and 40001; lane 23 unassigned, with 12 bars, and with 11. -/
theorem witness_StockEntersBar :
    let lane (k : Nat) : State := withLane State.reset 23 (List.replicate k (bar 210 30000));
    ((State.reset.port supervisorPort).replyPending = false ∧ ((lane 12).port supervisorPort).replyPending = false ∧
        ((lane 11).port supervisorPort).replyPending = false) ∧
      (23 < (24 : Byte).toNat ∧ (999#16).toNat < 1000 ∧ 40000 < (40001#16).toNat) ∧
      ((23 : LaneNo).val = (23 : Byte).toNat ∧ ¬((1000#16).toNat < 1000 ∨ 40000 < (1000#16).toNat) ∧
        ¬((40000#16).toNat < 1000 ∨ 40000 < (40000#16).toNat)) ∧
      (State.reset.lane 23).material = 0 ∧
      (((lane 12).lane 23).material ≠ 0 ∧ 12 ≤ ((lane 12).lane 23).bars.length + ((lane 12).lane 23).reserved) ∧
      ((lane 11).lane 23).material ≠ 0 ∧ ((lane 11).lane 23).bars.length + ((lane 11).lane 23).reserved < 12 := by
  decide +kernel

/-- Lathe 2 short of stock in this state at this time, its DELIVER job held or not; lane 23 empty, open or closed. -/
def stockShort (held opened : Bool) (st : AcctState) (now : Nat) : State :=
  let cur := if st = .await then none else some (spindle 1310)
  let a := { acct st cur none with tOut := cur.map fun _ => 75000, stockShort := true }
  let s0 := at_ (withLane (withAcct State.reset 2 a) 23 []) (BitVec.ofNat 32 now)
  let s1 := s0.setLane 23 { s0.lane 23 with isOpen := opened }
  let s2 := s1.setCompare 2 { s1.compareOf 2 with armed := true }
  if held then s2.setSlot 30 (some deliver) else s2
/-- Lane 23 once it has the bar. -/
def stocked (s : State) (q : LaneNo) : LaneRecord :=
  if q = 23 then { s.lane 23 with bars := [⟨s.nextBarId, 30000, 7, 23, 14, 5, false⟩] } else s.lane q

/-- The one lathe short of stock in AWAIT, and in RUNNING and LOST with its value a tick ahead and reached, with a
DELIVER job and without; the lane open and closed. -/
theorem witness_StockServesShort :
    let cases := [(AcctState.await, 0), (.running, 14999), (.running, 15000), (.lost, 14999), (.lost, 15000)];
    (∀ held ∈ [false, true], ∀ opened ∈ [true, false], ∀ x ∈ cases,
        let s := stockShort held opened x.1 x.2;
        (s.port supervisorPort).replyPending = false ∧ (s.lane 23).material = 14 ∧ (s.lane 23).bars = [] ∧
          (s.lane 23).reserved = 0 ∧ s.shuttleFree = false ∧ (∀ n, (s.account n).stockShort = true ↔ n = 2) ∧
          (s.account 2).program = some prog ∧ (s.account 2).state = x.1 ∧ (s.account 2).cradle = none ∧
          (s.compareOf 2).armed = true ∧ (x.1 = .await → (s.account 2).current = none)) ∧
      (∀ held ∈ [false, true], ∀ opened ∈ [true, false], ∀ x ∈ cases,
        let s := stockShort held opened x.1 x.2;
        x.1 ≠ .await →
          (s.account 2).current.isSome = true ∧ (s.account 2).tOut = some 75000 ∧
            (s.account 2).partsLeft = some 1 ∧ (s.account 2).cycle = some 4200 ∧
            atOrBefore (75000 - BitVec.ofNat 32 s.params.lookahead) s.now = decide (x.2 = 15000)) ∧
      ∀ held ∈ [false, true], ∀ opened ∈ [true, false], ∀ x ∈ cases,
        let s := stockShort held opened x.1 x.2;
        s.findJob 2 .deliver = (if held then some 30 else none) ∧ s.emptySlot = some 0 ∧ s.sched.deferred = [] ∧
          (∀ i, (s.job i).all (fun j => decide (j.block ≠ .noStock)) = true) ∧
          (opened = true → firstLane (stocked s) prog 23) ∧
          (opened = false → ∀ q, ¬takesClaim (stocked s q) prog) := by
  unfold firstLane takesClaim
  refine ⟨?_, ?_, ?_⟩ <;> decide +kernel

/-- Lane 24; lane 23 empty, with its one bar claimed, and with one of two claimed. -/
theorem witness_UnstockTakesTail :
    let claims (s : State) : State := s.setLane 23 { s.lane 23 with claimed := 1 };
    let one := claims (withLane State.reset 23 [bar 210 30000]);
    let two := claims (withLane State.reset 23 [bar 210 30000, bar 211 30000]);
    ((State.reset.port supervisorPort).replyPending = false ∧ (one.port supervisorPort).replyPending = false ∧
        (two.port supervisorPort).replyPending = false) ∧
      23 < (24 : Byte).toNat ∧ (23 : LaneNo).val = (23 : Byte).toNat ∧ (State.reset.lane 23).bars = [] ∧
      ((one.lane 23).bars = [] ++ [bar 210 30000] ∧ (one.lane 23).bars.length ≤ (one.lane 23).claimed) ∧
      (two.lane 23).bars = [bar 210 30000] ++ [bar 211 30000] ∧ (two.lane 23).claimed < (two.lane 23).bars.length := by
  decide +kernel

theorem witness_RejectEmptiedEndsWait :
    let j : Job := { deliver with step := .four, short := true };
    let s := shuttle (active (lathe2 .running) j .rejectWait) .waiting .bar;
    ((State.reset.port supervisorPort).replyPending = false ∧ State.reset.seq.phase ≠ .rejectWait) ∧
      (s.port supervisorPort).replyPending = false ∧ s.seq.phase = .rejectWait ∧
      s.active = some (31, { j with state := .active }) ∧
      ({ j with state := .active } : Job).order = some ⟨.place, .reject⟩ := by
  decide +kernel

/-- Bin 8, and bin 7 with a COLLECT job of lathe 2 and a job that is not for it; a dump that waits for bin 7, which
fits and which does not. -/
theorem witness_BinRequestsChangeBin :
    let j : Job := { collect with bin := some 7, block := .binFull };
    let s := ((lathe2 .running).setSlot 31 (some j)).setSlot 30 (some deliver);
    let d : Job := { collect with bin := some 7, state := .active, step := .four, parts := 78 };
    let w (count : Nat) : State :=
      (shuttle (active (lathe2 .running) d .dumpWait) .waiting .parts).setBin 7 ⟨2000, count, true, 0⟩;
    ((s.port supervisorPort).replyPending = false ∧ 7 < (8 : Byte).toNat ∧ (7 : BinNo).val = (7 : Byte).toNat ∧
      s.seq.phase ≠ .dumpWait ∧ s.shuttleFree = false ∧
      (s.job 31 = some j ∧ j.kind = .collect ∧ j.bin = some 7 ∧ j.state = .waiting ∧ j.block ≠ .guardParked ∧
        j.block ≠ .noStock ∧ (s.account j.lathe).program = some prog) ∧
      s.job 30 = some deliver ∧ deliver.kind ≠ .collect) ∧
      (∀ c ∈ [1922, 1923], ((w c).port supervisorPort).replyPending = false ∧ (w c).seq.phase = .dumpWait ∧
        (w c).active = some (31, d)) ∧
      d.parts ≤ ((w 1922).bin 7).capacity - ((w 1922).bin 7).count ∧
      ((w 1923).bin 7).capacity - ((w 1923).bin 7).count < d.parts := by
  decide +kernel

/-- Two SUSPENDED COLLECT jobs for bin 7: the bin closed, full and with room. -/
theorem witness_BinBlocksSuspended :
    let j : Job := { collect with bin := some 7, state := .suspended };
    let s0 := (lathe2 .running).setSched { (lathe2 .running).sched with stack := [30, 31] };
    let s (x : Bin) : State :=
      ((s0.setSlot 31 (some j)).setSlot 30 (some { j with id := 53, bin := some 6 })).setBin 7 x;
    (∀ x ∈ [⟨2000, 0, false, 0⟩, ⟨2000, 1990, true, 0⟩, ⟨2000, 0, true, 0⟩],
        ((s x).port supervisorPort).replyPending = false ∧ (s x).seq.phase ≠ .dumpWait ∧ (s x).shuttleFree = false ∧
          (s x).job 31 = some j ∧ j.kind = .collect ∧ j.bin = some 7 ∧ j.state = .suspended ∧
          (s x).sched.stack.Nodup ∧ ((s x).account 2).program = some prog) ∧
      gateOf ⟨2000, 0, false, 0⟩ prog.capacity = .binClosed ∧ gateOf ⟨2000, 1990, true, 0⟩ prog.capacity = .binFull ∧
      gateOf ⟨2000, 0, true, 0⟩ prog.capacity = .none := by
  decide +kernel

/-- Lathe byte 12, and lathe 11 at reset and with a program. -/
theorem witness_LatheHoldAndRelease :
    (State.reset.port supervisorPort).replyPending = false ∧ 11 < (12 : Byte).toNat ∧
      (11 : Lathe).val = (11 : Byte).toNat := by
  decide +kernel

/-- Job 0, a job that no slot holds, and job 90 as each clause has it; every slot full with a COLLECT job of lathe 2
deferred, which has no program, or a tray at the threshold. -/
theorem witness_JobCancelActsByState :
    let x : Byte := 90;
    let idle := (lathe2 .running).setSlot 31 (some { deliver with state := .suspended });
    let shut := idle.setLane 6 { idle.lane 6 with isOpen := false };
    let act (j : Job) (st : ShuttleState) (l : Load) : State :=
      shuttle (active (shut.setSlot 31 none) j .unissued) st l;
    let moving := act deliver .stepping .none;
    let picked : Job := { deliver with step := .three, claim := false, bar := some (bar 841 30000) };
    let wait : Job := { deliver with lane := none, claim := false, block := .noStock };
    let crowd (s : State) : State :=
      (s.setSched { s.sched with slots := .fill (some { collect with lathe := 7 }), deferred := [(2, .collect)] }).setSlot
        31 (some wait);
    let full := crowd (withAcct State.reset 2 { acct .running none none with tray := 100 });
    (∀ s ∈ [State.reset, idle, shut, moving, act deliver .fault .none, act returning .fault .bar, act picked .halted .bar],
        (s.port supervisorPort).replyPending = false ∧ s.sched.deferred = [] ∧ s.shuttleFree = false) ∧
      ((0 : Byte).toNat = 0 ∧ x.toNat ≠ 0) ∧ (∀ i j, State.reset.job i = some j → j.id ≠ x.toNat) ∧
      (moving.slotOfId x.toNat = some 31 ∧ moving.job 31 = some { deliver with state := .active } ∧
        moving.shuttle.state ≠ .fault ∧ moving.shuttle.state ≠ .halted) ∧
      ((act returning .fault .bar).slotOfId 77 = some 31 ∧ returning.kind ≠ .deliver) ∧
      (shut.slotOfId x.toNat = some 31 ∧ shut.job 31 = some { deliver with state := .suspended } ∧
        (shut.lane 6).isOpen = false) ∧
      ((act deliver .fault .none).slotOfId x.toNat = some 31 ∧
        (act deliver .fault .none).job 31 = some { deliver with state := .active } ∧
        ((act deliver .fault .none).lane 6).isOpen = false) ∧
      ((act picked .halted .bar).slotOfId x.toNat = some 31 ∧
        (act picked .halted .bar).job 31 = some { picked with state := .active } ∧
        picked.bar = some (bar 841 30000) ∧ (act picked .halted .bar).seq.job = some 31) ∧
      (∀ s ∈ [crowd State.reset, full], (s.port supervisorPort).replyPending = false ∧ s.slotOfId x.toNat = some 31 ∧
        s.job 31 = some wait ∧ s.shuttleFree = false ∧ (∀ i, s.job i ≠ none) ∧
        s.sched.deferred = [(2, JobKind.collect)]) ∧
      ((crowd State.reset).account 2).program = none ∧
      ((full.account 2).program = some prog ∧ (full.account 2).tFull = some 9000 ∧
        (full.account 2).cycle = some 4200 ∧
        prog.threshold ≤ (full.account 2).tray) ∧
      ∀ i' j', full.job i' = some j' → i' ≠ 31 → j'.lathe = 2 → j'.kind ≠ .collect := by
  exact ⟨by decide +kernel, by decide +kernel, fun i j h => all_jobs (P := fun _ j => j.id ≠ (90 : Byte).toNat)
    (by decide +kernel) i j h, by decide +kernel, by decide +kernel, by decide +kernel, by decide +kernel,
    by decide +kernel, by decide +kernel, by decide +kernel, by decide +kernel,
    all_jobs (P := fun i' j' => i' ≠ 31 → j'.lathe = 2 → j'.kind ≠ .collect) (by decide +kernel)⟩

/-- RETURN job 77, the one job of lathe 2 of its kind, WAITING, SUSPENDED and ACTIVE with load NONE in HALTED; the lathe
in RUNNING, in AWAIT with a cradle bar and in AWAIT without one, there with a DELIVER job, short of stock and with
neither; 63 records held. -/
theorem witness_JobCancelReturnLeaves :
    let r : Job := { returning with step := .one, lane := none, bar := none };
    let short := withAcct State.reset 2 { acct .await none none with stockShort := true };
    let held := (lathe2 .await).setSlot 30 (some { deliver with id := 91 });
    ∀ s0 ∈ [lathe2 .running, lathe2 .await none (some staged), lathe2 .await, short, held],
      ∀ st ∈ [JobState.waiting, .suspended, .active],
      let s1 := events (shuttle (s0.setSlot 31 (some { r with state := st })) .halted) 63;
      let s := s1.setSeq { s1.seq with job := if st = .active then some 31 else none };
      (s.port supervisorPort).replyPending = false ∧ s.slotOfId (77 : Byte).toNat = some 31 ∧
        s.job 31 = some { r with state := st } ∧ r.kind = .ret ∧ r.claim = false ∧ s.shuttleFree = false ∧
        s.sched.deferred = [] ∧ s.events.records.length < 64 ∧ s.shuttle.state = .halted ∧ s.shuttle.load = .none ∧
        (∀ i, (s.job i).all (fun j => decide (i ≠ 31 → j.kind ≠ .ret)) = true) ∧
        ((s.account 2).state = .running ∨
          ((s.account 2).state = .await ∧ (s.account 2).current = none ∧ (s.account 2).program.isSome = true ∧
            ((s.account 2).cradle = some staged ∨ (s.account 2).cradle = none) ∧
            (s.findJob 2 .deliver = some 30 ∨ s.findJob 2 .deliver = none))) := by
  decide +kernel

/-- HALTED with a DELIVER job ACTIVE: in its wait or frozen, with a bar aboard; at a boundary with load NONE, with no
other job, with a job exactly the margin earlier, and with that job and a full stack.
A RETURN at its PICK in RUNNING, with no cradle bar and with one in loading. -/
theorem witness_ShuttleRunInHalted :
    let j : Job := { deliver with state := .active, deadline := 20000 };
    let p : Job := { j with step := .four, claim := false, bar := some (bar 841 30000) };
    let rival : Job := { deliver with id := 91, lathe := 7, lane := some 9, deadline := 14000 };
    let halted (j : Job) (l : Load) (boundary : Bool) : State :=
      let s := events (shuttle (active (lathe2 .running) j .unissued) .halted l) 63;
      s.setSeq { s.seq with boundary := boundary };
    let near := (halted j .none true).setSlot 30 (some rival);
    let stacked := near.setSched { near.sched with stack := [1, 2] };
    let r : Job := { returning with state := .active, step := .two, lane := none, bar := none };
    let bare (c : Option CradleBar) : State := shuttle (active (lathe2 .running none c) r .unissued) .halted;
    let urgent (a b : Job) : Prop :=
      isBefore a.deadline b.deadline = true ∧ near.params.preemptMargin ≤ (b.deadline - a.deadline).toNat;
    (∀ s ∈ [halted p .bar false, halted p .bar true, halted j .none false, halted j .none true, near, stacked],
        (s.port supervisorPort).replyPending = false ∧ s.shuttle.state = .halted ∧ s.events.records.length < 64 ∧
          (s.active = some (31, j) ∨ s.active = some (31, p))) ∧
      (j.state = .active ∧ p.state = .active ∧ j.order = some ⟨.move, .lane 6⟩ ∧
        p.order = some ⟨.place, .lathe 2⟩ ∧ j.kind = .deliver ∧ p.kind = .deliver) ∧
      ((halted p .bar false).seq.boundary = false ∧ (halted p .bar true).shuttle.load ≠ .none ∧
        2 ≤ stacked.sched.stack.length) ∧
      (∀ i' j', (halted j .none true).job i' = some j' → i' = 31) ∧
      (near.seq.boundary = true ∧ near.shuttle.load = .none ∧ near.job 30 = some rival ∧ rival.eligible = true ∧
        rival.kind = .deliver ∧ rival.lane = some 9 ∧ urgent rival j ∧ near.sched.stack.length < 2) ∧
      (∀ i' j', near.job i' = some j' → i' ≠ 31 → i' = 30) ∧
      (∀ c ∈ [none, some { staged with loading := true }],
        let s := bare c;
        (s.port supervisorPort).replyPending = false ∧ s.shuttle.state = .halted ∧ s.active = some (31, r) ∧
          r.kind = .ret ∧ r.step = .two ∧ r.order = some ⟨.pick, .lathe 2⟩ ∧ (s.account 2).cradle = c ∧
          (s.account 2).state ≠ .await ∧ s.shuttle.haltPending = false ∧ s.sched.deferred = []) ∧
      (bare none).noOtherReady 31 := by
  exact ⟨by decide +kernel, by decide +kernel, by decide +kernel,
    all_jobs (P := fun i' _ => i' = 31) (by decide +kernel), by decide +kernel,
    all_jobs (P := fun i' _ => i' ≠ 31 → i' = 30) (by decide +kernel), by decide +kernel, by decide +kernel,
    fun i j ne h => all_jobs (P := fun i j => i ≠ 31 → j.eligible = false) (by decide +kernel) i j h ne⟩

/-- Job 90 SUSPENDED, alone on the stack: HALTED with no job, a HOME ended, and the PLACE of
another DELIVER job; a SUSPENDED COLLECT job, whose MOVE the guard check meets. -/
theorem witness_StackTopResumed :
    let top : Job := { deliver with state := .suspended };
    let col : Job := { collect with state := .suspended };
    let stack (s : State) (j : Job) : State :=
      (s.setSlot 30 (some j)).setSched { (s.setSlot 30 (some j)).sched with stack := [30] };
    let h : OutOrder := ⟨.home, some .home, .fast, .home⟩;
    let home := stack (ordered (shuttle State.reset .homing) h (some (done 5 0 0 1))) top;
    let p : Job :=
      { deliver with id := 91, lathe := 7, step := .four, claim := false, bar := some (bar 1204 30000) };
    let place := events (stack (ending (lathe2 .running) p .place (.lathe 7) .bar (done 2 7 0 4)) top) 62;
    (∀ j ∈ [top, col], let s := events (stack (shuttle (lathe2 .running) .halted) j) 63;
        (s.port supervisorPort).replyPending = false ∧ s.shuttle.state = .halted ∧ s.seq.job = none ∧
          s.sched.stack = [30] ∧ s.job 30 = some j ∧ j.order.isSome = true ∧ s.events.records.length < 64) ∧
      (home.shuttle.outstanding = some h ∧ home.shuttle.heldWord = some (done 5 0 0 1) ∧ h.purpose = .home ∧
        sensedLoad (done 5 0 0 1) = .none ∧ home.shuttle.haltPending = false ∧ home.seq.job = none ∧
        home.sched.stack = [30] ∧ home.job 30 = some top ∧ top.kind = .deliver ∧ top.lane = some 6) ∧
      (place.completes ⟨.place, some (.lathe 7), .slow, .step⟩ (done 2 7 0 4) ∧
        place.active = some (31, { p with state := .active }) ∧ p.kind = .deliver ∧ p.step = .four ∧
        p.bar = some (bar 1204 30000) ∧ sensedLoad (done 2 7 0 4) = .none ∧ place.shuttle.state = .stepping ∧
        place.sched.deferred = [] ∧ place.events.records.length + 2 ≤ 64 ∧ p.short = false ∧
        place.hasJob 7 .ret = false ∧ place.shuttle.haltPending = false ∧ place.sched.stack = [30] ∧
        place.job 30 = some top) := by
  unfold State.completes
  refine ⟨?_, ?_, ?_⟩ <;> decide +kernel

/-- Every shuttle state, and HALTED with a DELIVER job ready. -/
theorem witness_ShuttleRunSetsGoing :
    let ready := shuttle (State.reset.setSlot 31 (some deliver)) .halted;
    (∀ st ∈ [ShuttleState.unhomed, .homing, .idle, .stepping, .waiting, .halted, .fault],
        ((shuttle State.reset st).port supervisorPort).replyPending = false ∧
          (shuttle State.reset st).shuttle.state = st ∧ (shuttle State.reset st).seq.job = none) ∧
      (shuttle State.reset .halted).noneReady ∧
      ((ready.port supervisorPort).replyPending = false ∧ ready.seq.job = none ∧ ready.sched.stack = [] ∧
        ready.bestEligible = some (31, deliver) ∧ deliver.lane = some 6) := by
  exact ⟨by decide +kernel, ⟨by decide +kernel, all_jobs (P := fun _ j => j.eligible = false) (by decide +kernel)⟩,
    by decide +kernel⟩

/-- Every shuttle state, and FAULT with a CLEAR outstanding. -/
theorem witness_ShuttleHaltAndClear :
    let o : OutOrder := ⟨.clear, some .home, .fast, .clear⟩;
    (∀ st ∈ [ShuttleState.unhomed, .homing, .idle, .stepping, .waiting, .halted, .fault],
        ((shuttle State.reset st).port supervisorPort).replyPending = false ∧
          (shuttle State.reset st).shuttle.state = st ∧ (shuttle State.reset st).shuttle.outstanding = none) ∧
      ((ordered (shuttle State.reset .fault) o none).port supervisorPort).replyPending = false ∧
      (ordered (shuttle State.reset .fault) o none).shuttle.outstanding = some o := by
  decide +kernel

/-- No record, and 64. -/
theorem witness_EventsPeekAndIdentReply :
    (State.reset.port supervisorPort).replyPending = false ∧ State.reset.events.records = [] ∧
      ((events State.reset 64).port supervisorPort).replyPending = false ∧
      (events State.reset 64).events.records.length = 64 := by
  decide +kernel

/-- With a bar aboard, and with load NONE in UNHOMED and in HALTED. -/
theorem witness_RestartKeepsWhatStands :
    (∀ s ∈ [State.reset, shuttle State.reset .halted, shuttle State.reset .halted .bar],
        (s.port supervisorPort).replyPending = false) ∧
      (shuttle State.reset .halted .bar).shuttle.load ≠ .none ∧ State.reset.shuttle.load = .none ∧
      State.reset.shuttle.state = .unhomed ∧ (shuttle State.reset .halted).shuttle.state = .halted := by
  decide +kernel

/-- A HOME ended with load NONE, with and without a halt pending, and with BAR; a MOVE ended with PARTS, and a DUMP with
PARTS. -/
theorem witness_OrderCompleteHomeAndLoadFault :
    let o : OutOrder := ⟨.home, some .home, .fast, .home⟩;
    let s (w : Word) : State := ordered (shuttle State.reset .homing) o (some w);
    let halts := (s (done 5 0 0 1)).setShuttle { (s (done 5 0 0 1)).shuttle with haltPending := true };
    let m : OutOrder := ⟨.move, some (.lane 6), .fast, .step⟩;
    let u := ending (lathe2 .running) deliver .move (.lane 6) .none (done 1 6 2 2);
    let d : Job := { collect with step := .four, parts := 78 };
    let v := ending (lathe2 .running) d .dump (.bin 3) .parts (done 3 3 2 6);
    (halts.shuttle.outstanding = some o ∧ halts.shuttle.heldWord = some (done 5 0 0 1) ∧ o.kind ≠ .clear ∧
        o.purpose = .home ∧ sensedLoad (done 5 0 0 1) = .none ∧ halts.shuttle.haltPending = true) ∧
      ((s (done 5 0 0 1)).shuttle.outstanding = some o ∧ (s (done 5 0 0 1)).shuttle.haltPending = false) ∧
      (s (done 5 0 0 1)).noneReady ∧ sensedLoad (done 5 0 1 1) ≠ .none ∧
      (u.shuttle.outstanding = some m ∧ u.shuttle.heldWord = some (done 1 6 2 2) ∧ m.purpose = .step ∧
        m.kind ≠ .dump ∧ u.active = some (31, { deliver with state := .active }) ∧ deliver.cancel = .none ∧
        ({ deliver with state := .active } : Job).accepts (sensedLoad (done 1 6 2 2)) = false) ∧
      (v.shuttle.outstanding = some ⟨.dump, some (.bin 3), .medium, .step⟩ ∧
        v.shuttle.heldWord = some (done 3 3 2 6) ∧ v.active = some (31, { d with state := .active }) ∧
        d.kind = .collect ∧ d.step = .four ∧ sensedLoad (done 3 3 2 6) ≠ .none) := by
  exact ⟨by decide +kernel, by decide +kernel,
    ⟨by decide +kernel, all_jobs (P := fun _ j => j.eligible = false) (by decide +kernel)⟩, by decide +kernel,
    by decide +kernel, by decide +kernel⟩

/-- A MOVE to lane 6 done: a halt pending; no other job, a job one tick short of the margin, and a full stack; a job
exactly the margin earlier; and a STOP mark with the lane closed. -/
theorem witness_OrderCompleteMoveDone :
    let w := done 1 6 0 2;
    let done_ (j : Job) : State := ending (lathe2 .running) j .move (.lane 6) .none w;
    let s := done_ { deliver with deadline := 20000 };
    let rival (due : Time) : Job := { deliver with id := 91, lathe := 7, lane := some 9, deadline := due };
    let close := s.setSlot 30 (some (rival 14001));
    let near := s.setSlot 30 (some (rival 14000));
    let stacked := near.setSched { near.sched with stack := [1, 2] };
    let halts := s.setShuttle { s.shuttle with haltPending := true };
    let stop0 := done_ { deliver with cancel := .stop };
    let stop := stop0.setLane 6 { stop0.lane 6 with isOpen := false, claimed := 1 };
    let urgent (a b : Job) : Prop :=
      isBefore a.deadline b.deadline = true ∧ s.params.preemptMargin ≤ (b.deadline - a.deadline).toNat;
    (∀ u ∈ [s, close, near, stacked, halts], u.shuttle.outstanding = some ⟨.move, some (.lane 6), .fast, .step⟩ ∧
        u.shuttle.heldWord = some w ∧ u.active = some (31, { deliver with state := .active, deadline := 20000 })) ∧
      (deliver.kind = .deliver ∧ deliver.step = .one ∧ deliver.lane = some 6 ∧ deliver.cancel = .none ∧
        sensedLoad w = .none) ∧
      (halts.shuttle.haltPending = true ∧ s.shuttle.haltPending = false ∧ 2 ≤ stacked.sched.stack.length) ∧
      (∀ i j, close.job i = some j → i ≠ 31 → j.eligible = true → ¬urgent j { deliver with deadline := 20000 }) ∧
      (near.job 30 = some (rival 14000) ∧ (rival 14000).eligible = true ∧ near.sched.stack.length < 2 ∧
        urgent (rival 14000) { deliver with deadline := 20000 }) ∧
      (∀ i j, near.job i = some j → i ≠ 31 → i = 30) ∧
      (stop.active = some (31, { deliver with state := .active, cancel := .stop }) ∧ stop.sched.deferred = [] ∧
        stop.shuttle.state = .stepping ∧ (stop.lane 6).isOpen = false ∧ stop.sched.stack = []) ∧
      ∀ i j, stop.job i = some j → i ≠ 31 → j.eligible = false := by
  exact ⟨by decide +kernel, by decide +kernel, by decide +kernel,
    all_jobs (P := fun i j => i ≠ 31 → j.eligible = true → ¬(_ ∧ _)) (by decide +kernel), by decide +kernel,
    all_jobs (P := fun i _ => i ≠ 31 → i = 30) (by decide +kernel), by decide +kernel,
    all_jobs (P := fun i j => i ≠ 31 → j.eligible = false) (by decide +kernel)⟩

/-- A MOVE with the bar done, to the lathe with its guard open and closed, and, short, to REJECT with a place there and
with none, with a mark; 63 records held. -/
theorem witness_OrderCompleteBarMoved :
    ∀ short ∈ [false, true], ∀ rejects ∈ [19, 20], ∀ shut ∈ [false, true],
      let j : Job :=
        { deliver with step := .three, claim := false, short := short, cancel := .stop, bar := some (bar 210 1329) };
      let target : Station := if short then .reject else .lathe 2;
      let w := if short then done 4 0 1 2 else done 2 2 1 2;
      let s0 := events (ending (lathe2 .running) j .move target .bar w) 63;
      let s := (if shut then closed s0 else s0).setRack { s0.rack with reject := rejects };
      s.completes ⟨.move, some target, .slow, .step⟩ w ∧ s.active = some (31, { j with state := .active }) ∧
        j.kind = .deliver ∧ j.step = .three ∧ sensedLoad w = .bar ∧ s.shuttle.haltPending = false ∧
        s.events.records.length < 64 ∧ s.rack.reject = rejects ∧ (s.line 2).guardClosed = shut := by
  unfold State.completes; decide +kernel

/-- A bar of 1329 units, short by one, and one of 1330, with the marks; 63 records held. -/
theorem witness_PickBindsFrontBar :
    ∀ b ∈ [bar 210 1329, bar 210 1330], ∀ m ∈ [CancelMark.none, .stop, .setup],
      let j : Job := { deliver with step := .two, cancel := m };
      let s := events (ending (withLane (lathe2 .running) 6 [b]) j .pick (.lane 6) .none (done 1 6 1 3)) 63;
      s.completes ⟨.pick, some (.lane 6), .fast, .step⟩ (done 1 6 1 3) ∧
        s.active = some (31, { j with state := .active }) ∧ j.kind = .deliver ∧ j.step = .two ∧ j.lane = some 6 ∧
        sensedLoad (done 1 6 1 3) = .bar ∧ (s.lane 6).bars = [b] ∧
        (s.account j.lathe).program = some prog ∧ s.shuttle.haltPending = false ∧ s.events.records.length < 64 := by
  unfold State.completes; decide +kernel

/-- A PICK that finds nothing: with a bar in lane 9, with none, with a mark; and with a second claim, which the mark's
departure and a halt leave in excess. -/
theorem witness_PickFindsNothing :
    let w := done 1 6 0 3;
    let lanes (s : State) (claims : Nat) (bars : List BarRecord) : State :=
      let s1 := withLane (withLane s 6 bars) 9 [bar 305 30000];
      s1.setLane 6 { s1.lane 6 with claimed := claims };
    let s (m : CancelMark) (claims : Nat) (bars : List BarRecord) : State :=
      events (ending (lanes (lathe2 .running) claims bars) { deliver with step := .two, cancel := m } .pick (.lane 6)
        .none w) 62;
    let dry := (s .none 1 [bar 210 30000]).setLane 9 { (s .none 1 []).lane 9 with isOpen := false };
    let other : Job := { deliver with id := 41, lathe := 7 };
    let two := (withAcct (s .stop 2 [bar 210 30000]) 7 (acct .running none none)).setSlot 30 (some other);
    let excess := two.setShuttle { two.shuttle with haltPending := true };
    let picked (x : LaneNo) : LaneRecord :=
      if x = 6 then { (s .none 1 []).lane 6 with bars := [], claimed := 0 } else (s .none 1 []).lane x;
    (∀ u ∈ [s .none 1 [bar 210 30000], dry, s .stop 1 [bar 210 30000]],
        u.completes ⟨.pick, some (.lane 6), .fast, .step⟩ w ∧ (u.lane 6).bars = [bar 210 30000] ∧
          (u.account 2).program = some prog ∧ u.events.records.length + 2 ≤ 64 ∧ sensedLoad w = .none ∧
          (u.lane 6).claimed ≤ 1 ∧ u.shuttle.haltPending = false ∧ u.sched.stack = [] ∧ u.sched.deferred = [] ∧
          u.shuttle.state = .stepping ∧
          (∀ i, (u.job i).all (fun j => decide (i ≠ 31 → j.eligible = false)) = true)) ∧
      firstLane picked prog 9 ∧ (∀ x, ¬takesClaim (if x = 6 then picked x else dry.lane x) prog) ∧
      (excess.completes ⟨.pick, some (.lane 6), .fast, .step⟩ w ∧ excess.active.isSome = true ∧
        excess.events.records.length + 2 ≤ 64 ∧ (excess.lane 6).claimed = 2 ∧ excess.shuttle.haltPending = true ∧
        excess.shuttle.state = .stepping ∧ excess.sched.deferred = [] ∧ excess.job 30 = some other ∧
        other.holdsClaim 6 = true ∧ (excess.account 7).program = some prog) ∧
      ∀ i j, excess.job i = some j → i ≠ 31 → i = 30 := by
  refine ⟨?_, ?_, ?_, ?_, all_jobs (P := fun i _ => i ≠ 31 → i = 30) (by decide +kernel)⟩
  · unfold State.completes; decide +kernel
  · unfold firstLane takesClaim; decide +kernel
  · unfold takesClaim; decide +kernel
  · unfold State.completes; decide +kernel

/-- In AWAIT and in RUNNING; a short bar at REJECT: the third, with a mark, with a lane to claim and with none; 62
records held. -/
theorem witness_PlaceStagesBar :
    let full (s : State) (bars : List BarRecord) : State := withLane s 9 bars;
    let ready (s : State) (o : OutOrder) (w : Word) : Prop :=
      s.completes o w ∧ sensedLoad w = .none ∧ s.shuttle.state = .stepping ∧ s.sched.deferred = [] ∧
        s.sched.stack = [] ∧ (∀ i, (s.job i).all (fun j' => decide (i ≠ 31 → j'.eligible = false)) = true) ∧
        s.events.records.length + 2 ≤ 64 ∧ (s.account 2).program = some prog ∧ s.shuttle.haltPending = false;
    (∀ st ∈ [AcctState.await, .running],
      let j : Job := { deliver with step := .four, claim := false, bar := some (bar 1204 30000) };
      let s := events (ending (lathe2 st) j .place (.lathe 2) .bar (done 2 2 0 4)) 62;
      ready s ⟨.place, some (.lathe 2), .slow, .step⟩ (done 2 2 0 4) ∧
        s.active = some (31, { j with state := .active }) ∧ j.kind = .deliver ∧ j.step = .four ∧ j.short = false ∧
        j.bar = some (bar 1204 30000) ∧ s.hasJob j.lathe .ret = false) ∧
      (∀ x ∈ [(3, CancelMark.none), (1, .stop), (2, .none)], ∀ bars ∈ [[], [bar 305 30000]],
        let j : Job :=
          { deliver with
            step := .four, claim := false, short := true, retries := x.1, cancel := x.2, bar := some (bar 210 1329) };
        let s := events (ending (full (lathe2 .running) bars) j .place .reject .bar (done 4 0 0 4)) 62;
        ready s ⟨.place, some .reject, .slow, .step⟩ (done 4 0 0 4) ∧
          s.active = some (31, { j with state := .active }) ∧ j.short = true ∧ j.claim = false ∧
          (3 ≤ j.retries ∨ j.cancel ≠ .none ∨ j.retries < 3)) ∧
      firstLane (full (lathe2 .running) [bar 305 30000]).lane prog 9 ∧
      ∀ x, ¬takesClaim ((full (lathe2 .running) []).lane x) prog := by
  refine ⟨?_, ?_, ?_, ?_⟩
  · unfold State.completes; decide +kernel
  · unfold State.completes; decide +kernel
  · unfold firstLane takesClaim; decide +kernel
  · unfold takesClaim; decide +kernel

/-- EMPTY with PARTS, EMPTY with nothing and the spindle empty, and DUMP with the tray one below the threshold. -/
theorem witness_CollectTakesTrayToBin :
    let e : Job := { collect with step := .two };
    let d : Job := { collect with step := .four, parts := 78 };
    let base := withAcct State.reset 2 { acct .running none none with tray := 99 };
    let s := ending base e .empty (.lathe 2) .none (done 2 2 2 5);
    let v := events (ending base e .empty (.lathe 2) .none (done 2 2 0 5)) 62;
    let u := events (ending base d .dump (.bin 3) .parts (done 3 3 0 6)) 63;
    (∀ x ∈ [s, u, v], (x.account 2).program = some prog ∧ x.shuttle.haltPending = false ∧
        x.shuttle.state = .stepping ∧ x.sched.deferred = [] ∧ x.sched.stack = [] ∧ (x.account 2).tray < prog.threshold) ∧
      (s.shuttle.outstanding = some ⟨.empty, some (.lathe 2), .fast, .step⟩ ∧
        s.shuttle.heldWord = some (done 2 2 2 5) ∧ s.active = some (31, { e with state := .active }) ∧
        e.kind = .collect ∧ e.bin = some 3 ∧ e.cancel = .none ∧ e.step = .two ∧
        sensedLoad (done 2 2 2 5) = .parts) ∧
      (v.shuttle.outstanding = some ⟨.empty, some (.lathe 2), .fast, .step⟩ ∧
        v.shuttle.heldWord = some (done 2 2 0 5) ∧ v.active = some (31, { e with state := .active }) ∧
        sensedLoad (done 2 2 0 5) = .none ∧ (v.account 2).current = none ∧ v.findJob 2 .collect = some 31 ∧
        v.events.records.length + 2 ≤ 64 ∧
        (∀ i, (v.job i).all (fun j => decide (i ≠ 31 → j.eligible = false)) = true)) ∧
      (u.shuttle.outstanding = some ⟨.dump, some (.bin 3), .medium, .step⟩ ∧
        u.shuttle.heldWord = some (done 3 3 0 6) ∧ u.active = some (31, { d with state := .active }) ∧
        d.step = .four ∧ sensedLoad (done 3 3 0 6) = .none ∧
        (∀ i, (u.job i).all (fun j => decide (i ≠ 31 → j.eligible = false ∧ j.bin ≠ some 3)) = true) ∧
        u.events.records.length < 64) := by
  decide +kernel

/-- MOVE to the lathe done, its guard open and closed; MOVE to bin 3 done with room for the parts, without and with the
bin closed; 63 records held. -/
theorem witness_CollectMovesDone :
    let e : Job := { collect with step := .one };
    let d : Job := { collect with step := .three, parts := 78 };
    (∀ shut ∈ [false, true],
      let s0 := ending (lathe2 .running) e .move (.lathe 2) .none (done 2 2 0 2);
      let s := if shut then closed s0 else s0;
      s.completes ⟨.move, some (.lathe 2), .fast, .step⟩ (done 2 2 0 2) ∧
        s.active = some (31, { e with state := .active }) ∧ (s.line 2).guardClosed = shut ∧
        sensedLoad (done 2 2 0 2) = .none ∧ (s.account 2).program = some prog ∧ s.shuttle.haltPending = false ∧
        s.shuttle.state = .stepping ∧ s.sched.deferred = [] ∧ s.sched.stack = [] ∧
        ∀ i, (s.job i).all (fun j => decide (i ≠ 31 → j.eligible = false)) = true) ∧
      ∀ x ∈ [(922, true), (923, true), (0, false)],
        let s0 := events (ending (lathe2 .running) d .move (.bin 3) .parts (done 3 3 2 2)) 63;
        let s := s0.setBin 3 ⟨1000, x.1, x.2, 0⟩;
        s.completes ⟨.move, some (.bin 3), .medium, .step⟩ (done 3 3 2 2) ∧
          s.active = some (31, { d with state := .active }) ∧ d.kind = .collect ∧ d.bin = some 3 ∧ d.step = .three ∧
          d.cancel = .none ∧ sensedLoad (done 3 3 2 2) = .parts ∧ (s.account 2).program = some prog ∧
          s.shuttle.haltPending = false ∧ s.shuttle.state = .stepping ∧ s.sched.deferred = [] ∧ s.sched.stack = [] ∧
          s.events.records.length < 64 ∧
          decide ((s.bin 3).capacity - (s.bin 3).count - (s.bin 3).inFlight < d.parts) = decide (x.1 = 923) := by
  refine ⟨?_, ?_⟩ <;> unfold State.completes <;> decide +kernel

/-- A DUMP that leaves the tray at the threshold, with bin 3 open and closed; the job in slot 31 and a job of lathe 7 in
slot 0, so that the next job takes slot 1; 63 records held. -/
theorem witness_CollectAsksAgain :
    let d : Job := { collect with step := .four, parts := 78 };
    ∀ isOpen ∈ [false, true],
      let base := withAcct State.reset 2 { acct .running none none with tray := 100 };
      let s0 := events (ending base d .dump (.bin 3) .parts (done 3 3 0 6)) 63;
      let s := (closed (s0.setSlot 0 (some { deliver with lathe := 7, block := .noStock, claim := false }))).setBin 3
        ⟨1000, 0, isOpen, 78⟩;
      s.completes ⟨.dump, some (.bin 3), .medium, .step⟩ (done 3 3 0 6) ∧
        s.active = some (31, { d with state := .active }) ∧ d.kind = .collect ∧ d.bin = some 3 ∧ d.step = .four ∧
        d.cancel = .none ∧ sensedLoad (done 3 3 0 6) = .none ∧ (s.account 2).program = some prog ∧
        prog.threshold ≤ (s.account 2).tray ∧ (s.account 2).tFull = some 9000 ∧ (s.account 2).cycle = some 4200 ∧
        s.shuttle.haltPending = false ∧ s.shuttle.state = .stepping ∧ s.sched.deferred = [] ∧ s.sched.stack = [] ∧
        s.events.records.length < 64 ∧ s.job 1 = none ∧ (∀ i, i < (1 : Slot) → i ≠ 31 ∧ s.job i ≠ none) ∧
        (∀ i, (s.job i).all (fun j =>
          decide (i ≠ 31 → j.eligible = false ∧ j.bin ≠ some 3 ∧ (j.lathe = 2 → j.kind ≠ .collect))) = true) ∧
        (gateOf ⟨1000, 78, isOpen, 0⟩ prog.capacity = .none ↔ isOpen = true) := by
  unfold State.completes; decide +kernel

/-- A PICK at the cradle, in IDLE and STOPPED, with the home lane fit and not, that finds the bar or nothing; a PLACE in
lane 6, closed, and at the reject rack. -/
theorem witness_ReturnPlacesBarAtFront :
    (∀ st ∈ [AcctState.idle, .stopped], ∀ load ∈ [0, 1],
      let j : Job := { returning with step := .two, lane := none, bar := none };
      let s := events (ending (withLane (lathe2 st none (some staged)) 6 []) j .pick (.lathe 2) .none
        (done 2 2 load 3)) 63;
      s.completes ⟨.pick, some (.lathe 2), .fast, .step⟩ (done 2 2 load 3) ∧
        s.active = some (31, { j with state := .active }) ∧ j.kind = .ret ∧ j.step = .two ∧ j.cancel = .none ∧
        (s.account 2).cradle = some staged ∧ ((s.account 2).state = .idle ∨ (s.account 2).state = .stopped) ∧
        sensedLoad (done 2 2 load 3) = (if load = 0 then .none else .bar) ∧ homeFit (s.lane 6) staged.bar ∧
        staged.bar.home = 6 ∧ s.shuttle.state = .stepping ∧ s.shuttle.haltPending = false ∧
        s.sched.deferred = [] ∧ s.sched.stack = [] ∧ s.events.records.length < 64 ∧
        ∀ i, (s.job i).all (fun j' => decide (i ≠ 31 → j'.eligible = false)) = true) ∧
      (¬homeFit (State.reset.lane 6) staged.bar) ∧
      ∀ j ∈ [returning, { returning with lane := none }],
        let s0 := ending (lathe2 .running) j .place j.destination .bar (done 4 0 0 4);
        let s := s0.setLane 6 { s0.lane 6 with isOpen := false };
        s.completes ⟨.place, some j.destination, .slow, .step⟩ (done 4 0 0 4) ∧
          s.active = some (31, { j with state := .active }) ∧
          j.kind = .ret ∧ j.step = .four ∧ j.bar = some (bar 841 30000) ∧ sensedLoad (done 4 0 0 4) = .none ∧
          s.shuttle.state = .stepping ∧ s.shuttle.haltPending = false ∧ s.sched.deferred = [] ∧ s.sched.stack = [] ∧
          (∀ i, (s.job i).all (fun j' => decide (i ≠ 31 → j'.eligible = false)) = true) ∧
          ∀ k, j.lane = some k → (s.lane k).isOpen = false := by
  refine ⟨?_, by decide +kernel, ?_⟩ <;> unfold State.completes <;> decide +kernel

/-- A PICK that finds the cradle bar: in RUNNING and LOST with the compare one tick short of T_out less LOOKAHEAD and
at it, with no DELIVER job, with one and short of stock; in AWAIT the same three. -/
theorem witness_ReturnPickAsksForBar :
    let r : Job := { returning with step := .two, lane := none, bar := none, state := .active };
    let ready (s : State) : Prop :=
      s.completes ⟨.pick, some (.lathe 2), .fast, .step⟩ (done 2 2 1 3) ∧ s.active = some (31, r) ∧ r.kind = .ret ∧
        r.step = .two ∧ r.cancel = .none ∧ (s.account 2).cradle = some staged ∧ sensedLoad (done 2 2 1 3) = .bar ∧
        s.shuttle.state = .stepping ∧ s.shuttle.haltPending = false ∧ s.sched.deferred = [] ∧ s.sched.stack = [] ∧
        (s.account 2).program.isSome = true ∧
        ∀ i, (s.job i).all (fun j => decide (i ≠ 31 → j.eligible = false)) = true;
    let picking (a : Account) (held : Bool) (now : Time) : State :=
      let s := at_ (ending (withAcct State.reset 2 a) r .pick (.lathe 2) .none (done 2 2 1 3)) now;
      if held then s.setSlot 30 (some { deliver with block := .noStock, claim := false, lane := none }) else s;
    (∀ x ∈ [(false, false), (true, false), (false, true)], ∀ st ∈ [AcctState.running, .lost],
      ∀ now ∈ [14999, 15000],
        let a := { acct st (some (spindle 1310)) (some staged) with tOut := some 75000, stockShort := x.2 };
        let s := picking { a with holdSet := a.reasons } x.1 (BitVec.ofNat 32 now);
        ready s ∧ (s.account 2).state = st ∧ (s.account 2).current = some (spindle 1310) ∧
          (s.account 2).tOut = some 75000 ∧ (s.account 2).partsLeft = some 1 ∧ (s.account 2).cycle = some 4200 ∧
          atOrBefore (75000 - BitVec.ofNat 32 s.params.lookahead) s.now = decide (now = 15000) ∧
          (s.account 2).stockShort = x.2 ∧ s.hasJob 2 .deliver = x.1 ∧ s.emptySlot = some 0) ∧
      ∀ x ∈ [(false, false), (true, false), (false, true)],
        let s := picking { acct .await none (some staged) with stockShort := x.2 } x.1 0;
        ready s ∧ (s.account 2).state = .await ∧ (s.account 2).current = none ∧
          s.findJob 2 .deliver = (if x.1 then some 30 else none) ∧ (s.account 2).stockShort = x.2 ∧
          s.emptySlot = some 0 := by
  refine ⟨?_, ?_⟩ <;> unfold State.completes <;> decide +kernel

/-- A MOVE to the cradle done with the bar there, and without one in RUNNING; a MOVE with the bar done to lane 6 and to
REJECT with 19 bars there and with 20; 63 records held. -/
theorem witness_ReturnMovesDone :
    let ready (s : State) (o : OutOrder) (w : Word) (j : Job) : Prop :=
      s.completes o w ∧ s.active = some (31, j) ∧ j.kind = .ret ∧ j.cancel = .none ∧ s.shuttle.state = .stepping ∧
        s.shuttle.haltPending = false ∧ s.sched.deferred = [] ∧ s.sched.stack = [] ∧ s.events.records.length < 64 ∧
        ∀ i, (s.job i).all (fun j => decide (i ≠ 31 → j.eligible = false)) = true;
    (∀ c ∈ [some staged, none, some { staged with loading := true }],
      let r : Job := { returning with step := .one, lane := none, bar := none, state := .active };
      let s := events (ending (lathe2 .running none c) r .move (.lathe 2) .none (done 2 2 0 2)) 63;
      ready s ⟨.move, some (.lathe 2), .fast, .step⟩ (done 2 2 0 2) r ∧ r.step = .one ∧
        sensedLoad (done 2 2 0 2) = .none ∧ (s.account 2).cradle = c ∧ (s.account 2).state ≠ .await) ∧
      ∀ x ∈ [((some 6 : Option LaneNo), 20), (none, 19), (none, 20)],
        let r : Job := { returning with step := .three, lane := x.1, state := .active };
        let w := if x.1 = none then done 4 0 1 2 else done 1 6 1 2;
        let s0 := events (ending (lathe2 .running) r .move r.destination .bar w) 63;
        let s := s0.setRack { s0.rack with reject := x.2 };
        ready s ⟨.move, some r.destination, .slow, .step⟩ w r ∧ r.step = .three ∧ sensedLoad w = .bar ∧
          s.rack.reject = x.2 := by
  unfold State.completes; decide +kernel

/-- Home failed, a halt pending, no job, and a job frozen at its MOVE to lane 6. Steps frozen in a fault with 63 records
held: each step of a DELIVER and of a COLLECT job, at an open guard and a closed one, at a full reject rack, and at a
bin that is open and one that is closed; a RETURN at its PICK, with the bar there and without it. -/
theorem witness_ClearCompleteEndsFault :
    let o : OutOrder := ⟨.clear, some (.lane 6), .fast, .clear⟩;
    let s := ordered (shuttle State.reset .fault) o (some 0);
    let home := s.setShuttle { s.shuttle with homeFailed := true };
    let halts := s.setShuttle { s.shuttle with haltPending := true };
    let frozenIn (base : State) (j : Job) (l : Load) : State :=
      events (ordered (shuttle (active base j .unissued) .fault l) o (some 0)) 63;
    let frozen := frozenIn State.reset deliver .none;
    let base := lathe2 .running none (some ⟨bar 841 30000, false⟩);
    let shutBin := base.setBin 3 { base.bin 3 with isOpen := false };
    let full := base.setRack { base.rack with reject := 20 };
    let openBin := base.setBin 3 { base.bin 3 with isOpen := true, capacity := 78 };
    let d : Job := { deliver with claim := false, bar := some (bar 841 30000) };
    let c : Job := { collect with parts := 78 };
    let r : Job := { returning with step := .two, lane := none, bar := none };
    let bare := frozenIn (lathe2 .running) r .none;
    (∀ u ∈ [s, home, halts, frozen, bare],
        u.shuttle.outstanding = some o ∧ u.shuttle.heldWord = some 0 ∧ o.kind = .clear) ∧
      home.shuttle.homeFailed = true ∧ (halts.shuttle.homeFailed = false ∧ halts.shuttle.haltPending = true) ∧
      (s.shuttle.homeFailed = false ∧ s.shuttle.haltPending = false ∧ s.seq.job = none) ∧ s.noneReady ∧
      (frozen.shuttle.homeFailed = false ∧ frozen.shuttle.haltPending = false ∧
        frozen.active = some (31, { deliver with state := .active }) ∧ deliver.kind = .deliver ∧
        deliver.step = .one ∧ deliver.lane = some 6) ∧
      (∀ x ∈ [(base, { deliver with step := .two }, Load.none, Order.mk .pick (.lane 6)),
          (base, { d with step := .three }, .bar, ⟨.move, .lathe 2⟩),
          (closed base, { d with step := .four }, .bar, ⟨.place, .lathe 2⟩),
          (full, { d with step := .four, short := true }, .bar, ⟨.place, .reject⟩),
          (closed base, { c with step := .two }, .none, ⟨.empty, .lathe 2⟩),
          (shutBin, { c with step := .four }, .parts, ⟨.dump, .bin 3⟩),
          (openBin, { c with step := .four }, .parts, ⟨.dump, .bin 3⟩),
          (closed base, r, .none, ⟨.pick, .lathe 2⟩)],
        let u := frozenIn x.1 x.2.1 x.2.2.1;
        u.shuttle.outstanding = some o ∧ u.shuttle.heldWord = some 0 ∧ u.shuttle.homeFailed = false ∧
          u.shuttle.haltPending = false ∧ u.active = some (31, { x.2.1 with state := .active }) ∧
          x.2.1.order = some x.2.2.2 ∧ u.events.records.length < 64) ∧
      ((base.line 2).guardClosed = false ∧ ((closed base).line 2).guardClosed = true ∧ 20 ≤ full.rack.reject ∧
        (base.account 2).cradle = some ⟨bar 841 30000, false⟩ ∧ (shutBin.bin 3).isOpen = false ∧
        (openBin.bin 3).isOpen = true ∧
        ¬(openBin.bin 3).capacity - (openBin.bin 3).count - (openBin.bin 3).inFlight < 78) ∧
      (bare.shuttle.homeFailed = false ∧ bare.shuttle.haltPending = false ∧
        bare.active = some (31, { r with state := .active }) ∧ r.kind = .ret ∧ r.step = .two ∧
        (bare.account 2).cradle = none ∧ (bare.account 2).state ≠ .await ∧ bare.sched.deferred = []) ∧
      bare.noOtherReady 31 := by
  exact ⟨by decide +kernel, by decide +kernel, by decide +kernel, by decide +kernel,
    ⟨by decide +kernel, all_jobs (P := fun _ j => j.eligible = false) (by decide +kernel)⟩, by decide +kernel,
    by decide +kernel, by decide +kernel, by decide +kernel, by decide +kernel,
    fun i j ne h => all_jobs (P := fun i j => i ≠ 31 → j.eligible = false) (by decide +kernel) i j h ne⟩

/-- A step from reset answers a next state, and reset is of every kept kind. -/
theorem witness_StepKeeps :
    after (step State.reset) (fun t => t.timer.binary == 1) = true ∧ State.reset.eventsOk ∧ State.reset.binsOk ∧
      State.reset.holdOkAt 11 := by
  exact ⟨by decide +kernel, ⟨by decide +kernel, by decide +kernel⟩, fun b => ⟨by decide +revert +kernel, by decide +revert +kernel,
    by decide +revert +kernel⟩, by decide +kernel, by decide +kernel⟩

/-- A SETUP changes the program, and so does a POWER_ON_RESET. -/
theorem witness_OnlySetupChangesProgram :
    after (exec (.setup 11 (setupMsg none)) State.reset) (fun t =>
        (t.account 11).program != (State.reset.account 11).program) = true ∧
      after (exec .powerOnReset (lathe2 .running)) (fun t =>
        (t.account 2).program != ((lathe2 .running).account 2).program) = true := by
  decide +kernel

end Sys2Proof.Tests
end

/-! PROOFS. The lathe account: its power-on reset (R5) and the refusals of SETUP (R7, R9). -/
namespace Sys2Proof.Machine

open Sys2Proof

/-! ### The power-on values of each place (R5, R62, R182) -/

@[simp] theorem State.reset_account (n : Lathe) : State.reset.account n = .powerOn := Bank.read_fill _ _
@[simp] theorem State.reset_line (n : Lathe) : State.reset.line n = .powerOn := Bank.read_fill _ _
@[simp] theorem State.reset_port (p : PortNo) : State.reset.port p = .powerOn := Bank.read_fill _ _

/-- A power-on reset keeps nothing of the state but what is not the part's to reset. -/
theorem exec_powerOnReset (s : State) :
    exec .powerOnReset s = .next (((State.reset.setPending s.pending).setPins s.pins).setDraws s.draws) := rfl

/-- Settles O5: each place of the reset state holds its power-on record, and the three fields that a reset carries over
are none of the account's, its line's, its port's or the event queue's. -/
theorem powerOnResetAccounts : Obligations.PowerOnResetAccounts := by
  intro s
  refine ⟨_, exec_powerOnReset s, fun n => ⟨?account, ?hold, ?queue, ?register⟩, rfl⟩
  case account => simp [Account.powerOn, HoldSet.noProgramOnly]
  case hold => simp [Line.powerOn]
  case queue => simp [Port.powerOn]
  case register => simp [Port.powerOn]

/-! ### A request taken at a lathe port (R177, R184) -/

/-- No lathe's port is the supervisor's. -/
theorem lathePort_ne_supervisorPort (n : Lathe) : lathePort n ≠ supervisorPort :=
  fun h => absurd (congrArg Fin.val h) n.isLt.ne

/-- A refusal on a lathe port is the 42h message. -/
theorem State.refuse_lathePort (s : State) (n : Lathe) (kind : Byte) (c : RefusalCode) :
    s.refuse (lathePort n) kind c = s.reply (lathePort n) ⟨0x42, [kind, c.code]⟩ := by
  simp [State.refuse, refusedMsg, lathePort_ne_supervisorPort]

/-- A port with no reply to send has its request handled. -/
theorem State.taken_of_not_replyPending {s : State} {p : PortNo} (f : State → State)
    (h : (s.port p).replyPending = false) : s.taken p f = f s := by
  simp [State.taken, h]

/-! ### The refusals of SETUP (R7, R9) -/

theorem exec_setup (n : Lathe) (m : SetupMsg) (s : State) :
    exec (.setup n m) s = .next (s.taken (lathePort n) fun s => s.handleSetup n m) := rfl

/-- The field check of R7 fails exactly where some field is out of its range. -/
theorem setupWellFormed_eq_false_iff (m : SetupMsg) :
    setupWellFormed m = false ↔
      m.material.toNat = 0 ∨ m.diameter.toNat < 1 ∨ 15 < m.diameter.toNat ∨ m.part.toNat < 10 ∨
        20000 < m.part.toNat ∨ m.capacity.toNat = 0 ∨ 7 < m.bin.toNat ∨ 4 ≤ m.options.toNat ∨
        (m.options.getLsbD 0 = false ∧ m.remaining ≠ none) ∨ (m.options.getLsbD 0 = true ∧ m.remaining = none) ∨
        (∃ r, m.remaining = some r ∧ (r.toNat = 0 ∨ 40000 < r.toNat)) := by
  have zero {w : Nat} (x : BitVec w) : x = 0#w ↔ x.toNat = 0 := by simp [← BitVec.toNat_inj]
  unfold setupWellFormed barPresent
  cases bar : m.remaining with
  | none =>
    cases m.options.getLsbD 0 with
    | true => simp
    | false =>
      simp [zero]
      omega
  | some r =>
    cases m.options.getLsbD 0 with
    | true =>
      simp [zero]
      omega
    | false => simp

section SetupRefusal
variable {s : State} {n : Lathe} {m : SetupMsg}

/-- The field check comes before every state check (R7). -/
theorem State.setupRefusal_of_malformed (h : setupWellFormed m = false) :
    s.setupRefusal n m = some .badField := by
  simp [State.setupRefusal, h]

theorem State.setupRefusal_of_loading (ok : setupWellFormed m = true) (h : (s.account n).state = .loading) :
    s.setupRefusal n m = some .wrongState := by
  simp [State.setupRefusal, ok, h]

theorem State.setupRefusal_of_running (ok : setupWellFormed m = true) (h : (s.account n).state = .running) :
    s.setupRefusal n m = some .barInSpindle := by
  simp [State.setupRefusal, ok, h]

/-- In LOADING and RUNNING the account state is checked before the delivery (R9). -/
theorem State.setupRefusal_of_delivering (ok : setupWellFormed m = true) (hl : (s.account n).state ≠ .loading)
    (hr : (s.account n).state ≠ .running) (h : s.delivering n = true) :
    s.setupRefusal n m = some .deliveryInFlight := by
  cases state : (s.account n).state
  case loading => exact absurd state hl
  case running => exact absurd state hr
  all_goals simp [State.setupRefusal, ok, h, state]

theorem State.delivering_of_active {i : Slot} {j : Job} (h : s.active = some (i, j)) (kind : j.kind = .deliver)
    (lathe : j.lathe = n) (load : s.shuttle.load = .bar) : s.delivering n = true := by
  simp [State.delivering, h, kind, lathe, load]

theorem State.handleSetup_of_refusal {c : RefusalCode} (h : s.setupRefusal n m = some c) :
    s.handleSetup n m = s.reply (lathePort n) ⟨0x42, [0x21, c.code]⟩ := by
  unfold State.handleSetup
  rw [h]
  exact s.refuse_lathePort n _ _

/-- A SETUP that is refused does nothing but queue its refusal. -/
theorem exec_setup_of_refusal {c : RefusalCode} (free : (s.port (lathePort n)).replyPending = false)
    (h : s.setupRefusal n m = some c) :
    exec (.setup n m) s = .next (s.reply (lathePort n) ⟨0x42, [0x21, c.code]⟩) := by
  rw [exec_setup, State.taken_of_not_replyPending _ free, State.handleSetup_of_refusal h]

end SetupRefusal

/-- Settles O24: each hypothesis fixes the refusal that `State.setupRefusal` gives, and a refused SETUP does nothing but
queue it. -/
theorem setupRefusals : Obligations.SetupRefusals := by
  intro n m s free bad refused
  have malformed : setupWellFormed m = false ↔ bad := setupWellFormed_eq_false_iff m
  refine ⟨fun h => exec_setup_of_refusal free (State.setupRefusal_of_malformed (malformed.2 h)), fun h => ?_⟩
  have ok : setupWellFormed m = true := eq_true_of_ne_false (mt malformed.1 h)
  refine ⟨fun loading => ?_, fun running => ?_, fun i j hl hr active kind lathe load => ?_⟩
  · exact exec_setup_of_refusal free (State.setupRefusal_of_loading ok loading)
  · exact exec_setup_of_refusal free (State.setupRefusal_of_running ok running)
  · have carrying := State.delivering_of_active active kind lathe load
    exact exec_setup_of_refusal free (State.setupRefusal_of_delivering ok hl hr carrying)

end Sys2Proof.Machine

/-! PROOFS. The tick selection: what TICK SET answers and what an accepted reselection sets and keeps (R52, R54). -/
namespace Sys2Proof.Machine

open Sys2Proof

/-! ### Replies on LP12 (R184) -/

/-- An acknowledgement on LP12 is the 50h message. -/
theorem State.ackSup_eq_reply (s : State) (kind : Byte) :
    s.ackSup kind = s.reply supervisorPort ⟨0x50, [kind]⟩ := by
  simp [State.ackSup, State.ack, ackMsg]

/-- A refusal on LP12 is the 51h message. -/
theorem State.refuseSup_eq_reply (s : State) (kind : Byte) (c : RefusalCode) :
    s.refuseSup kind c = s.reply supervisorPort ⟨0x51, [kind, c.code]⟩ := by
  simp [State.refuseSup, State.refuse, refusedMsg]

/-! ### The seven values of a tick selection (R52) -/

@[simp] theorem TickSel.ofMs_ms (sel : TickSel) : TickSel.ofMs sel.ms = some sel := by
  cases sel <;> rfl

/-- Every value that names a selection is that selection's number of milliseconds, so it is one of the seven. -/
theorem TickSel.ofMs_eq_none {v : Nat} (h : v ∉ [1, 2, 5, 10, 20, 50, 100]) : TickSel.ofMs v = none := by
  unfold TickSel.ofMs
  split
  case h_8 => rfl
  all_goals exact absurd (by decide) h

/-! ### The test for quiet (R54, step 3) -/

theorem State.quiet_iff (s : State) :
    s.quiet = true ↔
      (∀ n, (s.account n).state = .noProg) ∧ (∀ i, s.job i = none) ∧ s.sched.deferred = [] := by
  simp [State.quiet, allSlots, and_assoc]

/-! ### What a reselection sets and what it keeps (R54, step 4 and the table after it) -/

section Reselect
variable (s : State) (sel : TickSel)

/-- A reselection reaches the hall timer, the lines and the accounts alone. -/
theorem State.reselect_frame :
    s.reselect sel =
      { s with
        timer := (s.reselect sel).timer, lines := (s.reselect sel).lines, accounts := (s.reselect sel).accounts } := rfl

/-- The capture registers, the guard-wait timer and the step timer are kept. -/
theorem State.reselect_timer :
    (s.reselect sel).timer =
      { s.timer with
        sel := sel, binary := 0, decimal := 0, time := 0, compare := (s.reselect sel).timer.compare } := rfl

@[simp] theorem State.reselect_compareOf (n : Lathe) :
    (s.reselect sel).compareOf n = { s.compareOf n with armed := false, spent := false } :=
  Bank.read_each _ _ _

@[simp] theorem State.reselect_line (n : Lathe) :
    (s.reselect sel).line n = { s.line n with debounce := 255 } :=
  Bank.read_each _ _ _

@[simp] theorem State.reselect_account (n : Lathe) :
    (s.reselect sel).account n = { s.account n with loadTimer := .stopped } :=
  Bank.read_each _ _ _

end Reselect

/-! ### The four answers of TICK SET (R54, in its order) -/

section TickSet
variable {s : State} {x : Byte} {sel : TickSel}

/-- With no reply left to send on LP12 the request is handled whole. -/
theorem exec_tickSet (free : (s.port supervisorPort).replyPending = false) :
    exec (.tickSet x) s = .next (s.handleTickSet x) :=
  congrArg Host.Outcome.next (State.taken_of_not_replyPending _ free)

theorem State.handleTickSet_of_unnamed (h : TickSel.ofMs x.toNat = none) :
    s.handleTickSet x = s.reply supervisorPort ⟨0x51, [0x62, 1]⟩ := by
  unfold State.handleTickSet
  rw [h]
  exact s.refuseSup_eq_reply _ _

theorem State.handleTickSet_of_held (h : TickSel.ofMs x.toNat = some sel) (held : s.timer.sel = sel) :
    s.handleTickSet x = s.reply supervisorPort ⟨0x50, [0x62]⟩ := by
  simp [State.handleTickSet, h, held, State.ackSup_eq_reply]

theorem State.handleTickSet_of_not_quiet (h : TickSel.ofMs x.toNat = some sel) (other : s.timer.sel ≠ sel)
    (busy : s.quiet = false) : s.handleTickSet x = s.reply supervisorPort ⟨0x51, [0x62, 9]⟩ := by
  simp [State.handleTickSet, h, other.symm, busy, State.refuseSup_eq_reply, RefusalCode.code]

theorem State.handleTickSet_of_quiet (h : TickSel.ofMs x.toNat = some sel) (other : s.timer.sel ≠ sel)
    (quiet : s.quiet = true) :
    s.handleTickSet x = (s.reselect sel).reply supervisorPort ⟨0x50, [0x62]⟩ := by
  simp [State.handleTickSet, h, other.symm, quiet, State.ackSup_eq_reply]

end TickSet

/-- Settles O34: the cases are the four answers of R54 in its order, and the state of the accepted request is
`State.reselect`. -/
theorem tickSetReselects : Obligations.TickSetReselects := by
  intro x s free
  rw [exec_tickSet free]
  refine ⟨fun unnamed => ?badField, fun sel value => ?_⟩
  case badField => rw [State.handleTickSet_of_unnamed (TickSel.ofMs_eq_none unnamed)]
  have named : TickSel.ofMs x.toNat = some sel := value ▸ sel.ofMs_ms
  refine ⟨fun held => ?held, fun other busy => ?notQuiet, fun other quiet => ?accepted⟩
  case held => rw [State.handleTickSet_of_held named held]
  case notQuiet =>
    have busy' : s.quiet = false := eq_false_of_ne_true (mt s.quiet_iff.1 busy)
    rw [State.handleTickSet_of_not_quiet named other busy']
  case accepted =>
    rw [State.handleTickSet_of_quiet named other (s.quiet_iff.2 quiet)]
    exact ⟨_, rfl, s.reselect_frame sel, s.reselect_timer sel, fun n => by simp⟩

end Sys2Proof.Machine

/-! PROOFS. The bar rack: LANE ASSIGN and UNSTOCK (R71, R75). -/
namespace Sys2Proof.Machine

open Sys2Proof

/-! ### A request that names a record by number -/

section Numbered
variable (s : State) (n : Nat) (kind : Byte) {number : Byte} (f : Fin n → State)

/-- A number past the last record is refused with BAD_FIELD on LP12. -/
theorem State.numbered_of_le (h : n ≤ number.toNat) :
    s.numbered n kind number f = s.reply supervisorPort ⟨0x51, [kind, 1]⟩ := by
  simp [State.numbered, Nat.not_lt.2 h, State.refuseSup_eq_reply, RefusalCode.code]

/-- The number of a record reaches that record. -/
theorem State.numbered_of_val_eq {k : Fin n} (h : k.val = number.toNat) : s.numbered n kind number f = f k := by
  have inRange : number.toNat < n := h ▸ k.isLt
  have named : (⟨number.toNat, inRange⟩ : Fin n) = k := Fin.ext h.symm
  simp [State.numbered, inRange, named]

end Numbered

/-! ### LANE ASSIGN (R71, in its order) -/

/-- The check of R71, step 1: a material code and a diameter class that do not go together. -/
def badLaneCodes (material diameter : Byte) : Bool :=
  (material = 0 && diameter != 0) ||
    (material != 0 && !(decide (1 ≤ diameter.toNat) && decide (diameter.toNat ≤ 15)))

theorem badLaneCodes_iff (m d : Byte) :
    badLaneCodes m d = true ↔ (m.toNat = 0 ∧ d.toNat ≠ 0) ∨ (m.toNat ≠ 0 ∧ (d.toNat < 1 ∨ 15 < d.toNat)) := by
  have zero (x : Byte) : x = 0#8 ↔ x.toNat = 0 := by simp [← BitVec.toNat_inj]
  simp [badLaneCodes, zero]

section LaneAssign
variable {s : State} {x m d : Byte} {k : LaneNo}

/-- With no reply left to send on LP12 the request is handled whole. -/
theorem exec_laneAssign (free : (s.port supervisorPort).replyPending = false) :
    exec (.laneAssign x m d) s = .next (s.handleLaneAssign x m d) :=
  congrArg Host.Outcome.next (State.taken_of_not_replyPending _ free)

/-- The order of the checks: the lane's number, the two codes, the lane's bars and reservation. -/
theorem State.handleLaneAssign_eq (s : State) (x m d : Byte) :
    s.handleLaneAssign x m d =
      s.numbered 24 0x65 x fun k =>
        if badLaneCodes m d then s.refuseSup 0x65 .badField
        else if !(s.lane k).bars.isEmpty || (s.lane k).reserved != 0 then s.refuseSup 0x65 .laneBusy
        else (s.setLane k { s.lane k with material := m.toNat, diameter := d.toNat }).ackSup 0x65 := rfl

theorem State.handleLaneAssign_of_badField (h : 23 < x.toNat ∨ badLaneCodes m d = true) :
    s.handleLaneAssign x m d = s.reply supervisorPort ⟨0x51, [0x65, 1]⟩ := by
  rw [State.handleLaneAssign_eq]
  rcases Nat.lt_or_ge 23 x.toNat with beyond | inRack
  · exact s.numbered_of_le _ _ _ beyond
  · have bad : badLaneCodes m d = true := h.resolve_left (Nat.not_lt.2 inRack)
    rw [s.numbered_of_val_eq _ _ _ (k := ⟨x.toNat, Nat.lt_succ_of_le inRack⟩) rfl, if_pos bad]
    exact s.refuseSup_eq_reply _ _

theorem State.handleLaneAssign_of_busy (named : k.val = x.toNat) (ok : badLaneCodes m d = false)
    (busy : (s.lane k).bars ≠ [] ∨ (s.lane k).reserved ≠ 0) :
    s.handleLaneAssign x m d = s.reply supervisorPort ⟨0x51, [0x65, 14]⟩ := by
  rw [State.handleLaneAssign_eq, s.numbered_of_val_eq _ _ _ named]
  simp [ok, busy, State.refuseSup_eq_reply, RefusalCode.code]

theorem State.handleLaneAssign_of_empty (named : k.val = x.toNat) (ok : badLaneCodes m d = false)
    (noBar : (s.lane k).bars = []) (noReturn : (s.lane k).reserved = 0) :
    s.handleLaneAssign x m d =
      (s.setLane k { s.lane k with material := m.toNat, diameter := d.toNat }).reply supervisorPort
        ⟨0x50, [0x65]⟩ := by
  rw [State.handleLaneAssign_eq, s.numbered_of_val_eq _ _ _ named]
  simp [ok, noBar, noReturn, State.ackSup_eq_reply]

end LaneAssign

/-- Settles O36: the cases are the three outcomes of R71 in its order. -/
theorem laneAssignSetsLane : Obligations.LaneAssignSetsLane := by
  intro x m d s free badCodes
  have codes : badLaneCodes m d = true ↔ badCodes := badLaneCodes_iff m d
  rw [exec_laneAssign free]
  refine ⟨fun bad => ?badField, fun k named good => ?_⟩
  case badField => rw [State.handleLaneAssign_of_badField (bad.imp_right codes.2)]
  have ok : badLaneCodes m d = false := eq_false_of_ne_true (mt codes.1 good)
  refine ⟨fun busy => ?busy, fun noBar noReturn => ?accepted⟩
  case busy => rw [State.handleLaneAssign_of_busy named ok busy]
  case accepted => rw [State.handleLaneAssign_of_empty named ok noBar noReturn]

/-! ### UNSTOCK (R75, in its order) -/

/-- A lane has no available stock exactly where its claims take up all its bars (R66). -/
theorem LaneRecord.available_eq_zero_iff (l : LaneRecord) : l.available = 0 ↔ l.bars.length ≤ l.claimed :=
  Nat.sub_eq_zero_iff_le

section Unstock
variable {s : State} {x : Byte} {k : LaneNo} {front : List BarRecord} {b : BarRecord}

/-- With no reply left to send on LP12 the request is handled whole. -/
theorem exec_unstock (free : (s.port supervisorPort).replyPending = false) :
    exec (.unstock x) s = .next (s.handleUnstock x) :=
  congrArg Host.Outcome.next (State.taken_of_not_replyPending _ free)

theorem State.handleUnstock_of_badField (h : 23 < x.toNat) :
    s.handleUnstock x = s.reply supervisorPort ⟨0x51, [0x6A, 1]⟩ :=
  s.numbered_of_le _ _ _ h

theorem State.handleUnstock_of_empty (named : k.val = x.toNat) (noBar : (s.lane k).bars = []) :
    s.handleUnstock x = s.reply supervisorPort ⟨0x51, [0x6A, 12]⟩ := by
  rw [State.handleUnstock, s.numbered_of_val_eq _ _ _ named]
  simp [noBar, State.refuseSup_eq_reply, RefusalCode.code]

/-- With a tail bar in the lane, the available stock alone decides. -/
theorem State.handleUnstock_of_tail (named : k.val = x.toNat) (tail : (s.lane k).bars = front ++ [b]) :
    s.handleUnstock x =
      if (s.lane k).available = 0 then s.refuseSup 0x6A .laneClaimed
      else (s.setLane k { s.lane k with bars := front }).answer (barMsg 0x6A b.id) := by
  rw [State.handleUnstock, s.numbered_of_val_eq _ _ _ named]
  simp [tail]

theorem State.handleUnstock_of_claimed (named : k.val = x.toNat) (tail : (s.lane k).bars = front ++ [b])
    (claimed : (s.lane k).bars.length ≤ (s.lane k).claimed) :
    s.handleUnstock x = s.reply supervisorPort ⟨0x51, [0x6A, 13]⟩ := by
  rw [State.handleUnstock_of_tail named tail, if_pos ((LaneRecord.available_eq_zero_iff _).2 claimed)]
  exact s.refuseSup_eq_reply _ _

theorem State.handleUnstock_of_available (named : k.val = x.toNat) (tail : (s.lane k).bars = front ++ [b])
    (available : (s.lane k).claimed < (s.lane k).bars.length) :
    s.handleUnstock x =
      (s.setLane k { s.lane k with bars := front }).reply supervisorPort ⟨0x55, 0x6A :: b2 b.id⟩ := by
  have left : (s.lane k).available ≠ 0 := mt (LaneRecord.available_eq_zero_iff _).1 (Nat.not_le.2 available)
  rw [State.handleUnstock_of_tail named tail, if_neg left, State.answer, barMsg]

end Unstock

/-- Settles O40: the cases are the refusals of R75 in its order and the removal of the tail bar. -/
theorem unstockTakesTail : Obligations.UnstockTakesTail := by
  intro x s free
  rw [exec_unstock free]
  refine ⟨fun beyond => ?badField, fun k named => ⟨fun noBar => ?empty, fun front b tail => ⟨?claimed, ?taken⟩⟩⟩
  case badField => rw [State.handleUnstock_of_badField beyond]
  case empty => rw [State.handleUnstock_of_empty named noBar]
  case claimed =>
    intro claimed
    rw [State.handleUnstock_of_claimed named tail claimed]
  case taken =>
    intro available
    rw [State.handleUnstock_of_available named tail available]

end Sys2Proof.Machine

/-! PROOFS. The supervisor link: the parameters, the supervisor's hold reason, the event queue and the identity (R186,
R189, R190, R193, R194). -/
namespace Sys2Proof.Machine

open Sys2Proof

/-! ### The nine parameters as lists, in the order of their numbers (R185) -/

/-- The ranges of parameters 1 to 9. -/
def paramRanges : List (Nat × Nat) :=
  [(0, 1000000), (0, 1000000), (100, 60000), (100, 60000), (100, 60000), (100, 30000), (0, 255), (1, 64), (0, 4095)]

/-- The values held by parameters 1 to 9. -/
def Params.values (p : Params) : List Nat :=
  [p.lookahead, p.preemptMargin, p.loadLimit, p.guardWait, p.stepLimitMove, p.stepLimitHandle, p.cutDebounce,
    p.attnLevel, p.guardReport.toNat]

/-- `paramRange` reads the list of ranges by the parameter's number, which counts from 1. -/
theorem paramRange_succ : ∀ k, paramRange (k + 1) = paramRanges[k]?
  | 0 | 1 | 2 | 3 | 4 | 5 | 6 | 7 | 8 => rfl
  | _ + 9 => rfl

theorem paramRange_eq_none {k : Nat} (h : k = 0 ∨ 9 < k) : paramRange k = none := by
  rcases h with rfl | beyond
  · rfl
  · obtain ⟨i, rfl⟩ := Nat.exists_eq_add_of_lt beyond
    rw [paramRange_succ, List.getElem?_eq_none (by simp [paramRanges])]

section Params
variable (p : Params) {k : Nat}

/-- `Params.value` reads the list of held values by the parameter's number. -/
theorem Params.value_succ {v : Nat} (h : p.values[k]? = some v) : p.value (k + 1) = v := by
  obtain ⟨inRange, rfl⟩ := List.getElem?_eq_some_iff.1 h
  match k, inRange with
  | 0, _ | 1, _ | 2, _ | 3, _ | 4, _ | 5, _ | 6, _ | 7, _ | 8, _ => rfl

/-- A parameter holding a value of its range changes that place of the list alone. GUARD_REPORT, the one held as a bit
field, has the width of its range. -/
theorem Params.values_hold_clamp {r : Nat × Nat} (h : paramRanges[k]? = some r) (v : Nat) :
    (p.hold (k + 1) (clamp r.1 r.2 v)).values = p.values.set k (clamp r.1 r.2 v) := by
  obtain ⟨inRange, rfl⟩ := List.getElem?_eq_some_iff.1 h
  match k, inRange with
  | 0, _ | 1, _ | 2, _ | 3, _ | 4, _ | 5, _ | 6, _ | 7, _ => rfl
  | 8, _ =>
    have fits : clamp 0 4095 v < 4096 := by unfold clamp; omega
    simp [Params.hold, Params.values, paramRanges, fits]

end Params

/-! ### PARAM SET and PARAM GET (R186) -/

section Param
variable {s : State} {x : Byte} {value : BitVec 32} {k : Nat} {r : Nat × Nat}

/-- With no reply left to send on LP12 the request is handled whole. -/
theorem exec_paramSet (free : (s.port supervisorPort).replyPending = false) :
    exec (.paramSet x value) s = .next (s.handleParamSet x value) :=
  congrArg Host.Outcome.next (State.taken_of_not_replyPending _ free)

theorem exec_paramGet (free : (s.port supervisorPort).replyPending = false) :
    exec (.paramGet x) s = .next (s.handleParamGet x) :=
  congrArg Host.Outcome.next (State.taken_of_not_replyPending _ free)

theorem State.handleParamSet_of_badField (h : paramRange x.toNat = none) :
    s.handleParamSet x value = s.reply supervisorPort ⟨0x51, [0x60, 1]⟩ := by
  unfold State.handleParamSet
  rw [h]
  exact s.refuseSup_eq_reply _ _

theorem State.handleParamGet_of_badField (h : paramRange x.toNat = none) :
    s.handleParamGet x = s.reply supervisorPort ⟨0x51, [0x61, 1]⟩ := by
  unfold State.handleParamGet
  rw [h]
  exact s.refuseSup_eq_reply _ _

theorem State.handleParamGet_of_named (h : paramRange x.toNat = some r) :
    s.handleParamGet x = s.reply supervisorPort ⟨0x52, x :: b4 (s.params.value x.toNat)⟩ := by
  unfold State.handleParamGet
  rw [h]
  rfl

/-- ATTN is evaluated at the level just set, and for ATTN_LEVEL alone (R195). -/
theorem State.handleParamSet_of_named (h : paramRange x.toNat = some r) :
    let v := clamp r.1 r.2 value.toNat
    let p := s.params.hold x.toNat v
    s.handleParamSet x value =
      ((s.setParams p).setEvents
        { s.events with
          attn := if x.toNat = 8 then attnFor p.attnLevel s.events.records else s.events.attn }).reply
        supervisorPort ⟨0x52, x :: b4 v⟩ := by
  intro v p
  unfold State.handleParamSet
  rw [h]
  by_cases attnLevel : x.toNat = 8
  · rw [if_pos attnLevel]
    exact if_pos attnLevel
  · rw [if_neg attnLevel]
    exact if_neg attnLevel

end Param

/-- Settles O33: a number outside 1 to 9 has no range and is refused; one within reads, or changes, its own place of the
list of values. -/
theorem parametersSetAndGet : Obligations.ParametersSetAndGet := by
  intro x value s free range held
  rw [exec_paramSet free, exec_paramGet free]
  refine ⟨fun beyond => ?badField, fun k r v number inRange holds => ⟨?get, ?set⟩⟩
  case badField =>
    have unnamed : paramRange x.toNat = none := paramRange_eq_none beyond
    rw [State.handleParamSet_of_badField unnamed, State.handleParamGet_of_badField unnamed]
    exact ⟨rfl, rfl⟩
  all_goals have named : paramRange x.toNat = some r := by rw [number, paramRange_succ, ← inRange]; rfl
  case get => rw [State.handleParamGet_of_named named, number, s.params.value_succ holds]
  case set =>
    refine ⟨_, s.params.values_hold_clamp inRange value.toNat, ?_⟩
    rw [State.handleParamSet_of_named named, number]
    simp [attnFor, clamp]

/-! ### The hold reason set evaluated over an account just written (R23) -/

section EvalHold
variable (s : State) (n : Lathe) (a b : Account)

@[simp] theorem State.setAccount_setAccount : (s.setAccount n a).setAccount n b = s.setAccount n b := by
  simp [State.setAccount, State.setAccounts, Bank.write]

/-- Only an account whose fields give another set than the one held is written again, commands its line and queues
HOLD-CHANGE. -/
theorem State.evalHold_setAccount :
    (s.setAccount n a).evalHold n =
      if a.reasons = a.holdSet then s.setAccount n a
      else
        ((s.setAccount n { a with holdSet := a.reasons }).setLine n ((s.line n).command a.reasons.nonempty)).notice n
          (holdChangeMsg a.reasons) := by
  simp [State.evalHold]

end EvalHold

/-! ### LATHE HOLD and LATHE RELEASE (R189) -/

section LatheHold
variable {s : State} {x : Byte} {n : Lathe}

theorem exec_latheHold (free : (s.port supervisorPort).replyPending = false) :
    exec (.latheHold x) s = .next (s.handleLatheHold x) :=
  congrArg Host.Outcome.next (State.taken_of_not_replyPending _ free)

theorem exec_latheRelease (free : (s.port supervisorPort).replyPending = false) :
    exec (.latheRelease x) s = .next (s.handleLatheRelease x) :=
  congrArg Host.Outcome.next (State.taken_of_not_replyPending _ free)

theorem State.handleLatheHold_of_named (named : n.val = x.toNat) :
    s.handleLatheHold x = (s.reply supervisorPort ⟨0x50, [0x70]⟩).supervise n true := by
  rw [State.handleLatheHold, s.numbered_of_val_eq _ _ _ named, State.ackSup_eq_reply]

theorem State.handleLatheRelease_of_named (named : n.val = x.toNat) :
    s.handleLatheRelease x = (s.reply supervisorPort ⟨0x50, [0x71]⟩).supervise n false := by
  rw [State.handleLatheRelease, s.numbered_of_val_eq _ _ _ named, State.ackSup_eq_reply]

end LatheHold

/-- Settles O43: a lathe's number past the last is refused, and both requests set the stored flag of another lathe and
evaluate its reasons once. -/
theorem latheHoldAndRelease : Obligations.LatheHoldAndRelease := by
  intro x s free
  rw [exec_latheHold free, exec_latheRelease free]
  refine ⟨fun beyond => ⟨?holdBadField, ?releaseBadField⟩, fun n named => ⟨?hold, ?release⟩⟩
  case holdBadField => exact congrArg _ (s.numbered_of_le _ _ _ beyond)
  case releaseBadField => exact congrArg _ (s.numbered_of_le _ _ _ beyond)
  case hold =>
    have held := exec_latheHold (x := x) free
    rw [State.handleLatheHold_of_named named] at held
    exact held.trans (congrArg _ (State.evalHold_setAccount _ _ _))
  case release =>
    have released := exec_latheRelease (x := x) free
    rw [State.handleLatheRelease_of_named named] at released
    exact released.trans (congrArg _ (State.evalHold_setAccount _ _ _))

/-! ### EVENTS, PEEK and IDENT (R190, R193, R194) -/

section Events
variable {s : State}

theorem exec_events (free : (s.port supervisorPort).replyPending = false) :
    exec .events s = .next s.handleEvents :=
  congrArg Host.Outcome.next (State.taken_of_not_replyPending _ free)

theorem exec_peek (free : (s.port supervisorPort).replyPending = false) : exec .peek s = .next s.handlePeek :=
  congrArg Host.Outcome.next (State.taken_of_not_replyPending _ free)

theorem exec_ident (free : (s.port supervisorPort).replyPending = false) : exec .ident s = .next s.handleIdent :=
  congrArg Host.Outcome.next (State.taken_of_not_replyPending _ free)

/-- The payload of an EVENTS reply: the count, the overflow flag, and the records' fields one after another. -/
theorem eventsMsg_eq (es : List EventRec) (overflow : Bool) :
    eventsMsg es overflow =
      ⟨0x5A, [b1 es.length, if overflow then 1 else 0] ++ (es.map eventBytes).flatten⟩ := by
  have flag : flagByte [overflow] = if overflow then 1 else 0 := by cases overflow <;> rfl
  rw [eventsMsg, flag, List.flatMap_def]

/-- The records that leave, the flag that is cleared, and ATTN evaluated over the records that stay. -/
theorem State.handleEvents_eq (s : State) :
    s.handleEvents =
      (s.setEvents ⟨s.events.records.drop 3, false, attnFor s.params.attnLevel (s.events.records.drop 3)⟩).reply
        supervisorPort (eventsMsg (s.events.records.take 3) s.events.overflow) := rfl

theorem State.handlePeek_eq (s : State) :
    s.handlePeek = s.reply supervisorPort (eventsMsg (s.events.records.take 1) s.events.overflow) := rfl

/-- Device number 3112 is spelt 0Ch, 28h. -/
theorem identMsg_eq : identMsg = ⟨0x5B, [0x0C, 0x28, 1, 12, 24, 8, 32, 64]⟩ := by decide

end Events

/-- Settles O47: EVENTS cuts the queue after its third record, PEEK answers with the queue's head alone, and IDENT's
message is fixed. -/
theorem eventsPeekAndIdentReply : Obligations.EventsPeekAndIdentReply := by
  intro s free field flag
  rw [exec_events free, exec_peek free, exec_ident free]
  refine ⟨⟨s.events.records.take 3, s.events.records.drop 3, ?queue, ?count, ?events⟩, fun empty => ?peekEmpty,
    fun e rest head => ?peekHead, 0x0C, 0x28, ?device, ?ident⟩
  case queue => exact (List.take_append_drop _ _).symm
  case count => exact List.length_take
  case events => rw [State.handleEvents_eq, eventsMsg_eq]; rfl
  case peekEmpty => rw [State.handlePeek_eq, eventsMsg_eq, empty]; rfl
  case peekHead =>
    rw [State.handlePeek_eq, eventsMsg_eq, head, List.take_succ_cons, List.take_zero, List.map_singleton,
      List.flatten_singleton]
    rfl
  case device => rfl
  case ident => rw [State.handleIdent, State.answer, identMsg_eq]

end Sys2Proof.Machine

/-! PROOFS. What each command can do, said once: every command but a SETUP, a RESTART and a power-on reset is made of
updates of the kinds named here, and each condition that every step keeps is shown kept by each kind. -/
namespace Sys2Proof.Machine

open Sys2Proof
open Relation (ReflTransGen)
open Relation.ReflTransGen (single)

/-! ### Updates outside the account unit and the job sequencer -/

/-- What a line's own counting and sampling keeps. -/
structure LineKeeps (l l' : Line) : Prop where
  holdCmd : l'.holdCmd = l.holdCmd
  ok : l.ok → l'.ok

/-- What the receiver, the transmitter and the settings of a port keep. -/
structure PortKeeps (q q' : Port) : Prop where
  ok : q.ok → q'.ok
  notices : q.notices = [] → q'.notices = []
  counts : q.counts.ok → q'.counts.ok

/-- The prescaler's counts lie in their ranges (R51). -/
def HallTimer.prescalerOk (t : HallTimer) : Prop := t.binary ≤ 16383 ∧ t.decimal < t.sel.ms

/-- Every parameter of a set lies in its range (R185). -/
def Params.ok (p : Params) : Prop := (State.reset.setParams p).paramsOk

/-- Updates by a command that changes no program. -/
inductive QuietPrim : State → State → Prop
  | job {s t : State} (h : JobPrim s t) : QuietPrim s t
  | account (s : State) (n : Lathe) (a : Account) (h : AcctKeeps (s.account n) a)
      (hr : a.reasons = (s.account n).reasons) : QuietPrim s (s.setAccount n a)
  | supervise (s : State) (n : Lathe) (v : Bool) : QuietPrim s (s.supervise n v)
  | accounts (s : State) (f : Account → Account) (h : ∀ a, AcctKeeps a (f a)) (hr : ∀ a, (f a).reasons = a.reasons) :
      QuietPrim s (s.setAccounts (s.accounts.each f))
  | compare (s : State) (n : Lathe) (c : Compare) : QuietPrim s (s.setCompare n c)
  | timer (s : State) (x : HallTimer) (h : s.timer.prescalerOk → x.prescalerOk) : QuietPrim s (s.setTimer x)
  | line (s : State) (n : Lathe) (l : Line) (h : LineKeeps (s.line n) l) : QuietPrim s (s.setLine n l)
  | lines (s : State) (f : Line → Line) (h : ∀ l, LineKeeps l (f l)) : QuietPrim s (s.setLines (s.lines.each f))
  | bin (s : State) (b : BinNo) (x : Bin) (h : (s.bin b).ok → x.ok) : QuietPrim s (s.setBin b x)
  | port (s : State) (p : PortNo) (q : Port) (h : PortKeeps (s.port p) q) : QuietPrim s (s.setPort p q)
  | reply (s : State) (p : PortNo) (m : Msg) (free : (s.port p).replyPending = false) (hm : m.isNotice = false) :
      QuietPrim s (s.reply p m)
  | params (s : State) (x : Params) (h : s.params.ok → x.ok) (ha : x.attnLevel = s.params.attnLevel) :
      QuietPrim s (s.setParams x)
  | attn (s : State) (x : Params) (e : EventQueue) (h : s.params.ok → x.ok)
      (he : e.records.length ≤ s.events.records.length) : QuietPrim s ((s.setParams x).setEvents e).evalAttn
  | guardSeen (s : State) (b : Bool) : QuietPrim s (s.setGuardSeen b)
  | pins (s : State) (x : Pins) : QuietPrim s (s.setPins x)
  | pointer (s : State) (p : PortNo) : QuietPrim s (s.setPointer p)

abbrev QuietReach := ReflTransGen QuietPrim

theorem JobReach.toQuiet {s t : State} (h : JobReach s t) : QuietReach s t := h.lift id fun _ _ p => .job p
theorem SchedReach.toQuiet {s t : State} (h : SchedReach s t) : QuietReach s t := h.toJob.toQuiet

theorem State.each_account (s : State) (f : Account → Account) (n : Lathe) :
    (s.setAccounts (s.accounts.each f)).account n = f (s.account n) := Bank.read_each _ _ _
theorem State.each_line (s : State) (f : Line → Line) (n : Lathe) :
    (s.setLines (s.lines.each f)).line n = f (s.line n) := Bank.read_each _ _ _

/-! ### Each kind keeps each condition -/

theorem QuietPrim.pending {s t : State} (h : QuietPrim s t) : t.pending = s.pending := by
  cases h with
  | job p => exact p.kept.pending
  | supervise n v => exact State.evalHold_pending _ _
  | _ => rfl

theorem QuietReach.pending {s t : State} (h : QuietReach s t) : t.pending = s.pending :=
  keepsAll (P := fun t => t.pending = s.pending) (fun _ _ p k => p.pending.trans k) h rfl

/-- ATTN driven from a queue within its 64 places is as R195 gives. -/
theorem eventsOk_evalAttn {s : State} (h : s.events.records.length ≤ 64) : s.evalAttn.eventsOk := ⟨h, rfl⟩

theorem QuietPrim.eventsOk {s t : State} (h : QuietPrim s t) (hs : s.eventsOk) : t.eventsOk := by
  cases h with
  | job p => exact p.eventsOk hs
  | supervise n v => exact eventsOk_evalHold _ n hs
  | params x _ ha => exact ⟨hs.1, by simpa [ha] using hs.2⟩
  | attn x e _ he => exact eventsOk_evalAttn (he.trans hs.1)
  | _ => exact hs

theorem QuietPrim.params_ok {s t : State} (h : QuietPrim s t) (hs : s.params.ok) : t.params.ok := by
  cases h with
  | job p => rw [p.kept.params]; exact hs
  | supervise n v => simpa [State.supervise] using hs
  | params x hx _ => exact hx hs
  | attn x e hx _ => exact hx hs
  | _ => exact hs

theorem QuietPrim.binsOk {s t : State} (h : QuietPrim s t) (hs : s.binsOk) : t.binsOk := by
  cases h with
  | job p => exact p.binsOk hs
  | supervise n v => exact binsOk_congr (State.evalHold_bins _ n) hs
  | bin b x hx => exact binsOk_setBin _ b x (hx (hs b)) hs
  | _ => exact hs

theorem QuietPrim.prescalerOk {s t : State} (h : QuietPrim s t) (hs : s.timer.prescalerOk) : t.timer.prescalerOk := by
  cases h with
  | job p =>
    have k := p.kept
    simpa [HallTimer.prescalerOk, k.binary, k.decimal, k.sel] using hs
  | supervise n v => simpa [State.supervise] using hs
  | timer x hx => exact hx hs
  | _ => exact hs

theorem QuietPrim.linesOk {s t : State} (h : QuietPrim s t) (hs : ∀ n, (s.line n).ok) : ∀ n, (t.line n).ok := by
  cases h with
  | job p => exact JobReach.linesOk (.single p) hs
  | supervise n v => exact linesOk_evalHold _ n hs
  | line n l k =>
    intro m
    rw [State.setLine_line]
    split
    · exact k.ok (hs n)
    · exact hs m
  | lines f k => intro m; rw [State.each_line]; exact (k _).ok (hs m)
  | _ => exact hs

/-- A condition on one account that the account unit keeps, and whether or not SUPERVISOR is set. -/
theorem QuietPrim.accounts_keep {P : Account → Prop} (hp : ∀ a b, AcctKeeps a b → P a → P b)
    (hh : ∀ a h, P a → P { a with holdSet := h }) (hq : ∀ a v, P a → P { a with stockShort := v })
    (hv : ∀ a v, P a → P { a with supervisor := v }) {s t : State} (h : QuietPrim s t)
    (hs : ∀ n, P (s.account n)) : ∀ n, P (t.account n) := by
  cases h with
  | job p => exact Machine.accounts_keep hp hh hq (.single p) hs
  | account n a k =>
    intro m
    rw [State.setAccount_account]
    split
    · exact hp _ _ k (hs n)
    · exact hs m
  | supervise n v =>
    intro m
    by_cases e : n = m
    · subst e
      rw [State.supervise, State.evalHold_account_self, State.setAccount_account_self]
      exact hh _ _ (hv _ v (hs n))
    · rw [State.supervise, State.evalHold_account_ne _ _ _ e, State.setAccount_account_ne _ _ _ _ e]
      exact hs m
  | accounts f k => intro m; rw [State.each_account]; exact hp _ _ (k _) (hs m)
  | _ => exact hs

theorem QuietPrim.loadOk {s t : State} (h : QuietPrim s t) (hs : s.loadOk) : t.loadOk :=
  h.accounts_keep (fun _ _ k => k.load) (fun _ _ h => h) (fun _ _ h => h) (fun _ _ h => h) hs
theorem QuietPrim.programOk {s t : State} (h : QuietPrim s t) (hs : s.programOk) : t.programOk :=
  h.accounts_keep (P := fun a => a.state = .noProg ↔ a.program = none)
    (fun a b k h => by rw [k.program]; exact k.noProg.trans h) (fun _ _ h => h) (fun _ _ h => h) (fun _ _ h => h) hs
theorem QuietPrim.trayOk {s t : State} (h : QuietPrim s t) (hs : ∀ n, (s.account n).tray ≤ 1023) :
    ∀ n, (t.account n).tray ≤ 1023 :=
  h.accounts_keep (fun _ _ k => k.tray) (fun _ _ h => h) (fun _ _ h => h) (fun _ _ h => h) hs

theorem QuietPrim.holdOk {s t : State} (h : QuietPrim s t) (hs : s.holdOk) : t.holdOk := by
  cases h with
  | job p => exact p.holdOk hs
  | account n a k hr =>
    intro m
    obtain ⟨held, level⟩ := hs m
    by_cases e : n = m
    · subst e
      exact ⟨by simp [k.holdSet, hr, held], by simp [k.holdSet, level]⟩
    · exact holdOkAt_congr (s.setAccount_account_ne n a m e) rfl (hs m)
  | supervise n v =>
    refine holdOk_evalHold _ n ⟨fun m hm => ?_, ?_⟩
    · exact holdOkAt_congr (s.setAccount_account_ne n _ m hm.symm) rfl (hs m)
    · simpa using (hs n).2
  | accounts f k hr =>
    intro m
    obtain ⟨held, level⟩ := hs m
    rw [State.holdOkAt, State.each_account, (k _).holdSet, hr]
    exact ⟨held, level⟩
  | line n l k =>
    intro m
    refine ⟨(hs m).1, ?_⟩
    rw [State.setLine_line]
    split
    · next e => subst e; exact k.holdCmd.trans (hs n).2
    · exact (hs m).2
  | lines f k =>
    intro m
    rw [State.holdOkAt, State.each_line, (k _).holdCmd]
    exact hs m
  | _ => exact hs

/-- A port with no reply takes one (R177 to R179). -/
theorem Port.ok_reply {q : Port} (m : Msg) (free : q.replyPending = false) (hm : m.isNotice = false) (h : q.ok) :
    Port.ok { q with queue := q.queue ++ [m] } := by
  simp only [Port.replyPending, Bool.or_eq_false_iff, List.any_eq_false] at free
  obtain ⟨noneWaits, noneGoes⟩ := free
  have empty : q.queue.filter (fun x => !x.isNotice) = [] := List.filter_eq_nil_iff.2 noneWaits
  refine Port.ok_of ?_ ?_
  · unfold Port.replies
    cases register : q.tx <;> simp_all
  · simpa [Port.notices, hm] using h.2.1

theorem QuietPrim.portsOk {s t : State} (h : QuietPrim s t) (hs : s.portsOk) : t.portsOk := by
  obtain ⟨each, supervisor⟩ := id hs
  cases h with
  | job p => exact p.portsOk hs
  | supervise n v => exact portsOk_evalHold _ n hs
  | port p q k =>
    refine ⟨fun r => ?_, ?_⟩
    · rw [State.setPort_port]
      split
      · exact k.ok (each p)
      · exact each r
    · rw [State.setPort_port]
      split
      · next e => subst e; exact k.notices supervisor
      · exact supervisor
  | reply p m free hm =>
    refine ⟨fun r => ?_, ?_⟩
    · by_cases e : p = r
      · subst e
        rw [State.reply_port_self]
        exact Port.ok_reply m free hm (each p)
      · rw [State.reply_port_ne _ _ _ _ e]
        exact each r
    · by_cases e : p = supervisorPort
      · subst e
        rw [State.reply_port_self]
        simpa [Port.notices, hm] using supervisor
      · rw [State.reply_port_ne _ _ _ _ e]
        exact supervisor
  | _ => exact hs

theorem QuietPrim.countsOk {s t : State} (h : QuietPrim s t) (hs : ∀ p, (s.port p).counts.ok) :
    ∀ p, (t.port p).counts.ok := by
  cases h with
  | job p => intro r; rw [JobReach.counts (.single p)]; exact hs r
  | supervise n v =>
    intro r
    rw [State.supervise, State.evalHold_port]
    split
    · exact hs r
    · rw [notice_port_counts]; exact hs r
  | port p q k =>
    intro r
    rw [State.setPort_port]
    split
    · exact k.counts (hs p)
    · exact hs r
  | reply p m _ _ =>
    intro r
    by_cases e : p = r
    · subst e; rw [State.reply_port_self]; exact hs p
    · rw [State.reply_port_ne _ _ _ _ e]; exact hs r
  | _ => exact hs

theorem QuietPrim.countersOk {s t : State} (h : QuietPrim s t) (hs : s.countersOk) : t.countersOk := by
  obtain ⟨prescaler, lines, trays, counts⟩ := hs
  exact ⟨h.prescalerOk prescaler, h.linesOk lines, h.trayOk trays, h.countsOk counts⟩

/-! ### What no such update changes: the programs, and LP12's port under the sequencer's -/

theorem AcctReach.program {m : Lathe} {s t : State} (h : AcctReach m s t) (n : Lathe) :
    (t.account n).program = (s.account n).program := by
  refine keepsAll (P := fun t => (t.account n).program = _) (fun s t p k => k ▸ ?_) h rfl
  cases p with
  | sched q => simp [State.account, q.accounts]
  | account a q =>
    rw [State.setAccount_account]
    split
    · next e => subst e; exact q.program
    · rfl
  | compare c => rfl
  | notice m q => rfl

theorem State.evalHold_program (s : State) (n m : Lathe) :
    ((s.evalHold n).account m).program = (s.account m).program := by
  by_cases e : n = m
  · subst e; rw [State.evalHold_account_self]
  · rw [State.evalHold_account_ne _ _ _ e]

theorem JobPrim.program {s t : State} (h : JobPrim s t) (n : Lathe) :
    (t.account n).program = (s.account n).program := by
  cases h with
  | sched q => simp [State.account, q.accounts]
  | visit m q => rw [State.evalHold_program, q.program]
  | stockShort m v =>
    rw [State.setStockShort, State.setAccount_account]
    split
    · next e => subst e; rfl
    · rfl
  | _ => rfl

theorem QuietPrim.program {s t : State} (h : QuietPrim s t) (n : Lathe) :
    (t.account n).program = (s.account n).program := by
  cases h with
  | job p => exact p.program n
  | account m a k =>
    rw [State.setAccount_account]
    split
    · next e => subst e; exact k.program
    · rfl
  | supervise m v =>
    rw [State.supervise, State.evalHold_program, State.setAccount_account]
    split
    · next e => subst e; rfl
    · rfl
  | accounts f k => rw [State.each_account]; exact (k _).program
  | _ => rfl

theorem QuietReach.program {s t : State} (h : QuietReach s t) (n : Lathe) :
    (t.account n).program = (s.account n).program :=
  keepsAll (P := fun t => (t.account n).program = _) (fun _ _ p k => (p.program n).trans k) h rfl

theorem State.notice_port_sup (s : State) (n : Lathe) (m : Msg) :
    (s.notice n m).port supervisorPort = s.port supervisorPort := s.notice_port_ne n _ m (lathePort_ne n)

theorem State.evalHold_port_sup (s : State) (n : Lathe) :
    (s.evalHold n).port supervisorPort = s.port supervisorPort := by
  rw [State.evalHold_port, State.notice_port_sup, ite_self]

theorem AcctReach.port_sup {m : Lathe} {s t : State} (h : AcctReach m s t) :
    t.port supervisorPort = s.port supervisorPort := by
  refine keepsAll (P := fun t => t.port supervisorPort = _) (fun s t p k => k ▸ ?_) h rfl
  cases p with
  | sched q => simp [State.port, q.ports]
  | account a q => rfl
  | compare c => rfl
  | notice m q => exact State.notice_port_sup _ _ _

/-- The job sequencer and the accounts it visits leave LP12, whose queue holds replies alone. -/
theorem JobReach.port_sup {s t : State} (h : JobReach s t) : t.port supervisorPort = s.port supervisorPort := by
  refine keepsAll (P := fun t => t.port supervisorPort = _) (fun s t p k => k ▸ ?_) h rfl
  cases p with
  | sched q => simp [State.port, q.ports]
  | visit m q => rw [State.evalHold_port_sup, q.port_sup]
  | _ => rfl

end Sys2Proof.Machine

namespace Sys2Proof.Machine

open Sys2Proof
open Relation (ReflTransGen)
open Relation.ReflTransGen (single)

/-! ### The lathe's DELIVER job cancelled by its own lathe (R111) -/

theorem State.findJob_spec {s : State} {n : Lathe} {k : JobKind} {i : Slot} (h : s.findJob n k = some i) :
    ∃ j, s.job i = some j ∧ j.lathe = n ∧ j.kind = k := by
  have found := List.find?_some h
  unfold State.isJobOf at found
  split at found
  · next j hj => exact ⟨j, hj, by simpa using found⟩
  · cases found

theorem State.departed_of_not_ret (s : State) {j : Job} (h : j.kind ≠ .ret) : s.departed j = s := if_neg h

theorem sched_cancelIdle (s : State) (i : Slot) {j : Job} (hj : s.job i = some j) (kind : j.kind ≠ .ret) :
    SchedReach s (s.cancelIdle i) := by
  unfold State.cancelIdle
  simp only [hj, State.departed_of_not_ret _ kind]
  have left : PlanReach s ((s.releaseClaim j).vacate i).serveDeferred :=
    ((plan_releaseClaim s j).trans (plan_vacate _ i)).trans (plan_serveDeferred _)
  exact ((left.toSched.trans (sched_dispatch _)).trans (plan_gainOfRelease _ j).toSched).trans (sched_dispatch _)

theorem sched_removeActive (s : State) (i : Slot) {j : Job} (hj : s.job i = some j) (kind : j.kind ≠ .ret) :
    SchedReach s (s.removeActive i) := by
  unfold State.removeActive
  simp only [hj, State.departed_of_not_ret _ kind]
  have left : PlanReach _ (((((((s.stopJobTimers).releaseClaim j).setSeq .clear).releaseShuttle).vacate i).serveDeferred
      ).gainOfRelease j) := ((plan_vacate _ i).trans (plan_serveDeferred _)).trans (plan_gainOfRelease _ j)
  exact (((((sched_stopJobTimers s).trans (plan_releaseClaim _ j).toSched).trans (sched_seq _ .clear)).trans
    (sched_releaseShuttle _)).trans left.toSched).trans (sched_dispatch _)

theorem sched_cancelDeliver (s : State) (n : Lathe) (m : CancelMark) : SchedReach s (s.cancelDeliver n m) := by
  unfold State.cancelDeliver
  split
  · exact .refl
  · next i found =>
    obtain ⟨j, hj, -, kind⟩ := State.findJob_spec found
    have notRet : j.kind ≠ .ret := by rw [kind]; decide
    simp only [hj]
    split
    · split
      · split
        · exact (plan_slot s i _).toSched
        · exact sched_removeActive s i hj notRet
      · split
        · exact (plan_slot s i _).toSched
        · exact .refl
    · exact sched_cancelIdle s i hj notRet

/-! ### The account's own handling -/

section Account
variable {n : Lathe}

theorem acct_loseLathe (s : State) (r : ResumeState) (h : (s.account n).state ≠ .noProg)
    (hl : (s.account n).loadOk → (s.account n).loadTimer = .stopped ∧ (s.account n).marked = false) :
    AcctReach n s (s.loseLathe n r) :=
  last (acct_goTo _ _ (by simpa using h) (by decide) fun ho _ => by
    rw [State.setAccount_account_self] at ho ⊢; exact hl ho)
    (acct_set s _ ⟨rfl, rfl, rfl, Iff.rfl, id, id⟩)

theorem acct_breakLoading (s : State) (h : (s.account n).state ≠ .noProg) : AcctReach n s (s.breakLoading n) := by
  refine last (acct_recomputeAndFire _) (last (acct_loseLathe _ _ ?_ fun _ => ?_)
    (acct_set s _ (loadBar_keeps _ s.now .stopped rfl)))
  · simpa [loadBar_state] using h
  · simp [Account.marked, loadBar_cradle]

theorem acct_breakByState (s : State) : AcctReach n s (s.breakByState n) := by
  have rest (hn : (s.account n).state ≠ .noProg) (hl : (s.account n).state ≠ .loading) (r : ResumeState) :
      AcctReach n s (s.loseLathe n r) := acct_loseLathe s r hn (loadOk_rest hl)
  unfold State.breakByState
  split
  case h_1 => exact .refl
  case h_2 e => exact rest (by simp [e]) (by simp [e]) _
  case h_3 e => exact rest (by simp [e]) (by simp [e]) _
  case h_4 e => exact acct_breakLoading s (by simp [e])
  case h_5 e => exact rest (by simp [e]) (by simp [e]) _
  case h_6 e =>
    have lost := rest (by simp [e]) (by simp [e]) (s.account n).resume
    dsimp only
    split
    · exact lost.trans (acct_rearm _)
    · exact lost
  case h_7 => exact .refl

theorem acct_takeCut (s : State) {g : Program} (h : (s.account n).program = some g) :
    ∃ t, AcctReach n s t ∧ s.takeCut n = t.evalHold n := by
  have toBar : AcctReach n s (if (s.account n).state.countsToBar then
      match (s.account n).current with
      | some c => s.cutToBar n g c
      | none => s else s) := by
    split
    · split
      · exact acct_cutToBar s g _
      · exact .refl
    · exact .refl
  unfold State.takeCut
  simp only [h]
  generalize (if (s.account n).state.countsToBar then
      match (s.account n).current with
      | some c => s.cutToBar n g c
      | none => s else s) = u at toBar ⊢
  refine ⟨_, ?_, rfl⟩
  refine last (sched_checkThreshold _ n).toAcct (last (acct_recomputeAndFire _) ?_)
  have tray (u : State) : AcctReach n u (u.setAccount n (u.account n).countTray) :=
    acct_set u _ ⟨rfl, rfl, rfl, Iff.rfl, id, fun _ => Nat.min_le_right _ _⟩
  have counted := last (tray _) toBar
  split
  · exact counted
  · exact last (acct_post _ _) counted

theorem acct_endBar (s : State) : AcctReach n s (s.endBar n) := by
  unfold State.endBar
  dsimp only
  refine last (acct_compare _ _) ?_
  split
  · refine last (acct_set _ _ ?_) (acct_post s _)
    rw [State.post_account]
    exact ⟨rfl, rfl, rfl, Iff.rfl, id, id⟩
  · exact acct_set s _ ⟨rfl, rfl, rfl, Iff.rfl, id, id⟩

theorem State.endBar_state (s : State) : ((s.endBar n).account n).state = (s.account n).state := by
  simp [State.endBar, Account.dropBar]

theorem acct_toResume (s : State) (h : (s.account n).state ≠ .noProg) (hl : (s.account n).state ≠ .loading) :
    AcctReach n s (s.toResume n) := by
  unfold State.toResume
  split
  · exact last (acct_recomputeAndFire _) (acct_goTo s _ h (by decide) fun ho _ => loadOk_rest hl ho)
  · exact acct_enterAwait s h hl
  · exact acct_goTo s _ h (by decide) fun ho _ => loadOk_rest hl ho

theorem acct_loadTimeout (s : State) (h : (s.account n).state = .loading) (stopped : (s.account n).loadTimer = .stopped) :
    ∃ t, AcctReach n s t ∧ s.loadTimeout n = t.evalHold n := by
  have given : AcctReach n s (s.setAccount n
      { s.account n with
        resume := .await
        loadFault := true
        cradle := (s.account n).cradle.map fun c => { c with loading := false } }) :=
    acct_set s _ ⟨rfl, rfl, rfl, Iff.rfl, fun _ => ⟨fun _ => h, fun _ => h⟩, id⟩
  refine ⟨_, last (acct_goTo _ _ ?_ (by decide) fun _ _ => ?_) (last (acct_post _ _) given), rfl⟩
  · simp [h]
  · cases cradle : (s.account n).cradle <;> simp [Account.marked, stopped]

end Account

theorem quiet_visit {n : Lathe} {s t : State} (h : AcctReach n s t) : QuietReach s (t.evalHold n) :=
  (job_visit n h).toQuiet

/-! ### Requests: the reply -/

@[simp] theorem State.ack_account (s : State) (p : PortNo) (kind : Byte) (n : Lathe) :
    (s.ack p kind).account n = s.account n := rfl

section Reply
variable {s : State} {p : PortNo} {n : Lathe}

theorem quiet_reply (m : Msg) (free : (s.port p).replyPending = false) (hm : m.isNotice = false) :
    QuietReach s (s.reply p m) := single (.reply s p m free hm)

theorem quiet_ack (free : (s.port p).replyPending = false) (kind : Byte) : QuietReach s (s.ack p kind) := by
  refine quiet_reply _ free ?_
  unfold ackMsg
  split <;> rfl

theorem quiet_refuse (free : (s.port p).replyPending = false) (kind : Byte) (c : RefusalCode) :
    QuietReach s (s.refuse p kind c) := by
  refine quiet_reply _ free ?_
  unfold refusedMsg
  split <;> rfl

theorem quiet_taken {f : State → State} (h : (s.port p).replyPending = false → QuietReach s (f s)) :
    QuietReach s (s.taken p f) := by
  unfold State.taken
  split
  · exact .refl
  · next free => exact h (by simpa using free)

theorem quiet_numbered {m : Nat} {kind number : Byte} {f : Fin m → State}
    (free : (s.port supervisorPort).replyPending = false) (h : ∀ k, QuietReach s (f k)) :
    QuietReach s (s.numbered m kind number f) := by
  unfold State.numbered
  split
  · exact h _
  · exact quiet_refuse free _ _

end Reply

/-! ### Lathe requests -/

section Lathe
variable {s : State} {n : Lathe} (free : (s.port (lathePort n)).replyPending = false)
include free

theorem quiet_handleReady : QuietReach s (s.handleReady n) := by
  have ack := quiet_ack free 0x22
  unfold State.handleReady
  dsimp only
  split
  case h_1 e =>
    exact ack.trans (quiet_visit (last (acct_enterAwait _ (by rw [State.endBar_state, State.ack_account, e]; decide)
      (by rw [State.endBar_state, State.ack_account, e]; decide)) (acct_endBar _)))
  case h_2 e => exact ack.trans (quiet_visit (acct_enterAwait _ (by rw [State.ack_account, e]; decide) (by rw [State.ack_account, e]; decide)))
  case h_3 => exact ack
  case h_7 e =>
    split
    · exact ack.trans (quiet_visit (last (acct_enterAwait _ (by simp [e]) (by simp [e]))
        (acct_set _ _ ⟨rfl, rfl, rfl, Iff.rfl, id, id⟩)))
    · exact quiet_refuse free _ _
  all_goals exact quiet_refuse free _ _

omit free in
theorem acct_completeLoad (s : State) (h : (s.account n).state ≠ .noProg) :
    ∃ t, AcctReach n s t ∧ s.completeLoad n = t.evalHold n := by
  refine ⟨_, last (acct_recomputeAndFire _) (last (acct_goTo _ _ ?_ (by decide) fun _ _ => ?_)
    (acct_set s _ (loadBar_keeps _ s.now .stopped rfl))), rfl⟩
  · simpa [loadBar_state] using h
  · simp [Account.marked, loadBar_cradle]

theorem quiet_handleLoaded : QuietReach s (s.handleLoaded n) := by
  have ack := quiet_ack free 0x23
  unfold State.handleLoaded
  dsimp only
  split
  case h_1 e =>
    obtain ⟨t, reach, eq⟩ := acct_completeLoad (n := n) (s.ack (lathePort n) 0x23) (by rw [State.ack_account, e]; decide)
    exact eq ▸ ack.trans (quiet_visit reach)
  case h_2 e =>
    split
    · obtain ⟨t, reach, eq⟩ := acct_completeLoad (n := n) ((s.ack (lathePort n) 0x23).setAccount n
        { (s.ack (lathePort n) 0x23).account n with loadFault := false }) (by
          rw [State.setAccount_account_self, State.ack_account, e]; decide)
      exact eq ▸ ack.trans (quiet_visit (last reach (acct_set _ _ ⟨rfl, rfl, rfl, Iff.rfl, id, id⟩)))
    · exact quiet_refuse free _ _
  all_goals exact quiet_refuse free _ _

omit free in
theorem acct_stopLathe (s : State) (r : ResumeState) (h : (s.account n).state ≠ .noProg)
    (hl : (s.account n).state ≠ .loading) : ∃ t, AcctReach n s t ∧ s.stopLathe n r = t.evalHold n := by
  unfold State.stopLathe
  refine ⟨_, ?_, rfl⟩
  exact last (sched_cancelDeliver _ n .stop).toAcct (last (acct_settleCompare _) (last
    (acct_goTo _ _ (by simpa using h) (by decide) fun ho _ => loadOk_rest (by simpa using hl) ho)
    (acct_set s _ ⟨rfl, rfl, rfl, Iff.rfl, id, id⟩)))

theorem quiet_handleStop : QuietReach s (s.handleStop n) := by
  have stops (r : ResumeState) (h : (s.account n).state ≠ .noProg) (hl : (s.account n).state ≠ .loading) :
      QuietReach s ((s.ack (lathePort n) 0x24).stopLathe n r) := by
    obtain ⟨t, reach, eq⟩ := acct_stopLathe (s.ack (lathePort n) 0x24) r (by simpa using h) (by simpa using hl)
    exact eq ▸ (quiet_ack free 0x24).trans (quiet_visit reach)
  unfold State.handleStop
  dsimp only
  split
  case h_1 e => exact stops _ (by simp [e]) (by simp [e])
  case h_2 e => exact stops _ (by simp [e]) (by simp [e])
  case h_3 e => exact stops _ (by simp [e]) (by simp [e])
  case h_4 => exact quiet_ack free _
  all_goals exact quiet_refuse free _ _

theorem quiet_handleResume : QuietReach s (s.handleResume n) := by
  have ack := quiet_ack free 0x25
  have resumes (h : (s.account n).state ≠ .noProg) (hl : (s.account n).state ≠ .loading) :
      QuietReach s (((s.ack (lathePort n) 0x25).toResume n).evalHold n) :=
    ack.trans (quiet_visit (acct_toResume _ (by simpa using h) (by simpa using hl)))
  unfold State.handleResume
  dsimp only
  split
  case h_1 e =>
    split
    · exact quiet_refuse free _ _
    · exact resumes (by simp [e]) (by simp [e])
  case h_2 e =>
    split
    · exact ack.trans (quiet_visit (last (acct_settleCompare _) (acct_goTo _ _ (by rw [State.ack_account, e]; decide) (by decide)
        fun ho _ => loadOk_rest (by rw [State.ack_account, e]; decide) ho)))
    · exact resumes (by simp [e]) (by simp [e])
  case h_3 => exact quiet_refuse free _ _
  all_goals exact ack

theorem quiet_handleStatus : QuietReach s (s.handleStatus n) := quiet_reply _ free rfl

end Lathe

/-- The account that an accepted SETUP installs, in the state it leaves (R10). -/
def Account.installed (a : Account) (m : SetupMsg) (sel : TickSel) (now : Time) : Account :=
  { a.install m sel now with state := a.state.afterSetup m.remaining.isSome }

theorem sched_checkCradle (s : State) (n : Lathe) (g : Program) : SchedReach s (s.checkCradle n g) := by
  unfold State.checkCradle
  split
  · split
    · exact sched_request_dispatch s n _
    · exact .refl
  · exact .refl

theorem sched_checkTray (s : State) (n : Lathe) : SchedReach s (s.checkTray n) := by
  unfold State.checkTray
  refine .trans ?_ (sched_checkThreshold _ n)
  split
  · exact (plan_evalBinBlock s _).toSched.trans (sched_dispatch _)
  · exact .refl

/-- The program installed and the state of R10 entered is one change of the account. -/
theorem acct_install_goTo (s : State) (n : Lathe) (m : SetupMsg) :
    AcctReach n (s.setAccount n ((s.account n).installed m s.timer.sel s.now))
      ((s.setAccount n ((s.account n).install m s.timer.sel s.now)).goTo n
        ((s.account n).state.afterSetup m.remaining.isSome)) := by
  unfold State.goTo
  simp only [State.setAccount_account_self, State.setAccount_setAccount]
  split
  · next e => rw [Account.installed, ← e]
  · exact acct_post _ _

/-- An accepted SETUP: the account installed, what the account unit makes of it, and the evaluation of its hold reason
set. -/
theorem acceptSetup_visit (s : State) (n : Lathe) (m : SetupMsg) :
    ∃ t, AcctReach n (s.setAccount n ((s.account n).installed m s.timer.sel s.now)) t ∧
      s.acceptSetup n m = t.evalHold n := by
  have rest (u : State) (fired : Bool) : SchedReach u
      ((((u.cancelDeliver n .setup).fireIf n fired).checkCradle n (heldProgram m)).checkTray n) :=
    (((sched_cancelDeliver u n .setup).trans (sched_fireIf _ n _)).trans (sched_checkCradle _ n _)).trans
      (sched_checkTray _ n)
  unfold State.acceptSetup
  refine ⟨_, ?_, rfl⟩
  exact last (rest _ _).toAcct (last (acct_recompute _) (acct_install_goTo s n m))

/-! ### Supervisor requests -/

/-- Lathe `n`'s program has the material and class of lane `k` (R74). -/
def State.suits (s : State) (k : LaneNo) (n : Lathe) : Bool :=
  match (s.account n).program with
  | some g => (s.lane k).matchesProgram g
  | none => false

theorem State.clearShort_eq (s : State) (k : LaneNo) (n : Lathe) :
    s.clearShort k n =
      if (s.account n).stockShort && s.suits k n then
        if (s.account n).state = .await && (s.account n).cradle.isNone then
          ((s.setStockShort n false).setAccount n
            { (s.setStockShort n false).account n with awaitEntry := .fresh s.now }).wantBar n
        else if (s.compareOf n).armed then (s.setStockShort n false).rearm n
        else s.setStockShort n false
      else s := rfl


section Supervisor
variable {s : State} (free : (s.port supervisorPort).replyPending = false)
include free

omit free in
/-- What leaves LP12 as it is leaves it free. -/
theorem free_of_job {t : State} (h : JobReach s t) (free : (s.port supervisorPort).replyPending = false) :
    (t.port supervisorPort).replyPending = false := by rw [h.port_sup]; exact free

theorem quiet_answer (m : Msg) (hm : m.isNotice = false) : QuietReach s (s.answer m) := quiet_reply m free hm
theorem quiet_ackSup (kind : Byte) : QuietReach s (s.ackSup kind) := quiet_ack free kind
theorem quiet_refuseSup (kind : Byte) (c : RefusalCode) : QuietReach s (s.refuseSup kind c) := quiet_refuse free kind c

/-- A job's run answered on LP12. -/
theorem quiet_job_reply {t : State} (h : JobReach s t) (m : Msg) (hm : m.isNotice = false) :
    QuietReach s (t.answer m) := h.toQuiet.trans (quiet_answer (free_of_job h free) m hm)
theorem quiet_job_ack {t : State} (h : JobReach s t) (kind : Byte) : QuietReach s (t.ackSup kind) :=
  h.toQuiet.trans (quiet_ackSup (free_of_job h free) kind)

omit free in
theorem job_stockGain_dispatch (s : State) (k : LaneNo) : JobReach s (s.stockGain k).dispatch :=
  (job_plan (plan_stockGain s k)).trans (job_dispatch _)

theorem quiet_handleLaneAssign (x m d : Byte) : QuietReach s (s.handleLaneAssign x m d) := by
  refine quiet_numbered free fun k => ?_
  split
  · exact quiet_refuseSup free _ _
  · split
    · exact quiet_refuseSup free _ _
    · exact quiet_job_ack free (job_lane s k _) _

theorem quiet_handleLaneOpen (x : Byte) : QuietReach s (s.handleLaneOpen x) := by
  refine quiet_numbered free fun k => ?_
  split
  · exact quiet_ackSup free _
  · exact (quiet_job_ack free (job_lane s k _) _).trans (job_stockGain_dispatch _ k).toQuiet

theorem quiet_handleLaneClose (x : Byte) : QuietReach s (s.handleLaneClose x) :=
  quiet_numbered free fun k => quiet_job_ack free (job_lane s k _) _

theorem quiet_handleLaneRead (x y : Byte) : QuietReach s (s.handleLaneRead x y) := by
  refine quiet_numbered free fun k => ?_
  split
  · exact quiet_answer free _ rfl
  · exact quiet_refuseSup free _ _

omit free in
theorem quiet_rearm (s : State) (n : Lathe) : QuietReach s (s.rearm n) := by
  refine .trans ?_ (sched_fireIf _ n _).toQuiet
  unfold State.writeCompare State.settleCompare
  dsimp only
  split
  · exact single (.compare s n _)
  · split
    · exact .refl
    · exact single (.compare s n _)

omit free in
theorem quiet_clearShort (s : State) (k : LaneNo) (n : Lathe) : QuietReach s (s.clearShort k n) := by
  have cleared : QuietReach s (s.setStockShort n false) := (job_stockShort s n false).toQuiet
  have entered : QuietReach (s.setStockShort n false) ((s.setStockShort n false).setAccount n
      { (s.setStockShort n false).account n with awaitEntry := .fresh s.now }) :=
    single (.account _ n _ ⟨rfl, rfl, rfl, Iff.rfl, id, id⟩ rfl)
  rw [State.clearShort_eq]
  split
  · split
    · exact (cleared.trans entered).trans (sched_wantBar _ n).toQuiet
    · split
      · exact cleared.trans (quiet_rearm _ n)
      · exact cleared
  · exact .refl

omit free in
theorem quiet_foldl {α : Type} (f : State → α → State) (h : ∀ s a, QuietReach s (f s a)) (l : List α) (s : State) :
    QuietReach s (l.foldl f s) := by
  induction l generalizing s with
  | nil => exact .refl
  | cons a l ih => exact (h s a).trans (ih _)

theorem quiet_handleStock (x : Byte) (length lot : BitVec 16) : QuietReach s (s.handleStock x length lot) := by
  refine quiet_numbered free fun k => ?_
  split
  · exact quiet_refuseSup free _ _
  · split
    · exact quiet_refuseSup free _ _
    · split
      · exact quiet_refuseSup free _ _
      · have stocked : JobReach s (s.stockBar k length.toNat lot) := last (job_lane _ k _) (job_rack s _)
        exact ((quiet_job_reply free stocked _ rfl).trans (job_stockGain_dispatch _ k).toQuiet).trans
          (quiet_foldl _ (fun s n => quiet_clearShort s k n) _ _)

theorem quiet_handleUnstock (x : Byte) : QuietReach s (s.handleUnstock x) := by
  refine quiet_numbered free fun k => ?_
  split
  · exact quiet_refuseSup free _ _
  · split
    · exact quiet_refuseSup free _ _
    · exact quiet_job_reply free (job_lane s k _) _ rfl

theorem quiet_handleRejectEmptied : QuietReach s s.handleRejectEmptied :=
  (quiet_job_ack free (job_rack s _) _).trans (job_endRejectWait _).toQuiet

theorem quiet_changeBin (b : BinNo) (x : Bin) (h : (s.bin b).ok → x.ok) : QuietReach s (s.changeBin b x) :=
  have rest (u : State) : JobReach u (((u.recheckDump b).evalBins b).dispatch) :=
    ((job_recheckDump u b).trans (job_plan (plan_evalBins _ b))).trans (job_dispatch _)
  ((single (.bin s b x h)).trans (quiet_answer (s := s.setBin b x) free _ rfl)).trans (rest _).toQuiet

theorem quiet_handleBinSet (x : Byte) (c : BitVec 16) : QuietReach s (s.handleBinSet x c) :=
  quiet_numbered free fun b => quiet_changeBin free b _ fun h => by
    simp only [Bin.ok, Bin.newCapacity, clamp] at *
    omega

theorem quiet_handleBinClose (x : Byte) : QuietReach s (s.handleBinClose x) :=
  quiet_numbered free fun b => quiet_changeBin free b _ fun h => h

theorem quiet_handleBinEmptied (x : Byte) : QuietReach s (s.handleBinEmptied x) :=
  quiet_numbered free fun b => quiet_changeBin free b _ fun h => by
    simp only [Bin.ok] at *
    omega

omit free in
/-- A parameter set within its range leaves every parameter in its range, and ATTN_LEVEL alone unless it is its own. -/
theorem Params.hold_spec {k lo hi : Nat} (p : Params) (h : paramRange k = some (lo, hi)) (v : Nat) :
    (p.ok → (p.hold k (clamp lo hi v)).ok) ∧ (k ≠ 8 → (p.hold k (clamp lo hi v)).attnLevel = p.attnLevel) := by
  unfold paramRange at h
  split at h
  all_goals first
    | cases h; refine ⟨fun ok => ?_, fun e => ?_⟩
      · simp only [Params.ok, State.paramsOk, State.setParams_params, Params.hold, clamp] at *
        omega
      · simp_all [Params.hold]
    | cases h

theorem quiet_handleParamSet (x : Byte) (v : BitVec 32) : QuietReach s (s.handleParamSet x v) := by
  unfold State.handleParamSet
  split
  · exact quiet_refuseSup free _ _
  · next lo hi range =>
    obtain ⟨ok, attn⟩ := Params.hold_spec s.params range v.toNat
    dsimp only
    split
    · exact (quiet_reply (p := supervisorPort) (paramMsg x (clamp lo hi v.toNat)) free rfl).trans
        (single (.attn (s.reply supervisorPort (paramMsg x (clamp lo hi v.toNat))) _ s.events ok le_rfl))
    · next other =>
      exact (quiet_reply (p := supervisorPort) (paramMsg x (clamp lo hi v.toNat)) free rfl).trans
        (single (.params (s.reply supervisorPort (paramMsg x (clamp lo hi v.toNat))) _ ok (attn other)))

theorem quiet_handleParamGet (x : Byte) : QuietReach s (s.handleParamGet x) := by
  unfold State.handleParamGet
  split
  · exact quiet_refuseSup free _ _
  · exact quiet_answer free _ rfl

omit free in
theorem TickSel.ms_pos (sel : TickSel) : 0 < sel.ms := by cases sel <;> decide

omit free in
theorem quiet_reselect (s : State) (sel : TickSel) : QuietReach s (s.reselect sel) := by
  refine ((single (.timer s (s.timer.reselect sel) fun _ => ⟨Nat.zero_le _, ?_⟩)).trans
    (single (.lines _ (fun l => { l with debounce := Config.debounceMax }) fun l => ⟨rfl, fun h => ?_⟩))).trans
    (single (.accounts _ (fun a => { a with loadTimer := .stopped })
      (fun a => ⟨rfl, rfl, rfl, Iff.rfl, fun h => ⟨fun k => absurd rfl k, h.2⟩, id⟩) fun a => rfl))
  · exact sel.ms_pos
  · exact ⟨le_rfl, h.2⟩

theorem quiet_handleTickSet (x : Byte) : QuietReach s (s.handleTickSet x) := by
  unfold State.handleTickSet
  split
  · exact quiet_refuseSup free _ _
  · split
    · exact quiet_ackSup free _
    · split
      · exact quiet_refuseSup free _ _
      · exact (quiet_reselect s _).trans (quiet_ackSup (s := s.reselect _) free _)

omit free in
/-- What leaves a port's queue and register leaves its sending. -/
theorem PortKeeps.of_queue {q q' : Port} (queue : q'.queue = q.queue) (tx : q'.tx = q.tx)
    (counts : q.counts.ok → q'.counts.ok) : PortKeeps q q' := by
  refine ⟨fun h => ?_, fun h => ?_, counts⟩
  · simpa [Port.ok, Port.replies, Port.notices, queue, tx] using h
  · simpa [Port.notices, queue] using h

omit free in
theorem Port.applySetting_keeps (q : Port) (p : PortNo) (x : LinkSetting) :
    (q.applySetting p x).queue = q.queue ∧ (q.applySetting p x).tx = q.tx ∧
      (q.applySetting p x).counts = q.counts := by
  unfold Port.applySetting
  split
  · exact ⟨rfl, rfl, rfl⟩
  · split <;> exact ⟨rfl, rfl, rfl⟩

omit free in
/-- A port whose queue and register stand is as free of replies as it was. -/
theorem free_setPort (free : (s.port supervisorPort).replyPending = false) {p : PortNo} {q : Port}
    (queue : q.queue = (s.port p).queue) (tx : q.tx = (s.port p).tx) :
    ((s.setPort p q).port supervisorPort).replyPending = false := by
  rw [State.setPort_port]
  split
  · next e => subst e; simpa [Port.replyPending, queue, tx] using free
  · exact free

theorem quiet_handleLinkSet (p r y : Byte) : QuietReach s (s.handleLinkSet p r y) := by
  refine quiet_numbered free fun p => ?_
  split
  · exact quiet_refuseSup free _ _
  · next x _ =>
    obtain ⟨queue, tx, counts⟩ := (s.port p).applySetting_keeps p x
    exact (single (.port s p _ (.of_queue queue tx (counts ▸ id)))).trans
      (quiet_ackSup (free_setPort free queue tx) _)

omit free in
theorem ErrorCounts.zero_ok : ErrorCounts.zero.ok := by simp [ErrorCounts.ok, ErrorCounts.zero]

theorem quiet_handleLinkRead (p : Byte) : QuietReach s (s.handleLinkRead p) :=
  quiet_numbered free fun p =>
    (single (.port s p { s.port p with counts := .zero } (.of_queue rfl rfl fun _ => ErrorCounts.zero_ok))).trans
      (quiet_answer (free_setPort (q := { s.port p with counts := .zero }) free rfl rfl) _ rfl)

theorem quiet_handleLatheRead (x : Byte) (h : BitVec 12) : QuietReach s (s.handleLatheRead x h) :=
  quiet_numbered free fun _ => quiet_answer free _ rfl

theorem quiet_handleLatheHold (x : Byte) : QuietReach s (s.handleLatheHold x) :=
  quiet_numbered free fun n => (quiet_ackSup free _).trans (single (.supervise _ n true))

theorem quiet_handleLatheRelease (x : Byte) : QuietReach s (s.handleLatheRelease x) :=
  quiet_numbered free fun n => (quiet_ackSup free _).trans (single (.supervise _ n false))

theorem quiet_handleEvents : QuietReach s s.handleEvents := by
  rw [State.handleEvents_eq]
  exact (quiet_reply (p := supervisorPort) (eventsMsg (s.events.records.take 3) s.events.overflow) free rfl).trans
    (single (.attn (s.reply supervisorPort _) s.params { s.events with records := s.events.records.drop 3, overflow := false }
      id (by simp)))

theorem quiet_handlePeek : QuietReach s s.handlePeek := quiet_answer free _ rfl
theorem quiet_handleIdent : QuietReach s s.handleIdent := quiet_answer free _ rfl

theorem quiet_handleJobRead (x : Byte) : QuietReach s (s.handleJobRead x) :=
  quiet_numbered free fun _ => quiet_answer free _ rfl

theorem quiet_handleJobCancel (x : Byte) : QuietReach s (s.handleJobCancel x) := by
  have refuses (c : RefusalCode) : QuietReach s (s.refuseSup 0x73 c) := quiet_refuseSup free _ c
  have accepts {t : State} (h : JobReach (s.ackSup 0x73) t) : QuietReach s t := (quiet_ackSup free _).trans h.toQuiet
  unfold State.handleJobCancel
  split
  · exact refuses _
  · split
    · exact refuses _
    · next i _ =>
      split
      · exact refuses _
      · split
        · unfold State.cancelActive
          split
          · exact refuses _
          · split
            · exact accepts (job_removeActive _ i)
            · exact accepts (job_convertToReturn _ i)
            · exact refuses _
        · exact accepts (job_cancelIdle _ i)
        · exact accepts (job_cancelIdle _ i)

omit free in
theorem quiet_shuttleReply {t : State} (free : (s.port supervisorPort).replyPending = false) (h : JobReach s t) :
    QuietReach s t.shuttleReply := quiet_job_reply free h _ rfl

theorem quiet_handleShuttleRun : QuietReach s s.handleShuttleRun := by
  unfold State.handleShuttleRun
  split
  case h_1 => exact quiet_shuttleReply free (last (job_shuttle _ _) (sched_issue s _ _ _ _).toJob)
  case h_2 => exact quiet_shuttleReply free (job_leaveHalt s)
  case h_3 => exact quiet_refuseSup free _ _
  all_goals exact quiet_shuttleReply free (job_shuttle s _)

theorem quiet_handleShuttleHalt : QuietReach s s.handleShuttleHalt := by
  unfold State.handleShuttleHalt
  split
  case h_2 => exact quiet_shuttleReply free (job_haltWait s)
  case h_6 => exact quiet_shuttleReply free .refl
  case h_7 => exact quiet_shuttleReply free .refl
  all_goals exact quiet_shuttleReply free (job_shuttle s _)

theorem quiet_handleShuttleClear : QuietReach s s.handleShuttleClear := by
  unfold State.handleShuttleClear
  split
  · refine quiet_shuttleReply free ?_
    split
    · exact .refl
    · exact (sched_issue s _ _ _ _).toJob
  · exact quiet_refuseSup free _ _

end Supervisor

end Sys2Proof.Machine

namespace Sys2Proof.Machine

open Sys2Proof
open Relation (ReflTransGen)
open Relation.ReflTransGen (single)

/-! ### The links -/

/-- Error counts of which some are raised by 1 up to 255 stay within 255 (R181). -/
theorem raiseCount_le (k : Nat) : raiseCount k ≤ 255 := Nat.min_le_right _ _

theorem Port.noise_counts (q : Port) (b : Bool) (h : q.counts.ok) : (q.noise b).counts.ok := by
  unfold Port.noise
  split
  · exact ⟨raiseCount_le _, h.2⟩
  · exact h

theorem Port.bad_counts (q : Port) (h : q.counts.ok) : q.bad.counts.ok := by
  obtain ⟨noise, framing, parity, overrun, truncated, -⟩ := h
  exact ⟨noise, framing, parity, overrun, truncated, raiseCount_le _⟩

theorem Port.truncate_counts (q : Port) (h : q.counts.ok) : q.truncate.counts.ok := by
  obtain ⟨noise, framing, parity, overrun, truncated, bad⟩ := id h
  unfold Port.truncate
  split
  · exact ⟨noise, framing, parity, overrun, raiseCount_le _, bad⟩
  · exact h

theorem Port.head_counts (q : Port) (p : PortNo) (b : Byte) (h : q.counts.ok) : (q.head p b).counts.ok := by
  unfold Port.head
  split
  · exact q.truncate_counts h
  · exact Port.bad_counts _ (q.truncate_counts h)

theorem Port.offer_counts (q : Port) (bytes : List Byte) (h : q.counts.ok) : (q.offer bytes).counts.ok := by
  obtain ⟨noise, framing, parity, overrun, truncated, bad⟩ := id h
  unfold Port.offer
  split
  · exact h
  · exact ⟨noise, framing, parity, raiseCount_le _, truncated, bad⟩

theorem Port.data_counts (q : Port) (b : Byte) (h : q.counts.ok) : (q.data b).counts.ok := by
  unfold Port.data Port.join
  split
  · dsimp only
    split
    · split
      · exact h
      · exact q.bad_counts h
    · split
      · exact h
      · split
        · exact q.offer_counts _ h
        · exact q.bad_counts h
  · exact h

theorem Port.errorChar_counts (q : Port) (e : CharError) (h : q.counts.ok) : (q.errorChar e).counts.ok := by
  obtain ⟨noise, framing, parity, rest⟩ := h
  cases e
  · exact ⟨noise, raiseCount_le _, parity, rest⟩
  · exact ⟨noise, framing, raiseCount_le _, rest⟩

theorem Port.hear_counts (q : Port) (p : PortNo) (c : RxChar) (named : Received → Bool) (h : q.counts.ok) :
    (q.hear p c named).counts.ok := by
  rcases q.hear_cases p c named with e | ⟨-, -, e⟩ <;> rw [e]
  · exact h
  · cases c.received q.setting.parity with
    | falseStart => exact h
    | head b => exact Port.head_counts _ p b (q.noise_counts _ h)
    | data b => exact Port.data_counts _ b (q.noise_counts _ h)
    | error e => exact Port.errorChar_counts _ e (q.noise_counts _ h)

theorem quiet_hear (s : State) (p : PortNo) (c : RxChar) (named : Received → Bool) :
    QuietReach s (s.setPort p ((s.port p).hear p c named)) := by
  obtain ⟨-, -, -, queue, tx, -⟩ := (s.port p).hear_sending_side p c named
  exact single (.port s p _ (.of_queue queue tx ((s.port p).hear_counts p c named)))

theorem quiet_accountBreak (s : State) (n : Lathe) : QuietReach s (s.accountBreak n) :=
  quiet_visit (last (acct_breakByState _) (acct_post s _))

/-- A port whose register takes the head of its queue sends no more than it held. -/
theorem PortKeeps.of_start {q : Port} {m : Msg} {rest : List Msg} (tx : q.tx = none) (queue : q.queue = m :: rest)
    (x : LinkSetting) : PortKeeps q { q with tx := some m, queue := rest, txSetting := x } := by
  refine ⟨fun h => ?_, fun h => ?_, id⟩
  · obtain ⟨replies, kinds, _⟩ := h
    refine Port.ok_of ?_ ?_
    · unfold Port.replies at *
      rw [tx, queue, List.filter_cons] at replies
      cases notice : m.isNotice <;> simp_all
    · unfold Port.notices at *
      rw [queue, List.filter_cons] at kinds
      split at kinds
      · exact (List.nodup_cons.1 kinds).2
      · exact kinds
  · unfold Port.notices at *
    rw [queue, List.filter_cons] at h
    split at h
    · cases h
    · exact h

/-- A port whose register empties holds no more than it held. -/
theorem PortKeeps.of_done (q : Port) (x y : LinkSetting) (z : Option LinkSetting) :
    PortKeeps q { q with tx := none, setting := x, txSetting := y, newSetting := z } := by
  refine ⟨fun h => ?_, id, id⟩
  obtain ⟨replies, kinds, _⟩ := h
  refine Port.ok_of ?_ kinds
  unfold Port.replies at *
  dsimp only
  omega

theorem quiet_transmitStart (s : State) (p : PortNo) :
    ∃ t, exec (.transmitStart p) s = .next t ∧ QuietReach s t := by
  refine ⟨_, rfl, ?_⟩
  split
  · next tx queue =>
    split
    · exact .refl
    · exact single (.port s p _ (.of_start tx queue _))
  · exact .refl

theorem quiet_transmitDone (s : State) (p : PortNo) :
    ∃ t, exec (.transmitDone p) s = .next t ∧ QuietReach s t := by
  refine ⟨_, rfl, ?_⟩
  split
  · exact .refl
  · split
    · exact single (.port s p _ (.of_done _ _ _ _))
    · exact single (.port s p _ (.of_done _ _ _ _))

theorem quiet_linkBreak (s : State) (p : PortNo) : ∃ t, exec (.linkBreak p) s = .next t ∧ QuietReach s t := by
  refine ⟨_, rfl, ?_⟩
  have broken : QuietReach s (s.setPort p { s.port p with rx := .broken }) :=
    single (.port s p _ (.of_queue rfl rfl id))
  split
  · exact .refl
  · dsimp only
    split
    · exact broken.trans (quiet_accountBreak _ _)
    · exact broken

/-! ### Time and the lathe lines -/

theorem quiet_testCompare (s : State) (n : Lathe) : QuietReach s (s.testCompare n) := by
  rcases s.testCompare_cases n with h | ⟨-, -, -, h⟩ <;> rw [h]
  exact (single (.compare s n _)).trans (sched_deliverOnFire _ n).toQuiet

theorem Account.tick_keeps (a : Account) (now : Time) : AcctKeeps a (a.tick now) := by
  refine ⟨rfl, rfl, rfl, Iff.rfl, fun h => ⟨fun runs => h.1 fun stopped => runs ?_, h.2⟩, id⟩
  rw [show (a.tick now).loadTimer = a.loadTimer.tick from rfl, stopped]
  rfl

theorem quiet_countTick (s : State) : QuietReach s s.countTick := by
  have prescaler : s.timer.tick.prescalerOk := ⟨Nat.zero_le _, s.timer.sel.ms_pos⟩
  have timer : QuietReach s (s.setTimer s.timer.tick) := single (.timer s _ fun _ => prescaler)
  have accounts (u : State) (now : Time) : QuietReach u (u.setAccounts (u.accounts.each fun a => a.tick now)) :=
    single (.accounts u _ (fun a => a.tick_keeps now) fun a => rfl)
  have lines (u : State) : QuietReach u (u.setLines (u.lines.each Line.tick)) :=
    single (.lines u _ fun l => ⟨rfl, fun h => ⟨Nat.min_le_right _ _, h.2⟩⟩)
  exact ((timer.trans (accounts _ _)).trans (lines _)).trans (job_plan (plan_sched _ _)).toQuiet

theorem quiet_sampleGuard (s : State) (n : Lathe) (c : Bool) : QuietReach s (s.sampleGuard n c) := by
  have set {l : Line} (hold : l.holdCmd = (s.line n).holdCmd) (ok : (s.line n).ok → l.ok) :
      QuietReach s (s.setLine n l) := single (.line s n l ⟨hold, ok⟩)
  unfold State.sampleGuard
  dsimp only
  split
  · exact set rfl id
  · split
    · exact set rfl fun h => ⟨h.1, Nat.zero_le _, h.2.2⟩
    · split
      · exact set rfl fun h => ⟨h.1, le_rfl, h.2.2⟩
      · exact (set (l := { s.line n with guardClosed := c, settle := 0 }) rfl fun h => ⟨h.1, Nat.zero_le _, h.2.2⟩).trans (job_guardChanged _ n c).toQuiet

theorem quiet_sampleGuards (s : State) (g : BitVec 12) : QuietReach s (s.sampleGuards g) :=
  (quiet_foldl _ (fun s n => quiet_sampleGuard s n _) _ s).trans (single (.guardSeen _ true))

theorem Line.sense_keeps (l : Line) (b : Bool) : LineKeeps l (l.sense b) := by
  unfold Line.sense
  split
  · exact ⟨rfl, fun h => ⟨h.1, h.2.1, Nat.zero_le _, Nat.min_le_right _ _⟩⟩
  · exact ⟨rfl, fun h => ⟨h.1, h.2.1, Nat.min_le_right _ _, Nat.zero_le _⟩⟩

theorem quiet_senseHold (s : State) (n : Lathe) (b : Bool) : QuietReach s (s.senseHold n b) := by
  have sensed : QuietReach s (s.setLine n ((s.line n).sense b)) := single (.line s n _ ((s.line n).sense_keeps b))
  unfold State.senseHold
  dsimp only
  split
  · exact sensed.trans (job_post _ _).toQuiet
  · exact sensed

theorem quiet_senseHolds (s : State) (h : BitVec 12) : QuietReach s (s.senseHolds h) :=
  quiet_foldl _ (fun s n => quiet_senseHold s n _) _ s

theorem quiet_hallTick (s : State) (g h : BitVec 12) (w : BitVec 64) :
    ∃ t, exec (.hallTick g h w) s = .next t ∧ QuietReach s t := by
  refine ⟨_, rfl, ?_⟩
  have counted := (quiet_countTick s).trans (job_poll _ (statusShifted w)).toQuiet
  have sensed := (counted.trans (quiet_sampleGuards _ g)).trans (quiet_senseHolds _ h)
  exact (sensed.trans (single (.pins _ _))).trans (quiet_foldl _ (fun s n => quiet_testCompare s n) _ _)

theorem quiet_loadTimerExpiry (s : State) (n : Lathe) :
    ∃ t, exec (.loadTimerExpiry n) s = .next t ∧ QuietReach s t := by
  refine ⟨_, rfl, ?_⟩
  have stops : AcctKeeps (s.account n) { s.account n with loadTimer := .stopped } :=
    ⟨rfl, rfl, rfl, Iff.rfl, fun h => ⟨fun k => absurd rfl k, h.2⟩, id⟩
  split
  · dsimp only
    split
    · next loading =>
      obtain ⟨t, reach, eq⟩ := acct_loadTimeout (n := n)
        (s.setAccount n { s.account n with loadTimer := .stopped }) (by simpa using loading) (by simp)
      exact eq ▸ quiet_visit (last reach (acct_set s _ stops))
    · exact single (.account s n _ stops rfl)
  · exact .refl

theorem quiet_guardWaitExpiry (s : State) : ∃ t, exec .guardWaitExpiry s = .next t ∧ QuietReach s t := by
  refine ⟨_, rfl, ?_⟩
  have stopped : QuietReach s (s.setGuardWait .stopped) := (sched_guardWait s _).toQuiet
  split
  · dsimp only
    split
    · split
      · split
        · exact stopped.trans (job_parkActive _ _ _).toQuiet
        · exact stopped.trans (job_guardOverdue _ _).toQuiet
      · exact stopped
    · exact stopped
  · exact .refl

theorem quiet_cutEdge (s : State) (n : Lathe) (e : Edge) : ∃ t, exec (.cutEdge n e) s = .next t ∧ QuietReach s t := by
  refine ⟨_, rfl, ?_⟩
  have seen : QuietReach s (s.seeCut n e) := single (.pins s _)
  split
  · next g program =>
    split
    · refine seen.trans ?_
      have set : QuietReach (s.seeCut n e) ((s.seeCut n e).setLine n { (s.seeCut n e).line n with debounce := 0 }) :=
        single (.line _ n _ ⟨rfl, fun h => ⟨Nat.zero_le _, h.2⟩⟩)
      have captured (u : State) : QuietReach u (u.setTimer { u.timer with capture := u.timer.capture.write n u.now }) :=
        single (.timer u _ id)
      obtain ⟨t, reach, eq⟩ := acct_takeCut (n := n) _ (show
        (((s.seeCut n e).setLine n { (s.seeCut n e).line n with debounce := 0 }).setTimer _ |>.account n).program = some g
        from program)
      exact (set.trans (captured _)).trans (eq.symm ▸ quiet_visit reach : QuietReach _ (State.takeCut _ n))
    · exact seen
  · exact seen

/-! ### The drive -/

theorem quiet_noAnswerFault (s : State) : ∃ t, exec .noAnswerFault s = .next t ∧ QuietReach s t := by
  refine ⟨_, rfl, ?_⟩
  split
  · split
    · exact JobReach.toQuiet ((job_shuttle s _).trans (job_declareFault _ _ _ _))
    · exact .refl
  · exact .refl

theorem quiet_stepTimerExpiry (s : State) : ∃ t, exec .stepTimerExpiry s = .next t ∧ QuietReach s t := by
  refine ⟨_, rfl, ?_⟩
  have stopped := sched_stepTimer s .stopped
  split
  · dsimp only
    split
    · exact JobReach.toQuiet ((stopped.toJob.trans (job_declareFault _ _ _ _)).trans (sched_exchange _ _).toJob)
    · exact stopped.toQuiet
  · exact .refl

theorem quiet_orderComplete (s : State) : ∃ t, exec .orderComplete s = .next t ∧ QuietReach s t := by
  refine ⟨_, rfl, ?_⟩
  split
  · split
    · exact .refl
    · exact JobReach.toQuiet ((job_endOrder s _).trans (job_handOn _ _ _))
  · exact .refl

theorem quiet_clearComplete (s : State) : ∃ t, exec .clearComplete s = .next t ∧ QuietReach s t := by
  refine ⟨_, rfl, ?_⟩
  split
  · split
    · exact JobReach.toQuiet (((job_endOrder s _).trans (job_shuttle _ _)).trans (job_afterClear _ _))
    · exact .refl
  · exact .refl

/-! ### Every command -/

/-- A SETUP accepted from `s`, taken with its ACK queued: the account is neither LOADING nor RUNNING (R9). -/
structure Accepted (s : State) (n : Lathe) (u : State) : Prop where
  reach : QuietReach s u
  notLoading : (u.account n).state ≠ .loading
  notRunning : (u.account n).state ≠ .running

/-- A RESTART accepted from `s`: LP12 holds no reply (R177). -/
structure Restarting (s u : State) : Prop where
  reach : QuietReach s u
  free : (u.port supervisorPort).replyPending = false

theorem State.handleSetup_cases {s : State} {n : Lathe} (m : SetupMsg)
    (free : (s.port (lathePort n)).replyPending = false) :
    QuietReach s (s.handleSetup n m) ∨ ∃ u, Accepted s n u ∧ s.handleSetup n m = u.acceptSetup n m := by
  unfold State.handleSetup
  split
  · exact .inl (quiet_refuse free _ _)
  · next accepted =>
    refine .inr ⟨_, ⟨quiet_ack free 0x21, fun e => ?_, fun e => ?_⟩, rfl⟩ <;>
    · rw [State.ack_account] at e
      unfold State.setupRefusal at accepted
      split at accepted
      · cases accepted
      · rw [e] at accepted; cases accepted

theorem State.handleRestart_cases {s : State} (free : (s.port supervisorPort).replyPending = false) :
    QuietReach s s.handleRestart ∨ s.handleRestart = s.warmRestart := by
  unfold State.handleRestart
  split
  · exact .inr rfl
  · exact .inl (quiet_refuseSup free _ _)

/-- What a request of a lathe can do. -/
theorem State.handleLathe_cases {s : State} {n : Lathe} (free : (s.port (lathePort n)).replyPending = false)
    (r : Request) :
    QuietReach s (s.handleLathe n r) ∨
      ∃ m u, r = .setup m ∧ Accepted s n u ∧ s.handleLathe n r = u.acceptSetup n m := by
  cases r
  case setup m =>
    rcases s.handleSetup_cases m free with h | ⟨u, accepted, eq⟩
    · exact .inl h
    · exact .inr ⟨m, u, rfl, accepted, eq⟩
  case ready => exact .inl (quiet_handleReady free)
  case loaded => exact .inl (quiet_handleLoaded free)
  case stop => exact .inl (quiet_handleStop free)
  case resume => exact .inl (quiet_handleResume free)
  case status => exact .inl (quiet_handleStatus free)
  all_goals exact .inl (quiet_refuse free _ _)

/-- What a request of the supervisor can do. -/
theorem State.handleSup_cases {s : State} (free : (s.port supervisorPort).replyPending = false) (h : BitVec 12)
    (r : Request) :
    QuietReach s (s.handleSup h r) ∨ (r = .restart ∧ s.handleSup h r = s.warmRestart) := by
  cases r
  case restart => exact (State.handleRestart_cases free).imp id fun eq => ⟨rfl, eq⟩
  case paramSet k v => exact .inl (quiet_handleParamSet free k v)
  case paramGet k => exact .inl (quiet_handleParamGet free k)
  case tickSet x => exact .inl (quiet_handleTickSet free x)
  case linkSet p r y => exact .inl (quiet_handleLinkSet free p r y)
  case linkRead p => exact .inl (quiet_handleLinkRead free p)
  case laneAssign k m d => exact .inl (quiet_handleLaneAssign free k m d)
  case laneOpen k => exact .inl (quiet_handleLaneOpen free k)
  case laneClose k => exact .inl (quiet_handleLaneClose free k)
  case laneRead k i => exact .inl (quiet_handleLaneRead free k i)
  case stock k l t => exact .inl (quiet_handleStock free k l t)
  case unstock k => exact .inl (quiet_handleUnstock free k)
  case rejectEmptied => exact .inl (quiet_handleRejectEmptied free)
  case binSet b c => exact .inl (quiet_handleBinSet free b c)
  case binClose b => exact .inl (quiet_handleBinClose free b)
  case binEmptied b => exact .inl (quiet_handleBinEmptied free b)
  case latheRead n => exact .inl (quiet_handleLatheRead free n h)
  case latheHold n => exact .inl (quiet_handleLatheHold free n)
  case latheRelease n => exact .inl (quiet_handleLatheRelease free n)
  case jobRead i => exact .inl (quiet_handleJobRead free i)
  case jobCancel j => exact .inl (quiet_handleJobCancel free j)
  case shuttleRun => exact .inl (quiet_handleShuttleRun free)
  case shuttleHalt => exact .inl (quiet_handleShuttleHalt free)
  case shuttleClear => exact .inl (quiet_handleShuttleClear free)
  case events => exact .inl (quiet_handleEvents free)
  case peek => exact .inl (quiet_handlePeek free)
  case ident => exact .inl (quiet_handleIdent free)
  all_goals exact .inl (quiet_refuseSup free _ _)

/-- Where a command takes the request `r` of port `p` from: its own row, or the mailbox of the port. -/
def takesRequest (c : Instr) (s : State) (p : PortNo) (row : Instr) (r : Request) : Prop :=
  c = row ∨ ∃ h bytes, c = .requestTake h ∧ (s.port p).mailbox = some bytes ∧ parseRequest bytes = some r

theorem latheOf_eq_some {p : PortNo} {n : Lathe} (h : latheOf p = some n) : p = lathePort n := by
  unfold latheOf at h
  split at h
  · cases h; rfl
  · cases h

theorem latheOf_eq_none {p : PortNo} (h : latheOf p = none) : p = supervisorPort := by
  unfold latheOf at h
  split at h
  · cases h
  · exact Fin.ext (show p.val = 12 by omega)

/-- What a command can do: a power-on reset; an accepted SETUP or RESTART; or updates that change no program. -/
inductive Effect (c : Instr) (s : State) : State → Prop
  | reset (h : c = .powerOnReset) : Effect c s (((State.reset.setPending s.pending).setPins s.pins).setDraws s.draws)
  | setup (n : Lathe) (m : SetupMsg) (u : State) (h : Accepted s n u)
      (taken : takesRequest c s (lathePort n) (.setup n m) (.setup m)) : Effect c s (u.acceptSetup n m)
  | restart (u : State) (h : Restarting s u) (taken : takesRequest c s supervisorPort .restart .restart) :
      Effect c s u.warmRestart
  | quiet {t : State} (h : QuietReach s t) : Effect c s t

theorem effect_requestTake (h : BitVec 12) (s : State) :
    ∃ t, exec (.requestTake h) s = .next t ∧ Effect (.requestTake h) s t := by
  refine ⟨_, rfl, ?_⟩
  split
  · exact .quiet .refl
  · next p found =>
    have eligible := List.find?_some found
    rw [State.eligiblePort, Bool.and_eq_true, Bool.not_eq_true'] at eligible
    obtain ⟨-, free⟩ := eligible
    split
    · exact .quiet .refl
    · next bytes mail =>
      have took : QuietReach s ((s.setPort p { s.port p with mailbox := none }).setPointer p) :=
        (single (.port s p _ (.of_queue rfl rfl id))).trans (single (.pointer _ p))
      have free' : (((s.setPort p { s.port p with mailbox := none }).setPointer p).port p).replyPending = false := by
        simpa [Port.replyPending] using free
      generalize (s.setPort p { s.port p with mailbox := none }).setPointer p = u at took free'
      unfold State.handleMessage
      split
      · exact .quiet (took.trans (quiet_refuse free' _ _))
      · next r parsed =>
        split
        · next n lathe =>
          cases latheOf_eq_some lathe
          rcases u.handleLathe_cases free' r with quiet | ⟨m, v, rfl, accepted, eq⟩
          · exact .quiet (took.trans quiet)
          · rw [eq]
            exact .setup n m v ⟨took.trans accepted.reach, accepted.notLoading, accepted.notRunning⟩
              (.inr ⟨h, bytes, rfl, mail, parsed⟩)
        · next supervisor =>
          cases latheOf_eq_none supervisor
          rcases u.handleSup_cases free' h r with quiet | ⟨rfl, eq⟩
          · exact .quiet (took.trans quiet)
          · rw [eq]
            exact .restart u ⟨took, free'⟩ (.inr ⟨h, bytes, rfl, mail, parsed⟩)

/-- A request's own row does what its handler does, or nothing while its port holds a reply. -/
theorem effect_taken {c : Instr} {s : State} {p : PortNo} {f : State → State} (row : exec c s = .next (s.taken p f))
    (h : (s.port p).replyPending = false → QuietReach s (f s)) : ∃ t, exec c s = .next t ∧ Effect c s t :=
  ⟨_, row, .quiet (quiet_taken h)⟩

theorem effect_of_quiet {c : Instr} {s : State} (h : ∃ t, exec c s = .next t ∧ QuietReach s t) :
    ∃ t, exec c s = .next t ∧ Effect c s t := by
  obtain ⟨t, eq, quiet⟩ := h
  exact ⟨t, eq, .quiet quiet⟩

/-- Every command in every state answers a next state, with an effect of one of these kinds. -/
theorem exec_effect (c : Instr) (s : State) : ∃ t, exec c s = .next t ∧ Effect c s t := by
  cases c
  case powerOnReset => exact ⟨_, rfl, .reset rfl⟩
  case hallTick g h w => exact effect_of_quiet (quiet_hallTick s g h w)
  case noAnswerFault => exact effect_of_quiet (quiet_noAnswerFault s)
  case deliveryCompareFire n => exact ⟨_, rfl, .quiet (quiet_testCompare s n)⟩
  case loadTimerExpiry n => exact effect_of_quiet (quiet_loadTimerExpiry s n)
  case guardWaitExpiry => exact effect_of_quiet (quiet_guardWaitExpiry s)
  case stepTimerExpiry => exact effect_of_quiet (quiet_stepTimerExpiry s)
  case cutEdge n e => exact effect_of_quiet (quiet_cutEdge s n e)
  case messageComplete p c => exact ⟨_, rfl, .quiet (quiet_hear s p c _)⟩
  case messageTruncated p c => exact ⟨_, rfl, .quiet (quiet_hear s p c _)⟩
  case characterError p e c => exact ⟨_, rfl, .quiet (quiet_hear s p c _)⟩
  case messageBegun p c => exact ⟨_, rfl, .quiet (quiet_hear s p c _)⟩
  case dataCharacter p c => exact ⟨_, rfl, .quiet (quiet_hear s p c _)⟩
  case lineIdleLimit p =>
    refine ⟨_, rfl, .quiet ?_⟩
    split
    · refine single (.port s p _ (.of_queue ?_ ?_ (s.port p).truncate_counts)) <;>
      · unfold Port.truncate; split <;> rfl
    · exact .refl
  case linkBreak p => exact effect_of_quiet (quiet_linkBreak s p)
  case breakEnd p =>
    refine ⟨_, rfl, .quiet ?_⟩
    split
    · exact single (.port s p _ (.of_queue rfl rfl id))
    · exact .refl
  case requestTake h => exact effect_requestTake h s
  case transmitStart p => exact effect_of_quiet (quiet_transmitStart s p)
  case transmitDone p => exact effect_of_quiet (quiet_transmitDone s p)
  case restartBreakSend p =>
    refine ⟨_, rfl, .quiet ?_⟩
    split
    · exact single (.port s p _ (.of_queue rfl rfl id))
    · exact .refl
  case restartBreakEnd p =>
    refine ⟨_, rfl, .quiet ?_⟩
    split
    · exact single (.port s p _ (.of_queue rfl rfl id))
    · exact .refl
  case setup n m =>
    refine ⟨_, rfl, ?_⟩
    unfold State.taken
    split
    · exact .quiet .refl
    · next free =>
      rcases s.handleSetup_cases m (by simpa using free) with quiet | ⟨u, accepted, eq⟩
      · exact .quiet quiet
      · dsimp only; rw [eq]; exact .setup n m u accepted (.inl rfl)
  case restart =>
    refine ⟨_, rfl, ?_⟩
    unfold State.taken
    split
    · exact .quiet .refl
    · next free =>
      have free : (s.port supervisorPort).replyPending = false := by simpa using free
      rcases State.handleRestart_cases free with quiet | eq
      · exact .quiet quiet
      · dsimp only; rw [eq]; exact .restart s ⟨.refl, free⟩ (.inl rfl)
  case ready => exact effect_taken rfl quiet_handleReady
  case loaded => exact effect_taken rfl quiet_handleLoaded
  case stop => exact effect_taken rfl quiet_handleStop
  case resume => exact effect_taken rfl quiet_handleResume
  case status => exact effect_taken rfl quiet_handleStatus
  case paramSet => exact effect_taken rfl fun free => quiet_handleParamSet free _ _
  case paramGet => exact effect_taken rfl fun free => quiet_handleParamGet free _
  case tickSet => exact effect_taken rfl fun free => quiet_handleTickSet free _
  case linkSet => exact effect_taken rfl fun free => quiet_handleLinkSet free _ _ _
  case linkRead => exact effect_taken rfl fun free => quiet_handleLinkRead free _
  case laneAssign => exact effect_taken rfl fun free => quiet_handleLaneAssign free _ _ _
  case laneOpen => exact effect_taken rfl fun free => quiet_handleLaneOpen free _
  case laneClose => exact effect_taken rfl fun free => quiet_handleLaneClose free _
  case laneRead => exact effect_taken rfl fun free => quiet_handleLaneRead free _ _
  case stock => exact effect_taken rfl fun free => quiet_handleStock free _ _ _
  case unstock => exact effect_taken rfl fun free => quiet_handleUnstock free _
  case rejectEmptied => exact effect_taken rfl quiet_handleRejectEmptied
  case binSet => exact effect_taken rfl fun free => quiet_handleBinSet free _ _
  case binClose => exact effect_taken rfl fun free => quiet_handleBinClose free _
  case binEmptied => exact effect_taken rfl fun free => quiet_handleBinEmptied free _
  case latheRead => exact effect_taken rfl fun free => quiet_handleLatheRead free _ _
  case latheHold => exact effect_taken rfl fun free => quiet_handleLatheHold free _
  case latheRelease => exact effect_taken rfl fun free => quiet_handleLatheRelease free _
  case jobRead => exact effect_taken rfl fun free => quiet_handleJobRead free _
  case jobCancel => exact effect_taken rfl fun free => quiet_handleJobCancel free _
  case shuttleRun => exact effect_taken rfl quiet_handleShuttleRun
  case shuttleHalt => exact effect_taken rfl quiet_handleShuttleHalt
  case shuttleClear => exact effect_taken rfl quiet_handleShuttleClear
  case events => exact effect_taken rfl quiet_handleEvents
  case peek => exact effect_taken rfl quiet_handlePeek
  case ident => exact effect_taken rfl quiet_handleIdent
  case orderComplete => exact effect_of_quiet (quiet_orderComplete s)
  case clearComplete => exact effect_of_quiet (quiet_clearComplete s)

end Sys2Proof.Machine

namespace Sys2Proof.Machine

open Sys2Proof
open Relation (ReflTransGen)
open Relation.ReflTransGen (single)

/-! ### An accepted SETUP (R9 to R11) -/

section AcceptSetup
variable {u : State} {n : Lathe} (m : SetupMsg)

/-- From the state with the new account on, an accepted SETUP is the job sequencer's and the account unit's run. -/
theorem job_acceptSetup (u : State) (n : Lathe) :
    JobReach (u.setAccount n ((u.account n).installed m u.timer.sel u.now)) (u.acceptSetup n m) := by
  obtain ⟨t, reach, eq⟩ := acceptSetup_visit u n m
  exact eq ▸ job_visit n reach

theorem holdOk_acceptSetup (h : u.holdOk) : (u.acceptSetup n m).holdOk := by
  obtain ⟨t, reach, eq⟩ := acceptSetup_visit u n m
  rw [eq]
  refine holdOk_evalHold _ n (reach.holdOkBut ⟨fun k hk => ?_, ?_⟩)
  · exact holdOkAt_congr (u.setAccount_account_ne n _ k hk.symm) rfl (h k)
  · rw [State.setAccount_account_self]
    exact (h n).2

/-- A condition on one account that the installation meets, too, is kept by an accepted SETUP. -/
theorem installed_each {P : Account → Prop} (h : ∀ k, P (u.account k))
    (installed : P ((u.account n).installed m u.timer.sel u.now)) :
    ∀ k, P ((u.setAccount n ((u.account n).installed m u.timer.sel u.now)).account k) := by
  intro k
  rw [State.setAccount_account]
  split
  · exact installed
  · exact h k

theorem AcctState.afterSetup_ne (st : AcctState) (held : Bool) : st.afterSetup held ≠ .noProg := by
  unfold AcctState.afterSetup
  split
  · decide
  · cases held <;> decide

theorem loadOk_acceptSetup (notLoading : (u.account n).state ≠ .loading) (h : u.loadOk) :
    (u.acceptSetup n m).loadOk := by
  obtain ⟨stopped, unmarked⟩ := loadOk_rest notLoading (h n)
  refine (job_acceptSetup m u n).loadOk (installed_each (P := Account.loadOk) m h ⟨fun runs => ?_, fun marked => ?_⟩)
  · exact absurd stopped runs
  · exact absurd marked (by simpa [Account.installed, Account.install, Account.marked] using unmarked)

theorem programOk_acceptSetup (h : u.programOk) : (u.acceptSetup n m).programOk := by
  refine (job_acceptSetup m u n).programOk
    (installed_each (P := fun a => a.state = .noProg ↔ a.program = none) m h ⟨fun e => ?_, fun e => ?_⟩)
  · exact absurd e (AcctState.afterSetup_ne _ _)
  · cases e

theorem countersOk_acceptSetup (h : u.countersOk) : (u.acceptSetup n m).countersOk := by
  obtain ⟨⟨binary, decimal⟩, lines, trays, counts⟩ := h
  have reach := job_acceptSetup m u n
  have kept := reach.kept
  refine ⟨⟨?_, ?_⟩, reach.linesOk lines, reach.trayOk (installed_each (P := fun a => a.tray ≤ 1023) m trays (trays n)),
    fun p => ?_⟩
  · rw [kept.binary]; exact binary
  · rw [kept.decimal, kept.sel]; exact decimal
  · rw [reach.counts]; exact counts p

/-- A SETUP of lathe `n` changes the program of no other. -/
theorem program_acceptSetup {k : Lathe} (h : n ≠ k) :
    ((u.acceptSetup n m).account k).program = (u.account k).program := by
  have kept := (job_acceptSetup m u n).toQuiet.program k
  rw [kept, State.setAccount_account_ne _ _ _ _ h]

end AcceptSetup

/-! ### An accepted RESTART (R6, R183, R198) -/

section Restart

/-- The blocks brought to their values, and every hold reason set evaluated (R198 steps 1 to 5). -/
def State.restartHeld (u : State) : State := (List.finRange 12).foldl (fun s n => s.evalHold n) u.restartBlocks

theorem State.warmRestart_eq (u : State) : u.warmRestart = u.restartHeld.restartEvents.ackSup 0x79 := rfl

/-- Conditions that each evaluation of a hold reason set keeps. -/
theorem foldl_evalHold_keep {P : State → Prop} (h : ∀ s n, P s → P (s.evalHold n)) (l : List Lathe) {s : State}
    (hs : P s) : P (l.foldl (fun s n => s.evalHold n) s) := by
  induction l generalizing s with
  | nil => exact hs
  | cons n l ih => exact ih (h s n hs)

theorem State.restartBlocks_accounts (u : State) : u.restartBlocks.accounts = u.accounts.each Account.restarted := rfl
theorem State.restartBlocks_lines (u : State) : u.restartBlocks.lines = u.lines.each Line.restarted := rfl
theorem State.restartBlocks_ports (u : State) : u.restartBlocks.ports = u.ports.eachAt fun p q => q.restarted p := rfl
theorem State.restartBlocks_bins (u : State) :
    u.restartBlocks.bins = u.bins.each fun b => { b with inFlight := 0 } := rfl
theorem State.restartBlocks_timer (u : State) : u.restartBlocks.timer = u.timer.restarted := rfl
theorem State.restartBlocks_params (u : State) : u.restartBlocks.params = u.params := by simp [State.restartBlocks]
theorem State.restartBlocks_pending (u : State) : u.restartBlocks.pending = u.pending := by
  simp [State.restartBlocks]

theorem State.restartBlocks_account (u : State) (n : Lathe) :
    u.restartBlocks.account n = (u.account n).restarted := by
  rw [State.account, State.restartBlocks_accounts, Bank.read_each]
  rfl
theorem State.restartBlocks_line (u : State) (n : Lathe) : u.restartBlocks.line n = (u.line n).restarted := by
  rw [State.line, State.restartBlocks_lines, Bank.read_each]
  rfl
theorem State.restartBlocks_port (u : State) (p : PortNo) : u.restartBlocks.port p = (u.port p).restarted p := by
  rw [State.port, State.restartBlocks_ports, Bank.read_eachAt]
  rfl
theorem State.restartBlocks_bin (u : State) (b : BinNo) : u.restartBlocks.bin b = { u.bin b with inFlight := 0 } := by
  rw [State.bin, State.restartBlocks_bins, Bank.read_each]
  rfl

/-- The event queue emptied and RESTARTED posted, and the ACK: nothing but the event queue and LP12's own queue. -/
structure QueuedOnly (s t : State) : Prop where
  pending : t.pending = s.pending
  params : t.params = s.params
  accounts : t.accounts = s.accounts
  lines : t.lines = s.lines
  bins : t.bins = s.bins

theorem State.restartEvents_queuedOnly (s : State) : QueuedOnly s s.restartEvents := by
  constructor <;> simp [State.restartEvents]
theorem State.restartEvents_ports (s : State) : s.restartEvents.ports = s.ports := by simp [State.restartEvents]
theorem State.restartEvents_timer (s : State) : s.restartEvents.timer = s.timer := by simp [State.restartEvents]
theorem State.restartEvents_eventsOk (s : State) : s.restartEvents.eventsOk := by
  simp [State.eventsOk, State.restartEvents, State.post_events]

theorem State.restartEvents_countersOk {s : State} (h : s.countersOk) : s.restartEvents.countersOk :=
  QuietPrim.countersOk (s := s.setEvents { s.events with records := [], overflow := false })
    (.job (.sched (.plan (.post _ _)))) h
theorem State.ackSup_queuedOnly (s : State) (kind : Byte) : QueuedOnly s (s.ackSup kind) := ⟨rfl, rfl, rfl, rfl, rfl⟩
theorem State.ackSup_eventsOk {s : State} (kind : Byte) (h : s.eventsOk) : (s.ackSup kind).eventsOk := h

theorem QueuedOnly.trans {s t u : State} (h : QueuedOnly s t) (k : QueuedOnly t u) : QueuedOnly s u :=
  ⟨k.pending.trans h.pending, k.params.trans h.params, k.accounts.trans h.accounts, k.lines.trans h.lines,
    k.bins.trans h.bins⟩

theorem State.warmRestart_queuedOnly (u : State) : QueuedOnly u.restartHeld u.warmRestart :=
  u.restartHeld.restartEvents_queuedOnly.trans (State.ackSup_queuedOnly _ 0x79)

/-- Over the evaluation of some lathes' sets, the commanded levels follow the sets held, and those sets are as R22
gives. -/
theorem foldl_evalHold_holds (l : List Lathe) (s : State)
    (levels : ∀ n, (s.line n).holdCmd = (s.account n).holdSet.nonempty) :
    let t := l.foldl (fun s n => s.evalHold n) s
    (∀ n, (t.line n).holdCmd = (t.account n).holdSet.nonempty) ∧
      ∀ n, n ∈ l ∨ (s.account n).holdSet = (s.account n).reasons → (t.account n).holdSet = (t.account n).reasons := by
  induction l generalizing s with
  | nil => exact ⟨levels, fun n h => h.resolve_left List.not_mem_nil⟩
  | cons m l ih =>
    have level : ∀ n, ((s.evalHold m).line n).holdCmd = ((s.evalHold m).account n).holdSet.nonempty := by
      intro n
      by_cases e : m = n
      · subst e
        rw [State.evalHold_account_self, State.evalHold_line_self]
        split
        · next same => rw [levels m, same]
        · exact Line.command_holdCmd _ _
      · rw [State.evalHold_account_ne _ _ _ e, State.evalHold_line_ne _ _ _ e]
        exact levels n
    obtain ⟨follow, held⟩ := ih (s.evalHold m) level
    refine ⟨follow, fun n h => held n ?_⟩
    by_cases e : m = n
    · subst e
      exact .inr (by rw [State.evalHold_account_self]; rfl)
    · rw [State.evalHold_account_ne _ _ _ e]
      exact h.imp (fun k => (List.mem_cons.1 k).resolve_left (Ne.symm e)) id

theorem holdOk_restartHeld {u : State} (h : u.holdOk) : u.restartHeld.holdOk := by
  obtain ⟨levels, sets⟩ := foldl_evalHold_holds (List.finRange 12) u.restartBlocks fun n => by
    rw [State.restartBlocks_account, State.restartBlocks_line]
    exact (h n).2
  exact fun n => ⟨sets n (.inl (List.mem_finRange n)), levels n⟩

theorem account_restartHeld (u : State) (n : Lathe) :
    ∃ h, u.restartHeld.account n = { (u.account n).restarted with holdSet := h } := by
  refine foldl_evalHold_keep (P := fun s => ∃ h, s.account n = { (u.account n).restarted with holdSet := h })
    (fun s m hs => ?_) _ ⟨(u.account n).holdSet, State.restartBlocks_account u n⟩
  obtain ⟨h, eq⟩ := hs
  by_cases e : m = n
  · subst e
    exact ⟨(s.account m).reasons, by rw [State.evalHold_account_self, eq]⟩
  · exact ⟨h, by rw [State.evalHold_account_ne _ _ _ e, eq]⟩

/-- A restarted port keeps its transmit register alone, and LP12's is free of replies where LP12 was. -/
theorem Port.ok_restarted {q : Port} (p : PortNo) (h : q.ok) : (q.restarted p).ok := by
  obtain ⟨replies, _⟩ := h
  refine Port.ok_of ?_ List.nodup_nil
  simp only [Port.replies, Port.restarted] at *
  simp only [List.filter_nil, List.length_nil]
  omega

theorem portsOk_restartHeld {u : State} (h : u.portsOk) : u.restartHeld.portsOk := by
  refine foldl_evalHold_keep portsOk_evalHold _ ⟨fun p => ?_, ?_⟩
  · rw [State.restartBlocks_port]
    exact Port.ok_restarted p (h.1 p)
  · rw [State.restartBlocks_port]
    rfl

theorem port_sup_restartHeld (u : State) :
    u.restartHeld.port supervisorPort = (u.port supervisorPort).restarted supervisorPort :=
  foldl_evalHold_keep (P := fun s => s.port supervisorPort = _) (fun s n h => (State.evalHold_port_sup s n).trans h) _
    (State.restartBlocks_port u _)

theorem free_restartHeld {u : State} (free : (u.port supervisorPort).replyPending = false) :
    (u.restartHeld.restartEvents.port supervisorPort).replyPending = false := by
  rw [State.port, State.restartEvents_ports, ← State.port, port_sup_restartHeld]
  simp only [Port.replyPending, Bool.or_eq_false_iff] at free
  obtain ⟨-, register⟩ := free
  simpa [Port.replyPending, Port.restarted] using register

theorem quiet_ack_restart {u : State} (free : (u.port supervisorPort).replyPending = false) :
    QuietReach u.restartHeld.restartEvents u.warmRestart := quiet_ackSup (free_restartHeld free) _

theorem eventsOk_warmRestart (u : State) : u.warmRestart.eventsOk :=
  State.ackSup_eventsOk 0x79 u.restartHeld.restartEvents_eventsOk

theorem portsOk_warmRestart {u : State} (free : (u.port supervisorPort).replyPending = false) (h : u.portsOk) :
    u.warmRestart.portsOk := by
  have posted : u.restartHeld.restartEvents.portsOk :=
    portsOk_congr (State.restartEvents_ports _) (portsOk_restartHeld h)
  exact keepsAll (P := State.portsOk) (fun _ _ => QuietPrim.portsOk) (quiet_ack_restart free) posted

theorem holdOk_warmRestart {u : State} (h : u.holdOk) : u.warmRestart.holdOk :=
  holdOk_congr u.warmRestart_queuedOnly.accounts u.warmRestart_queuedOnly.lines (holdOk_restartHeld h)

theorem binsOk_warmRestart {u : State} (h : u.binsOk) : u.warmRestart.binsOk := by
  have blocks : u.restartBlocks.binsOk := fun b => by
    have := h b
    rw [State.restartBlocks_bin]
    simp only [Bin.ok] at *
    omega
  refine binsOk_congr u.warmRestart_queuedOnly.bins ?_
  exact foldl_evalHold_keep (fun s n hs => binsOk_congr (State.evalHold_bins s n) hs) _ blocks

theorem warmRestart_account (u : State) (n : Lathe) : u.warmRestart.account n = u.restartHeld.account n := by
  rw [State.account, u.warmRestart_queuedOnly.accounts, ← State.account]

theorem loadOk_warmRestart (u : State) : u.warmRestart.loadOk := by
  intro n
  obtain ⟨h, eq⟩ := account_restartHeld u n
  rw [warmRestart_account, eq]
  refine ⟨fun k => absurd rfl k, fun k => ?_⟩
  cases cradle : (u.account n).cradle <;> simp [Account.marked, Account.restarted, cradle] at k

theorem programOk_warmRestart (u : State) : u.warmRestart.programOk := by
  intro n
  obtain ⟨h, eq⟩ := account_restartHeld u n
  rw [warmRestart_account, eq]
  exact ⟨fun _ => rfl, fun _ => rfl⟩

theorem warmRestart_params (u : State) : u.warmRestart.params = u.params :=
  u.warmRestart_queuedOnly.params.trans (foldl_evalHold_keep (P := fun s => s.params = u.params)
    (fun s n h => (State.evalHold_params s n).trans h) (List.finRange 12) u.restartBlocks_params)

theorem warmRestart_pending (u : State) : u.warmRestart.pending = u.pending :=
  u.warmRestart_queuedOnly.pending.trans (foldl_evalHold_keep (P := fun s => s.pending = u.pending)
    (fun s n h => (State.evalHold_pending s n).trans h) (List.finRange 12) u.restartBlocks_pending)

theorem countersOk_warmRestart {u : State} (free : (u.port supervisorPort).replyPending = false) (h : u.countersOk) :
    u.warmRestart.countersOk := by
  obtain ⟨-, lines, trays, counts⟩ := h
  have blocks : u.restartBlocks.countersOk := by
    refine ⟨?_, fun n => ?_, fun n => ?_, fun p => ?_⟩
    · rw [State.restartBlocks_timer]
      exact ⟨Nat.zero_le _, u.timer.sel.ms_pos⟩
    · rw [State.restartBlocks_line]
      exact ⟨le_rfl, (lines n).2.1, Nat.zero_le _, Nat.zero_le _⟩
    · rw [State.restartBlocks_account]
      exact trays n
    · rw [State.restartBlocks_port]
      exact counts p
  have held : u.restartHeld.countersOk :=
    foldl_evalHold_keep (fun s n hs =>
      keepsAll (P := State.countersOk) (fun _ _ => QuietPrim.countersOk) (quiet_visit (n := n) (.refl)) hs) _ blocks
  have posted := State.restartEvents_countersOk held
  exact keepsAll (P := State.countersOk) (fun _ _ => QuietPrim.countersOk) (quiet_ack_restart free) posted

end Restart

/-! ### A step -/

theorem HallTimer.refclk_prescalerOk {t : HallTimer} (h : t.prescalerOk) : t.refclk.prescalerOk := by
  obtain ⟨binary, decimal⟩ := h
  unfold HallTimer.refclk
  split
  · next below => exact ⟨below, decimal⟩
  · split
    · next below => exact ⟨Nat.zero_le _, below⟩
    · exact ⟨binary, decimal⟩

/-- A step is a REFCLK period or the effect of a command. -/
theorem step_effect {s t : State} (h : step s = .next t) :
    QuietReach s t ∨ ∃ c rest, Effect c (s.setPending rest) t := by
  unfold step at h
  split at h
  · cases h
    exact .inl (single (.timer s _ HallTimer.refclk_prescalerOk))
  · next c rest _ =>
    obtain ⟨t', eq, effect⟩ := exec_effect c (s.setPending rest)
    rw [eq] at h
    cases h
    exact .inr ⟨c, rest, effect⟩

/-- A condition that reset meets, that updates of every kind keep, and an accepted SETUP and RESTART, too, is kept by
every step; the waiting commands, the pins and the count of free values are no part of it. -/
theorem step_keeps {P : State → Prop} (pending : ∀ s x, P s → P (s.setPending x)) (pins : ∀ s x, P s → P (s.setPins x))
    (draws : ∀ s x, P s → P (s.setDraws x)) (reset : P State.reset) (quiet : ∀ s t, QuietPrim s t → P s → P t)
    (setup : ∀ u n m, (u.account n).state ≠ .loading → P u → P (u.acceptSetup n m))
    (restart : ∀ u, (u.port supervisorPort).replyPending = false → P u → P u.warmRestart) {s t : State}
    (h : step s = .next t) (hs : P s) : P t := by
  rcases step_effect h with reach | ⟨c, rest, effect⟩
  · exact keepsAll quiet reach hs
  · have hs' := pending s rest hs
    cases effect with
    | reset => exact draws _ _ (pins _ _ (pending _ _ reset))
    | setup n m u accepted => exact setup u n m accepted.notLoading (keepsAll quiet accepted.reach hs')
    | restart u restarting => exact restart u restarting.free (keepsAll quiet restarting.reach hs')
    | quiet reach => exact keepsAll quiet reach hs'

/-! ### The state after reset -/

theorem reset_eventsOk : State.reset.eventsOk := ⟨Nat.zero_le _, rfl⟩
theorem reset_portsOk : State.reset.portsOk :=
  ⟨fun p => by rw [State.reset_port]; exact ⟨Nat.zero_le _, List.nodup_nil, Nat.zero_le _⟩,
    by rw [State.reset_port]; rfl⟩
theorem reset_holdOk : State.reset.holdOk := fun n => by
  rw [State.holdOkAt, State.reset_account, State.reset_line]
  exact ⟨rfl, rfl⟩
theorem reset_binsOk : State.reset.binsOk := fun b => by
  rw [show State.reset.bin b = .powerOn from Bank.read_fill _ _]
  simp [Bin.ok, Bin.powerOn]
theorem reset_paramsOk : State.reset.paramsOk := by
  simp [State.paramsOk, State.reset, Params.powerOn]
theorem reset_countersOk : State.reset.countersOk := by
  refine ⟨⟨Nat.zero_le _, TickSel.ms_pos _⟩, fun n => ?_, fun n => ?_, fun p => ?_⟩
  · rw [State.reset_line]; simp [Line.ok, Line.powerOn, Config.debounceMax]
  · rw [State.reset_account]; exact Nat.zero_le _
  · rw [State.reset_port]; exact ErrorCounts.zero_ok
theorem reset_loadOk : State.reset.loadOk := fun n => by
  rw [State.reset_account]
  exact ⟨fun k => absurd rfl k, fun k => Bool.noConfusion k⟩
theorem reset_programOk : State.reset.programOk := fun n => by
  rw [State.reset_account]
  exact ⟨fun _ => rfl, fun _ => rfl⟩

/-! ### The kept kinds -/

/-- Settles O55: both conditions hold after reset, and each kind of update of a step keeps them. -/
theorem stepKeepsQueues : Obligations.StepKeepsQueues := by
  intro s t h
  constructor
  · exact step_keeps (P := State.eventsOk) (fun _ _ hs => hs) (fun _ _ hs => hs) (fun _ _ hs => hs) reset_eventsOk
      (fun _ _ => QuietPrim.eventsOk) (fun u n m _ hu => (job_acceptSetup m u n).eventsOk hu)
      (fun u _ _ => eventsOk_warmRestart u) h
  · exact step_keeps (P := State.portsOk) (fun _ _ hs => hs) (fun _ _ hs => hs) (fun _ _ hs => hs) reset_portsOk
      (fun _ _ => QuietPrim.portsOk) (fun u n m _ hu => (job_acceptSetup m u n).portsOk hu)
      (fun _ => portsOk_warmRestart) h

/-- Settles O56: between the evaluations of a lathe's set only that lathe's hold is out of step, and every visit to an
account ends with one. -/
theorem stepKeepsHolds : Obligations.StepKeepsHolds := fun _ _ hs h =>
  step_keeps (P := State.holdOk) (fun _ _ hs => hs) (fun _ _ hs => hs) (fun _ _ hs => hs) reset_holdOk
    (fun _ _ => QuietPrim.holdOk) (fun _ _ m _ => holdOk_acceptSetup m) (fun _ _ => holdOk_warmRestart) h hs

/-- Settles O57: each of the three conditions holds after reset, and each kind of update of a step keeps it. -/
theorem stepKeepsRanges : Obligations.StepKeepsRanges := by
  intro s t h
  refine ⟨?_, ?_, ?_⟩
  · exact step_keeps (P := State.binsOk) (fun _ _ hs => hs) (fun _ _ hs => hs) (fun _ _ hs => hs) reset_binsOk
      (fun _ _ => QuietPrim.binsOk) (fun u n m _ hu => (job_acceptSetup m u n).binsOk hu)
      (fun _ _ => binsOk_warmRestart) h
  · exact step_keeps (P := fun s => s.params.ok) (fun _ _ hs => hs) (fun _ _ hs => hs) (fun _ _ hs => hs)
      reset_paramsOk (fun _ _ => QuietPrim.params_ok)
      (fun u n m _ hu => by rw [(job_acceptSetup m u n).kept.params]; exact hu)
      (fun u _ hu => by rw [warmRestart_params]; exact hu) h
  · exact step_keeps (P := State.countersOk) (fun _ _ hs => hs) (fun _ _ hs => hs) (fun _ _ hs => hs) reset_countersOk
      (fun _ _ => QuietPrim.countersOk) (fun _ _ m _ => countersOk_acceptSetup m) (fun _ => countersOk_warmRestart) h

/-- Settles O58: both conditions are of each account alone, and the account unit keeps them. -/
theorem stepKeepsAccounts : Obligations.StepKeepsAccounts := by
  intro s t h
  constructor
  · exact step_keeps (P := State.loadOk) (fun _ _ hs => hs) (fun _ _ hs => hs) (fun _ _ hs => hs) reset_loadOk
      (fun _ _ => QuietPrim.loadOk) (fun _ _ m => loadOk_acceptSetup m) (fun u _ _ => loadOk_warmRestart u) h
  · exact step_keeps (P := State.programOk) (fun _ _ hs => hs) (fun _ _ hs => hs) (fun _ _ hs => hs) reset_programOk
      (fun _ _ => QuietPrim.programOk) (fun _ _ m _ => programOk_acceptSetup m)
      (fun u _ _ => programOk_warmRestart u) h

/-- Settles O60: of the effects a command can have, the updates of every kind leave each program, and an accepted SETUP
those of the other lathes. -/
theorem onlySetupChangesProgram : Obligations.OnlySetupChangesProgram := by
  intro c s t n h changed
  obtain ⟨t', eq, effect⟩ := exec_effect c s
  rw [eq] at h
  cases h
  cases effect with
  | reset e => exact .inr (.inr (.inl e))
  | setup k m u accepted taken =>
    by_cases same : k = n
    · subst same
      rcases taken with row | ⟨levels, bytes, row, mail, parsed⟩
      · exact .inl ⟨m, row⟩
      · exact .inr (.inr (.inr ⟨levels, bytes, row, .inl ⟨mail, m, parsed⟩⟩))
    · exact absurd ((program_acceptSetup m same).trans (accepted.reach.program n)) changed
  | restart u restarting taken =>
    rcases taken with row | ⟨levels, bytes, row, mail, parsed⟩
    · exact .inr (.inl row)
    · exact .inr (.inr (.inr ⟨levels, bytes, row, .inr ⟨mail, parsed⟩⟩))
  | quiet reach => exact absurd (reach.program n) changed

/-- Settles O2: every command has an effect, and no effect touches the commands that wait. -/
theorem everyCommandCompletes : Obligations.EveryCommandCompletes := by
  intro c s
  obtain ⟨t, eq, effect⟩ := exec_effect c s
  refine ⟨t, eq, ?_⟩
  cases effect with
  | reset => rfl
  | setup n m u accepted => exact (job_acceptSetup m u n).kept.pending.trans accepted.reach.pending
  | restart u restarting => exact (warmRestart_pending u).trans restarting.reach.pending
  | quiet reach => exact reach.pending

end Sys2Proof.Machine

/-! PROOFS. The links: what a candidate character is, what each receive state makes of it, sending, and the decoder's
round robin (R169 to R183). -/
namespace Sys2Proof

/-! ### What a candidate character is -/

/-- Bits joined by exclusive or tell whether an odd number of them is set. -/
theorem foldl_xor_eq {α : Type} (f : α → Bool) (l : List α) (x : Bool) :
    l.foldl (fun acc i => acc ^^ f i) x = (x ^^ decide (l.countP f % 2 = 1)) := by
  induction l generalizing x with
  | nil => simp
  | cons a l ih =>
    rw [List.foldl_cons, ih, List.countP_cons]
    cases f a
    · simp
    · rcases Nat.mod_two_eq_zero_or_one (l.countP f) with h | h <;> cases x <;> simp [Nat.add_mod, h]

theorem RxChar.data_toList (c : RxChar) : c.data.toList = (List.finRange 8).map c.data.read := by
  apply List.ext_getElem <;> simp [Bank.read]

theorem RxChar.evenParity_byte (c : RxChar) (mark : Bool) :
    evenParity c.byte mark = (mark ^^ decide (c.data.toList.countP isHigh % 2 = 1)) := by
  have range : List.range 8 = (List.finRange 8).map Fin.val := rfl
  rw [evenParity, range, List.foldl_map, foldl_xor_eq, c.data_toList, List.countP_map]
  simp only [RxChar.byte_getLsbD]
  rfl

/-- The parity bit is wrong exactly where the count of ones is odd (R169, R171). -/
theorem RxChar.parity_wrong_iff (c : RxChar) :
    (isHigh c.parity != evenParity c.byte (isHigh c.mark)) = decide (c.ones % 2 = 1) := by
  have marks : [c.mark, c.parity].countP isHigh = (isHigh c.mark).toNat + (isHigh c.parity).toNat := by
    cases hm : isHigh c.mark <;> cases hp : isHigh c.parity <;> simp [hm, hp]
  rw [c.evenParity_byte, RxChar.ones, List.countP_append, marks]
  generalize c.data.toList.countP isHigh = n
  rcases Nat.mod_two_eq_zero_or_one n with h | h <;> cases isHigh c.mark <;> cases isHigh c.parity <;>
    simp [Nat.add_mod, h]

theorem RxChar.byte_eq (c : RxChar) (b : Byte) (h : ∀ i : Fin 8, b.getLsbD i.val = isHigh (c.data.read i)) :
    c.byte = b := by
  apply BitVec.eq_of_getLsbD_eq
  intro i hi
  rw [c.byte_getLsbD ⟨i, hi⟩, h ⟨i, hi⟩]

/-- A candidate that reads as a character without error is decided to be that character. -/
theorem RxChar.received_of_reads {c : RxChar} {parity mark : Bool} {b : Byte} (h : c.reads parity mark b) :
    c.received parity = if mark then .head b else .data b := by
  obtain ⟨start, stop, isMark, bits, even⟩ := h
  have right : (parity && (isHigh c.parity != evenParity c.byte (isHigh c.mark))) = false := by
    rw [c.parity_wrong_iff]
    cases parity
    · rfl
    · simp [even rfl]
  have byte := c.byte_eq b bits
  subst isMark byte
  simp only [RxChar.received, majority_eq_isHigh, start, stop, right]
  rfl

theorem RxChar.received_of_odd {c : RxChar} (start : isHigh c.start = false) (stop : isHigh c.stop = true)
    (odd : c.ones % 2 = 1) : c.received true = .error .parity := by
  simp [RxChar.received, start, stop, c.parity_wrong_iff, odd]

/-- With parity off no candidate has a parity error (R171). -/
theorem RxChar.received_off_ne_parity (c : RxChar) : c.received false ≠ .error .parity := by
  unfold RxChar.received
  simp only [Bool.false_and, Bool.false_eq_true, if_false]
  split
  · exact nofun
  · split
    · exact nofun
    · split <;> exact nofun

end Sys2Proof

namespace Sys2Proof.Machine

open Sys2Proof

/-! ### Hearing -/

@[simp] theorem State.setPort_port_eq (s : State) (p : PortNo) : s.setPort p (s.port p) = s := by
  unfold State.setPort State.port
  rw [Bank.write_read]
  rfl

section Hear
variable {q : Port} {p : PortNo} {c : RxChar} {named : Received → Bool}

theorem Port.hear_of_deaf (h : ¬q.listens c) : q.hear p c named = q :=
  (q.hear_cases p c named).resolve_right fun k => h k.1

theorem Port.hear_of_unnamed (h : named (c.received q.setting.parity) = false) : q.hear p c named = q :=
  (q.hear_cases p c named).resolve_right fun k => by rw [h] at k; exact Bool.noConfusion k.2.1

theorem Port.hear_of_named (h : q.listens c) (k : named (c.received q.setting.parity) = true) :
    q.hear p c named =
      { q.take p (c.noise q.setting.parity) (c.received q.setting.parity) with
        seenHigh := c.received q.setting.parity != .error .framing } := by
  have looks := (q.looks_iff_listens c).2 h
  simp [Port.hear, looks, k]

theorem Port.noise_eq (q : Port) (b : Bool) :
    q.noise b =
      { q with counts := { q.counts with noise := if b then min (q.counts.noise + 1) 255 else q.counts.noise } } := by
  cases b <;> rfl

end Hear

/-- A KIND known for the port, as R174 gives the two ranges. -/
theorem knownKind_iff (p : PortNo) (b : Byte) :
    knownKind p b = true ↔
      (p.val ≤ 11 ∧ 0x21 ≤ b.toNat ∧ b.toNat ≤ 0x26) ∨ (p.val = 12 ∧ 0x60 ≤ b.toNat ∧ b.toNat ≤ 0x7A) := by
  have supervisor : p = supervisorPort ↔ p.val = 12 := ⟨fun e => by rw [e]; rfl, fun e => Fin.ext e⟩
  unfold knownKind
  simp only [supervisor]
  split <;> simp <;> omega

theorem exec_messageBegun (p : PortNo) (c : RxChar) (s : State) :
    exec (.messageBegun p c) s = .next (s.setPort p ((s.port p).hear p c Received.isHead)) := rfl
theorem exec_messageTruncated (p : PortNo) (c : RxChar) (s : State) :
    exec (.messageTruncated p c) s = .next (s.setPort p ((s.port p).hear p c Received.isHead)) := rfl
theorem exec_dataCharacter (p : PortNo) (c : RxChar) (s : State) :
    exec (.dataCharacter p c) s = .next (s.setPort p ((s.port p).hear p c Received.isData)) := rfl
theorem exec_messageComplete (p : PortNo) (c : RxChar) (s : State) :
    exec (.messageComplete p c) s = .next (s.setPort p ((s.port p).hear p c Received.isData)) := rfl
theorem exec_characterError (p : PortNo) (e : CharError) (c : RxChar) (s : State) :
    exec (.characterError p e c) s = .next (s.setPort p ((s.port p).hear p c (· == .error e))) := rfl

/-- A head character heard (R174). -/
theorem Port.hear_head {q : Port} {c : RxChar} {b : Byte} (p : PortNo) (h : c.reads q.setting.parity true b)
    (listens : q.listens c) :
    q.hear p c Received.isHead = { (q.noise (c.noisy q.setting.parity)).head p b with seenHigh := true } := by
  have received : c.received q.setting.parity = .head b := RxChar.received_of_reads h
  rw [Port.hear_of_named listens (by rw [received]; rfl), received, c.noise_eq_noisy]
  rfl

/-- A data character heard (R175). -/
theorem Port.hear_data {q : Port} {c : RxChar} {b : Byte} (p : PortNo) (h : c.reads q.setting.parity false b)
    (listens : q.listens c) :
    q.hear p c Received.isData = { (q.noise (c.noisy q.setting.parity)).data b with seenHigh := true } := by
  have received : c.received q.setting.parity = .data b := RxChar.received_of_reads h
  rw [Port.hear_of_named listens (by rw [received]; rfl), received, c.noise_eq_noisy]
  rfl

/-- A character in error heard (R171). -/
theorem Port.hear_error {q : Port} {c : RxChar} {e : CharError} (p : PortNo)
    (h : c.received q.setting.parity = .error e) (listens : q.listens c) :
    q.hear p c (· == .error e) =
      { (q.noise (c.noisy q.setting.parity)).errorChar e with seenHigh := decide (e = .parity) } := by
  rw [Port.hear_of_named listens (by rw [h]; exact beq_self_eq_true _), h, c.noise_eq_noisy]
  cases e <;> rfl

theorem Port.noise_rx (q : Port) (b : Bool) : (q.noise b).rx = q.rx := by rw [Port.noise_eq]

theorem Port.truncate_of_rest {q : Port} (h : q.rx = .lineIdle ∨ q.rx = .discarding) : q.truncate = q := by
  unfold Port.truncate
  rcases h with e | e <;> rw [e]

theorem Port.truncate_of_message {q : Port} {bytes : List Byte} (h : q.rx = .inMessage bytes) :
    q.truncate = { q with counts := { q.counts with truncated := min (q.counts.truncated + 1) 255 } } := by
  unfold Port.truncate
  rw [h]
  rfl

/-- A KIND that is not known is counted bad and discarded (R174). -/
theorem Port.head_eq (q : Port) (p : PortNo) (b : Byte) :
    q.head p b =
      { q.truncate with
        rx := if knownKind p b then .inMessage [b] else .discarding
        counts :=
          { q.truncate.counts with
            bad := if knownKind p b then q.truncate.counts.bad else min (q.truncate.counts.bad + 1) 255 } } := by
  unfold Port.head
  split
  · rfl
  · rfl

/-- Settles O18: the KIND is known or not, and a message stands in reception or not. -/
theorem headCharacterBeginsMessage : Obligations.HeadCharacterBeginsMessage := by
  intro p c b s q reads up known received
  have iff : knownKind p b = true ↔ known := knownKind_iff p b
  refine ⟨fun listens rest => ?_, fun bytes listens inMessage => ?_, fun deaf => ?_⟩
  · rw [exec_messageBegun, Port.hear_head p reads listens, Port.head_eq,
      Port.truncate_of_rest (by rw [Port.noise_rx]; exact rest), Port.noise_eq]
    simp only [iff]
    rfl
  · rw [exec_messageTruncated, Port.hear_head p reads listens, Port.head_eq,
      Port.truncate_of_message ((Port.noise_rx _ _).trans inMessage), Port.noise_eq]
    simp only [iff]
    rfl
  · rw [exec_messageBegun, exec_messageTruncated, Port.hear_of_deaf deaf, State.setPort_port_eq]
    exact ⟨rfl, rfl⟩

theorem Port.data_outside {q : Port} (b : Byte) (h : q.rx = .lineIdle ∨ q.rx = .discarding) : q.data b = q := by
  unfold Port.data
  rcases h with e | e <;> rw [e]

/-- The second byte of a message is its LEN. -/
theorem Port.data_len {q : Port} {kind : Byte} (b : Byte) (h : q.rx = .inMessage [kind]) :
    q.data b =
      if 3 ≤ b.toNat ∧ b.toNat ≤ 24 then { q with rx := .inMessage [kind, b] } else { q.bad with rx := .discarding } := by
  simp [Port.data, Port.join, h]

theorem Port.data_short {q : Port} {kind len : Byte} {rest : List Byte} (b : Byte)
    (h : q.rx = .inMessage (kind :: len :: rest)) (short : (kind :: len :: (rest ++ [b])).length < len.toNat) :
    q.data b = { q with rx := .inMessage (kind :: len :: (rest ++ [b])) } := by
  simp only [List.length_cons, List.length_append, List.length_nil] at short
  simp [Port.data, Port.join, h, short]

/-- The byte that fills LEN completes the message. -/
theorem Port.data_full {q : Port} {kind len : Byte} {rest : List Byte} (b : Byte)
    (h : q.rx = .inMessage (kind :: len :: rest)) (full : (kind :: len :: (rest ++ [b])).length = len.toNat) :
    q.data b =
      if byteSum (kind :: len :: (rest ++ [b])) = 0 then
        { q.offer (kind :: len :: (rest ++ [b])) with rx := .lineIdle }
      else { q.bad with rx := .lineIdle } := by
  simp only [List.length_cons, List.length_append, List.length_nil] at full
  simp [Port.data, Port.join, h, ← full]

/-- Settles O19: the receive state and the length of the message in reception decide what the byte does. -/
theorem dataCharacterJoinsMessage : Obligations.DataCharacterJoinsMessage := by
  intro p c b s q reads up counted heard
  have noisy : q.noise (c.noisy q.setting.parity) = { q with counts := counted } := q.noise_eq _
  refine ⟨fun deaf => ?_, fun listens => ?_⟩
  · rw [exec_dataCharacter, exec_messageComplete, Port.hear_of_deaf deaf, State.setPort_port_eq]
    exact ⟨rfl, rfl⟩
  have heardData := Port.hear_data p reads listens
  rw [noisy] at heardData
  rw [exec_dataCharacter, exec_messageComplete, heardData]
  refine ⟨fun rest => ?_, fun kind first => ?_, fun kind len rest inMessage => ⟨fun short => ?_, fun full => ?_⟩⟩
  · rw [Port.data_outside (q := { q with counts := counted }) b rest]
  · rw [Port.data_len (q := { q with counts := counted }) b first]
    split <;> rfl
  · rw [Port.data_short (q := { q with counts := counted }) b inMessage short]
  · rw [Port.data_full (q := { q with counts := counted }) b inMessage full]
    cases mail : q.mailbox with
    | none => rw [Port.offer]; split <;> rfl
    | some m => rw [Port.offer]; split <;> rfl

/-- Settles O20: the candidate's start and stop bits and its ones decide the error; the receive state decides what the
idle limit and a line seen high do. -/
theorem lineConditionsMoveReceiver : Obligations.LineConditionsMoveReceiver := by
  intro p c s q up failed
  refine ⟨fun listens start stop => ?_, fun listens start stop on odd => ?_, fun off => ?_, fun quiet => ?_,
    fun bytes inMessage => ?_, fun outside => ?_, fun broken => ?_, fun whole => ?_⟩
  · have received := RxChar.received_of_stop c q.setting.parity start stop
    rw [exec_characterError, Port.hear_error p received listens, Port.noise_eq]
    rfl
  · have received : c.received q.setting.parity = .error .parity := by rw [on]; exact RxChar.received_of_odd start stop odd
    rw [exec_characterError, Port.hear_error p received listens, Port.noise_eq]
    rfl
  · have unnamed : (c.received q.setting.parity == Received.error .parity) = false := by
      rw [off]; exact beq_eq_false_iff_ne.2 c.received_off_ne_parity
    rw [exec_characterError, Port.hear_of_unnamed unnamed, State.setPort_port_eq]
  · have unheard (named : Received → Bool) (notFalse : named .falseStart = false) : q.hear p c named = q := by
      rcases quiet with high | deaf
      · exact Port.hear_of_unnamed (by rw [c.received_of_start _ high]; exact notFalse)
      · exact Port.hear_of_deaf deaf
    simp only [exec_characterError, exec_messageBegun, exec_messageTruncated, exec_dataCharacter, exec_messageComplete]
    refine ⟨fun e => ?_, ?_, ?_, ?_, ?_⟩
    · rw [unheard _ (by cases e <;> rfl), State.setPort_port_eq]
    all_goals rw [unheard _ rfl, State.setPort_port_eq]
  · change Host.Outcome.next _ = _
    simp [inMessage, q, Port.truncate, up]; rfl
  · change Host.Outcome.next _ = _
    split
    · next bytes e => exact absurd e (outside bytes)
    · rfl
  · change Host.Outcome.next _ = _
    simp [broken, q]
  · change Host.Outcome.next _ = _
    split
    · next e => exact absurd e whole
    · rfl

end Sys2Proof.Machine

namespace Sys2Proof

/-! ### Characters sent (R169, R179) -/

theorem charBits_eq (parity mark : Bool) (b : Byte) :
    charBits parity mark b =
      [false, b.getLsbD 0, b.getLsbD 1, b.getLsbD 2, b.getLsbD 3, b.getLsbD 4, b.getLsbD 5, b.getLsbD 6, b.getLsbD 7,
        mark] ++ (if parity then [evenParity b mark] else []) ++ [true] := rfl

theorem charBits_length (parity mark : Bool) (b : Byte) :
    (charBits parity mark b).length = if parity then 12 else 11 := by
  rw [charBits_eq]
  cases parity <;> rfl

theorem charBits_getLast? (parity mark : Bool) (b : Byte) : (charBits parity mark b).getLast? = some true := by
  rw [charBits_eq, List.getLast?_concat]

/-- The data bits stand at places 1 to 8, the least significant first. -/
theorem charBits_data (parity mark : Bool) (b : Byte) (i : Fin 8) :
    (charBits parity mark b)[i.val + 1]? = some (b.getLsbD i.val) := by
  rw [charBits_eq, List.append_assoc, List.getElem?_append_left (by simp; omega)]
  match i with
  | 0 | 1 | 2 | 3 | 4 | 5 | 6 | 7 => rfl

theorem charBits_mark (parity mark : Bool) (b : Byte) : (charBits parity mark b)[9]? = some mark := by
  rw [charBits_eq, List.append_assoc, List.getElem?_append_left (by simp)]
  rfl

theorem charBits_parity (mark : Bool) (b : Byte) : (charBits true mark b)[10]? = some (evenParity b mark) := rfl

/-- The ones of a sent character with parity on are even (R169). -/
theorem charBits_ones_even (mark : Bool) (b : Byte) : (((charBits true mark b).drop 1).take 10).count true % 2 = 0 := by
  have bits : ((charBits true mark b).drop 1).take 10 =
      (List.range 8).map b.getLsbD ++ [mark, evenParity b mark] := rfl
  have ones : ((List.range 8).map b.getLsbD).count true = (List.range 8).countP b.getLsbD := by
    rw [List.count, List.countP_map]
    congr 1
    funext i
    simp
  rw [bits, List.count_append, ones, evenParity, foldl_xor_eq]
  generalize (List.range 8).countP b.getLsbD = n
  rcases Nat.mod_two_eq_zero_or_one n with h | h <;> cases mark <;> simp [Nat.add_mod, h]

/-- The character of byte `k` of a message: the mark bit is set in the head alone. -/
theorem sentChars_getElem? (parity : Bool) (bytes : List Byte) (k : Nat) :
    (sentChars parity bytes)[k]? = bytes[k]?.map (charBits parity (decide (k = 0))) := by
  cases bytes with
  | nil => rfl
  | cons kind rest =>
    cases k with
    | zero => rfl
    | succ k => simp [sentChars]

theorem sentChars_length (parity : Bool) (bytes : List Byte) : (sentChars parity bytes).length = bytes.length := by
  cases bytes <;> simp [sentChars]

/-! ### Characters sent and heard undisturbed -/

/-- An undisturbed character with its even parity bit reads as its byte and its mark. -/
theorem RxChar.reads_of_steady {c : RxChar} {parity mark : Bool} {b : Byte} (start : c.start = steady false)
    (stop : c.stop = steady true) (isMark : c.mark = steady mark)
    (data : ∀ i : Fin 8, c.data.read i = steady (b.getLsbD i.val))
    (even : parity = true → c.parity = steady (evenParity b mark)) : c.reads parity mark b := by
  have bits (i : Fin 8) : b.getLsbD i.val = isHigh (c.data.read i) := by rw [data, isHigh_steady]
  refine ⟨?_, ?_, ?_, bits, fun on => ?_⟩
  · rw [start, isHigh_steady]
  · rw [stop, isHigh_steady]
  · rw [isMark, isHigh_steady]
  · have right := c.parity_wrong_iff
    rw [c.byte_eq b bits, isMark, even on, isHigh_steady, isHigh_steady, bne_self_eq_false] at right
    have notOdd := of_decide_eq_false right.symm
    omega

/-- An undisturbed character carries no noise mark. -/
theorem RxChar.noise_of_steady {c : RxChar} {parity mark : Bool} {b : Byte} (start : c.start = steady false)
    (stop : c.stop = steady true) (isMark : c.mark = steady mark)
    (data : ∀ i : Fin 8, c.data.read i = steady (b.getLsbD i.val))
    (even : parity = true → c.parity = steady (evenParity b mark)) : c.noise parity = false := by
  have bits : ((List.finRange 8).any fun i => disagree (c.data.read i)) = false :=
    List.any_eq_false.2 fun i _ => by rw [data, disagree_steady]; decide
  rw [RxChar.noise, bits, start, stop, isMark]
  cases parity with
  | false => simp [disagree_steady]
  | true => rw [even rfl]; simp [disagree_steady]

section OfBits
variable (parity mark : Bool) (b : Byte)

theorem RxChar.ofBits_data (i : Fin 8) :
    (RxChar.ofBits (charBits parity mark b)).data.read i = steady (b.getLsbD i.val) := by
  have bit : (charBits parity mark b).getD (i.val + 1) true = b.getLsbD i.val := by
    rw [List.getD_eq_getElem?_getD, charBits_data]
    rfl
  simp only [RxChar.ofBits, Bank.read, Vector.getElem_ofFn, bit]

theorem RxChar.ofBits_mark : (RxChar.ofBits (charBits parity mark b)).mark = steady mark := by
  change steady ((charBits parity mark b).getD 9 true) = _
  rw [List.getD_eq_getElem?_getD, charBits_mark]
  rfl

theorem RxChar.ofBits_stop : (RxChar.ofBits (charBits parity mark b)).stop = steady true := by
  change steady ((charBits parity mark b).getLastD true) = _
  rw [List.getLastD_eq_getLast?, charBits_getLast?]
  rfl

theorem RxChar.ofBits_start : (RxChar.ofBits (charBits parity mark b)).start = steady false := rfl

theorem RxChar.ofBits_parity : (RxChar.ofBits (charBits true mark b)).parity = steady (evenParity b mark) := by
  change steady ((charBits true mark b).getD 10 true) = _
  rw [List.getD_eq_getElem?_getD, charBits_parity]
  rfl

/-- The line shows the character that was sent. -/
theorem RxChar.reads_ofBits : (RxChar.ofBits (charBits parity mark b)).reads parity mark b := by
  refine RxChar.reads_of_steady (ofBits_start _ _ _) (ofBits_stop _ _ _) (ofBits_mark _ _ _) (ofBits_data _ _ _)
    fun on => ?_
  subst on
  exact ofBits_parity mark b

theorem RxChar.noise_ofBits : (RxChar.ofBits (charBits parity mark b)).noise parity = false := by
  refine RxChar.noise_of_steady (ofBits_start _ _ _) (ofBits_stop _ _ _) (ofBits_mark _ _ _) (ofBits_data _ _ _)
    fun on => ?_
  subst on
  exact ofBits_parity mark b

end OfBits

/-! ### Request messages (R173, R184) -/

theorem join16_bytes (v : BitVec 16) : join16 (v.extractLsb' 8 8) (v.extractLsb' 0 8) = v :=
  (BitVec.extractLsb'_append_extractLsb'_eq_extractLsb' (x := v) rfl).trans BitVec.extractLsb'_eq_self

theorem join32_bytes (v : BitVec 32) :
    join32 (v.extractLsb' 24 8) (v.extractLsb' 16 8) (v.extractLsb' 8 8) (v.extractLsb' 0 8) = v := by
  have upper : v.extractLsb' 24 8 ++ v.extractLsb' 16 8 = v.extractLsb' 16 16 :=
    BitVec.extractLsb'_append_extractLsb'_eq_extractLsb' (x := v) rfl
  have lower : v.extractLsb' 8 8 ++ v.extractLsb' 0 8 = v.extractLsb' 0 16 :=
    BitVec.extractLsb'_append_extractLsb'_eq_extractLsb' (x := v) rfl
  rw [join32, upper, lower]
  exact (BitVec.extractLsb'_append_extractLsb'_eq_extractLsb' (x := v) rfl).trans BitVec.extractLsb'_eq_self

theorem parseSetup_payload (m : SetupMsg) : parseSetup m.payload = some m := by
  obtain ⟨options, material, diameter, part, kerf, face, remnant, capacity, threshold, bin, nominal, remaining⟩ := m
  cases remaining <;> simp [SetupMsg.payload, bytes16, parseSetup, join16_bytes]

/-- The payload of a request reads back under its kind. -/
theorem parsePayload_payload (r : Request) : parsePayload r.kind r.payload = some r := by
  cases r
  case setup m => exact congrArg (Option.map Request.setup) (parseSetup_payload m)
  case paramSet n v => exact congrArg (fun x => some (Request.paramSet n x)) (join32_bytes v)
  case stock k l t =>
    exact congrArg₂ (fun x y => some (Request.stock k x y)) (join16_bytes l) (join16_bytes t)
  case binSet b c => exact congrArg (fun x => some (Request.binSet b x)) (join16_bytes c)
  all_goals rfl

theorem payload_length_le (r : Request) : r.payload.length ≤ 18 := by
  cases r
  case setup m =>
    change m.payload.length ≤ 18
    cases h : m.remaining <;> simp [SetupMsg.payload, bytes16, h]
  all_goals simp [Request.payload, bytes16, bytes32]

theorem byteSum_concat (bs : List Byte) (b : Byte) : byteSum (bs ++ [b]) = byteSum bs + b := by
  simp [byteSum, List.foldl_append]

theorem frameBytes_eq (kind : Byte) (payload : List Byte) :
    frameBytes kind payload =
      kind :: BitVec.ofNat 8 (payload.length + 3) ::
        (payload ++ [0 - byteSum (kind :: BitVec.ofNat 8 (payload.length + 3) :: payload)]) := rfl

theorem frameBytes_length (kind : Byte) (payload : List Byte) :
    (frameBytes kind payload).length = payload.length + 3 := by
  simp [frameBytes_eq]

theorem byteSum_frameBytes (kind : Byte) (payload : List Byte) : byteSum (frameBytes kind payload) = 0 := by
  unfold frameBytes
  rw [byteSum_concat]
  ring

end Sys2Proof

namespace Sys2Proof.Machine

open Sys2Proof

/-- Settles O4: a request's payload reads back under its kind, and a sent character reads as itself on the line. -/
theorem requestMessageReadsBack : Obligations.RequestMessageReadsBack := by
  refine ⟨fun r => ?_, fun parity kind rest => ⟨?_, fun bits sent => ?_⟩⟩
  · have len : r.bytes.length = r.payload.length + 3 := frameBytes_length _ _
    have bound := payload_length_le r
    refine ⟨?_, rfl, ?_, by omega, by omega, byteSum_frameBytes _ _⟩
    · rw [Request.bytes, frameBytes_eq, parseRequest, List.dropLast_concat, parsePayload_payload]
    · rw [len, Request.bytes, frameBytes_eq]
      rfl
  · have head := RxChar.received_of_reads (RxChar.reads_ofBits parity true kind)
    have data (b : Byte) := RxChar.received_of_reads (RxChar.reads_ofBits parity false b)
    simp only [sentChars, List.map_cons, List.map_map, head]
    congr 1
    exact List.map_congr_left fun b _ => data b
  · simp only [sentChars, List.mem_cons, List.mem_map] at sent
    rcases sent with rfl | ⟨b, -, rfl⟩
    · exact ⟨charBits_length _ _ _, RxChar.noise_ofBits _ _ _⟩
    · exact ⟨charBits_length _ _ _, RxChar.noise_ofBits _ _ _⟩

/-! ### Sending (R179, R180, R183) -/

/-- Settles O22: the register, the queue and the marks of the port decide each row, and the characters on the line are
those of the message's bytes. -/
theorem sendingMovesQueue : Obligations.SendingMovesQueue := by
  intro p s q
  refine ⟨fun m rest empty queue noMark notBreaking => ?_, fun stands => ?_, fun m register => ?_,
    fun mark empty notBreaking => ?_, fun breaking => ?_⟩
  · intro started
    have sending : started.sending = sentChars q.setting.parity m.bytes := rfl
    refine ⟨?_, ?_, fun k bits sent => ?_⟩
    · change Host.Outcome.next _ = _
      simp [empty, queue, noMark, notBreaking, started, q]
    · rw [sending, sentChars_length]
    · rw [sending, sentChars_getElem?, List.getElem?_eq_getElem k.isLt] at sent
      cases sent
      exact ⟨charBits_length _ _ _, rfl, charBits_data _ _ _, charBits_mark _ _ _, charBits_getLast? _ _ _,
        fun on => by rw [on]; exact charBits_ones_even _ _⟩
  · change Host.Outcome.next _ = _
    split
    · next m rest empty queue =>
      rcases stands with full | none | mark | breaking
      · exact absurd empty full
      · rw [none] at queue; cases queue
      · simp [mark, q]
      · simp [breaking, q]
    · rfl
  · change Host.Outcome.next _ = _
    simp only [register, q]
    split
    · next x waits => simp [waits]
    · next none => simp [none]
  · change Host.Outcome.next _ = _
    simp [mark, empty, notBreaking, q]
  · change Host.Outcome.next _ = _
    simp [breaking, q]

/-! ### The request decoder (R177, R178) -/

theorem latheOf_lathePort (n : Lathe) : latheOf (lathePort n) = some n := by
  unfold latheOf lathePort
  rw [dif_pos n.isLt]

theorem latheOf_supervisorPort : latheOf supervisorPort = none := rfl

/-- The place of port `q` in the decoder's order: the number of ports looked at before it (R177). -/
theorem scanOrder_getElem? (s : State) (q : PortNo) :
    s.scanOrder[(q.val + 12 - s.pointer.val) % 13]? = some q := by
  have bound : (q.val + 12 - s.pointer.val) % 13 < 13 := Nat.mod_lt _ (by decide)
  rw [State.scanOrder, List.getElem?_map, List.getElem?_eq_getElem (by simpa using bound)]
  refine congrArg some (Fin.ext ?_)
  simp only [List.getElem_finRange, Fin.val_add, Fin.val_cast, Fin.val_one]
  omega

/-- The ports before place `k` of the decoder's order are those of the earlier places. -/
theorem find_scanOrder {s : State} {p : PortNo} (ready : s.eligiblePort p = true)
    (first : ∀ q : PortNo, (q.val + 12 - s.pointer.val) % 13 < (p.val + 12 - s.pointer.val) % 13 →
      s.eligiblePort q = false) : s.scanOrder.find? s.eligiblePort = some p := by
  rw [List.find?_eq_some_iff_getElem]
  have place := scanOrder_getElem? s p
  obtain ⟨bound, at_p⟩ := List.getElem?_eq_some_iff.1 place
  refine ⟨ready, _, bound, at_p, fun k before => ?_⟩
  have isAt : s.scanOrder[k]? = some s.scanOrder[k] := List.getElem?_eq_getElem _
  generalize s.scanOrder[k] = q at isAt ⊢
  have other := scanOrder_getElem? s q
  have nodup : s.scanOrder.Nodup := (List.nodup_finRange 13).map (add_right_injective _)
  have len : s.scanOrder.length = 13 := by simp [State.scanOrder]
  have bound' : (q.val + 12 - s.pointer.val) % 13 < s.scanOrder.length := by
    rw [len]; exact Nat.mod_lt _ (by decide)
  have same : (q.val + 12 - s.pointer.val) % 13 = k :=
    (List.getElem?_inj bound' nodup).1 (other.trans isAt.symm)
  rw [first q (by omega)]
  rfl

theorem exec_requestTake_of_first {s : State} {p : PortNo} {bytes : List Byte} (hsense : BitVec 12)
    (mail : (s.port p).mailbox = some bytes) (found : s.scanOrder.find? s.eligiblePort = some p) :
    exec (.requestTake hsense) s =
      .next (((s.setPort p { s.port p with mailbox := none }).setPointer p).handleMessage p hsense bytes) := by
  change Host.Outcome.next _ = _
  rw [found]
  simp only [mail]

/-- A request of the port's own kinds is handled as its own row does it. -/
theorem handleMessage_row {u : State} {p : PortNo} {hsense : BitVec 12} {bytes : List Byte} {r : Request} {c : Instr}
    (free : (u.port p).replyPending = false) (parsed : parseRequest bytes = some r)
    (row : requestRow p hsense r = some c) : .next (u.handleMessage p hsense bytes) = exec c u := by
  unfold State.handleMessage
  rw [parsed]
  cases lathe : latheOf p with
  | some n =>
    cases latheOf_eq_some lathe
    unfold requestRow at row
    rw [lathe] at row
    cases r <;> cases row <;>
      (change _ = Host.Outcome.next (State.taken _ _ _)
       rw [State.taken_of_not_replyPending _ free]
       rfl)
  | none =>
    cases latheOf_eq_none lathe
    unfold requestRow at row
    rw [lathe] at row
    cases r <;> cases row <;>
      (change _ = Host.Outcome.next (State.taken _ _ _)
       rw [State.taken_of_not_replyPending _ free]
       rfl)

theorem State.eligiblePort_eq_false_iff (s : State) (p : PortNo) :
    s.eligiblePort p = false ↔ (s.port p).mailbox = none ∨ (s.port p).replyPending = true := by
  unfold State.eligiblePort
  cases (s.port p).mailbox <;> cases (s.port p).replyPending <;> simp

/-- Settles O23: the decoder looks at the ports in the order of their distance from the pointer. -/
theorem requestTakeServesNextPort : Obligations.RequestTakeServesNextPort := by
  intro hsense s
  refine ⟨fun idle => ?_, fun p bytes mail free first => ?_⟩
  · change Host.Outcome.next _ = _
    rw [List.find?_eq_none.2 fun p _ => by rw [(s.eligiblePort_eq_false_iff p).2 (idle p)]; decide]
  · intro taken
    have ready : s.eligiblePort p = true := by simp [State.eligiblePort, mail, free]
    have found := find_scanOrder ready fun q before => (s.eligiblePort_eq_false_iff q).2 (first q before)
    have port : taken.port p = { s.port p with mailbox := none } := by simp [taken]
    rw [exec_requestTake_of_first hsense mail found]
    refine ⟨fun r c parsed row => ?_, fun spellsNone => ?_⟩
    · exact handleMessage_row (u := taken) (by rw [port]; exact free) parsed row
    · have supervisor : p = supervisorPort ↔ p.val = 12 := ⟨fun e => by rw [e]; rfl, fun e => Fin.ext e⟩
      rw [State.handleMessage, spellsNone]
      simp only [State.refuse, State.reply, refusedMsg, supervisor]
      rw [show ((s.setPort p { s.port p with mailbox := none }).setPointer p).port p =
        { s.port p with mailbox := none } from port]
      rfl

/-! ### The queue, the clock and the reset -/

/-- Settles O1: the front command is taken off the queue and carried out. -/
theorem stepRunsFrontCommand : Obligations.StepRunsFrontCommand := fun _ _ _ => rfl

/-- Settles O3: the prescaler counts to its binary top, carries, or waits at both tops. -/
theorem idleStepCountsRefclk : Obligations.IdleStepCountsRefclk := by
  intro s none
  have idle : step s = .next (s.setTimer s.timer.refclk) := by
    unfold step
    rw [none]
    rfl
  rw [idle]
  unfold HallTimer.refclk
  rw [show Config.binaryTop = 16383 from rfl]
  by_cases below : s.timer.binary < 16383
  · simp [below]
  · by_cases carries : s.timer.decimal + 1 < s.timer.sel.ms
    · simp [below, carries]
    · simp [below, carries]

/-- Settles O6: each place of the reset state holds its power-on record. -/
theorem powerOnResetBlocks : Obligations.PowerOnResetBlocks := by
  intro s
  have lane (k : LaneNo) : State.reset.lane k = .powerOn := Bank.read_fill _ _
  have bin (b : BinNo) : State.reset.bin b = .powerOn := Bank.read_fill _ _
  have job (i : Slot) : State.reset.job i = none := Bank.read_fill _ _
  have compare (n : Lathe) : State.reset.compareOf n = .off := Bank.read_fill _ _
  have capture (n : Lathe) : State.reset.timer.capture.read n = 0 := Bank.read_fill _ _
  refine ⟨_, exec_powerOnReset s, lane, rfl, rfl, job, rfl, rfl, rfl, rfl, bin, rfl, rfl, rfl, rfl, rfl, rfl, rfl, rfl,
    rfl, ⟨rfl, rfl, rfl, rfl, rfl, rfl⟩, fun n => ⟨compare n, capture n, State.reset_line n⟩, rfl, fun p => ?_, rfl, rfl,
    rfl, rfl, rfl, rfl⟩
  simp [Port.powerOn, LinkSetting.powerOn, ErrorCounts.zero]

end Sys2Proof.Machine

/-! PROOFS. The reading requests, the link settings, the halt and the clearing of the shuttle, and the books after a
reset (R19, R76, R115, R162 to R165, R180, R181, R188). -/
namespace Sys2Proof.Machine

open Sys2Proof

/-! ### Fields of a message -/

/-- Bit `i` of a flag field is its flag `i`. -/
theorem flagByte_getLsbD (fs : List Bool) {i : Nat} (h : i < 8) : (flagByte fs).getLsbD i = fs.getD i false := by
  have bit : ∀ (fs : List Bool) (i : Nat),
      (fs.foldr (fun (f : Bool) acc => f.toNat + 2 * acc) 0).testBit i = fs.getD i false := by
    intro fs
    induction fs with
    | nil => simp
    | cons f fs ih =>
      intro i
      cases i with
      | zero => cases f <;> simp [Nat.testBit_zero, Nat.add_mod]
      | succ i =>
        have half : (f.toNat + 2 * fs.foldr (fun f acc => f.toNat + 2 * acc) 0) / 2 =
            fs.foldr (fun f acc => f.toNat + 2 * acc) 0 := by cases f <;> simp; omega
        rw [List.foldr_cons, Nat.testBit_succ, half, ih]
        rfl
  rw [flagByte, b1, BitVec.getLsbD_ofNat, bit]
  simp [h]

/-- A number below 256 stands in its byte. -/
theorem b1_toNat {n : Nat} (h : n < 256) : (b1 n).toNat = n := by
  rw [b1, BitVec.toNat_ofNat, Nat.mod_eq_of_lt h]

theorem b1_of_val_eq {n : Nat} {k : Fin n} {x : Byte} (h : k.val = x.toNat) : b1 k.val = x := by
  rw [h, b1, BitVec.ofNat_toNat, BitVec.setWidth_eq]

@[simp] theorem programBytes_length (g : Option Program) : (programBytes g).length = 15 := by
  cases g <;> simp [programBytes, b2, bytes16]

@[simp] theorem barBytes_length (b : Option BarRecord) : (barBytes b).length = 7 := by
  cases b <;> simp [barBytes, b2, bytes16]

/-! ### STATUS (R19) -/

section Status
variable (a : Account)

/-- The three codes and the flags that begin ACCOUNT. -/
def Account.headBytes : List Byte :=
  [b1 a.state.code, b1 a.resume.code, b1 a.reasons.code,
    flagByte [a.program.isSome, a.current.isSome, a.cradle.isSome, a.marked, a.stockShort,
      a.program.any fun g => g.edge == .falling]]

/-- The cycle, T_full and tray fields of ACCOUNT. -/
def Account.countBytes : List Byte := b4 (a.cycle.getD 0) ++ bytes32 (a.tFull.getD 0) ++ b2 a.tray

/-- The current bar's fields of ACCOUNT. -/
def Account.currentBytes : List Byte :=
  match a.current with
  | some c => b2 c.id ++ b2 c.length ++ bytes16 c.lot ++ b2 c.remaining ++ b2 c.made ++ b2 (a.partsLeft.getD 0) ++
      bytes32 (a.tOut.getD 0)
  | none => List.replicate 16 0

/-- The cradle bar's fields of ACCOUNT. -/
def Account.cradleBytes : List Byte :=
  match a.cradle with
  | some c => b2 c.bar.id ++ b2 c.bar.length ++ bytes16 c.bar.lot
  | none => List.replicate 6 0

@[simp] theorem Account.headBytes_length : a.headBytes.length = 4 := rfl
@[simp] theorem Account.countBytes_length : a.countBytes.length = 10 := rfl
@[simp] theorem Account.currentBytes_length : a.currentBytes.length = 16 := by
  unfold Account.currentBytes
  cases a.current <;> rfl
@[simp] theorem Account.cradleBytes_length : a.cradleBytes.length = 6 := by
  unfold Account.cradleBytes
  cases a.cradle <;> rfl

theorem accountMsg_eq :
    accountMsg a =
      ⟨0x43, a.headBytes ++ programBytes a.program ++ a.countBytes ++ a.currentBytes ++ a.cradleBytes⟩ := by
  have falling : (a.program.any fun g => g.edge == .falling) =
      match a.program with
      | some g => g.edge == .falling
      | none => false := by cases a.program <;> rfl
  unfold accountMsg Account.headBytes Account.countBytes
  rw [falling]
  simp only [List.append_assoc]
  rfl

end Status

/-- The places of the fields of R184's ACCOUNT in five parts of fixed length. -/
theorem parts_slices {h g c u d : List Byte} (hh : h.length = 4) (hg : g.length = 15) (hc : c.length = 10)
    (hu : u.length = 16) :
    let p := h ++ g ++ c ++ u ++ d
    p.take 3 = h.take 3 ∧ p[3]? = h[3]? ∧ (p.drop 4).take 15 = g ∧ (p.drop 19).take 10 = c ∧
      (p.drop 29).take 16 = u ∧ p.drop 45 = d := by
  intro p
  have whole : p = h ++ (g ++ (c ++ (u ++ d))) := by simp [p, List.append_assoc]
  refine ⟨?_, ?_, ?_, ?_, ?_, ?_⟩
  · rw [whole, List.take_append_of_le_length (by omega)]
  · rw [whole, List.getElem?_append_left (by omega)]
  · rw [whole, List.drop_left' hh, List.take_left' hg]
  · rw [whole, ← List.append_assoc, List.drop_left' (by simp [hh, hg]), List.take_left' hc]
  · rw [whole, ← List.append_assoc, ← List.append_assoc, List.drop_left' (by simp [hh, hg, hc]), List.take_left' hu]
  · exact List.drop_left' (by simp [hh, hg, hc, hu])

/-! ### LATHE READ and JOB READ (R115, R188) -/

/-- A bottom entry of the suspension stack has position code 2, the top one 1 (R115). -/
theorem b1_stackPosition (stack : List Slot) (i : Slot) :
    b1 (stackPosition stack i) = if stack.head? = some i then 1 else if i ∈ stack.tail then 2 else 0 := by
  cases stack with
  | nil => rfl
  | cons top rest =>
    by_cases h : i = top
    · simp [stackPosition, h, b1]
    · have other : ¬top = i := fun e => h e.symm
      by_cases below : i ∈ rest
      · simp [stackPosition, h, other, below, b1]
      · simp [stackPosition, h, other, below, b1]

section Reading
variable {s : State}

theorem exec_status {n : Lathe} (free : (s.port (lathePort n)).replyPending = false) :
    exec (.status n) s = .next (s.handleStatus n) :=
  congrArg Host.Outcome.next (State.taken_of_not_replyPending _ free)

theorem exec_latheRead {x : Byte} {hsense : BitVec 12} (free : (s.port supervisorPort).replyPending = false) :
    exec (.latheRead x hsense) s = .next (s.handleLatheRead x hsense) :=
  congrArg Host.Outcome.next (State.taken_of_not_replyPending _ free)

theorem exec_jobRead {x : Byte} (free : (s.port supervisorPort).replyPending = false) :
    exec (.jobRead x) s = .next (s.handleJobRead x) :=
  congrArg Host.Outcome.next (State.taken_of_not_replyPending _ free)

theorem exec_laneRead {x pos : Byte} (free : (s.port supervisorPort).replyPending = false) :
    exec (.laneRead x pos) s = .next (s.handleLaneRead x pos) :=
  congrArg Host.Outcome.next (State.taken_of_not_replyPending _ free)

theorem exec_linkSet {x r y : Byte} (free : (s.port supervisorPort).replyPending = false) :
    exec (.linkSet x r y) s = .next (s.handleLinkSet x r y) :=
  congrArg Host.Outcome.next (State.taken_of_not_replyPending _ free)

theorem exec_linkRead {x : Byte} (free : (s.port supervisorPort).replyPending = false) :
    exec (.linkRead x) s = .next (s.handleLinkRead x) :=
  congrArg Host.Outcome.next (State.taken_of_not_replyPending _ free)

theorem exec_shuttleHalt (free : (s.port supervisorPort).replyPending = false) :
    exec .shuttleHalt s = .next s.handleShuttleHalt :=
  congrArg Host.Outcome.next (State.taken_of_not_replyPending _ free)

theorem exec_shuttleClear (free : (s.port supervisorPort).replyPending = false) :
    exec .shuttleClear s = .next s.handleShuttleClear :=
  congrArg Host.Outcome.next (State.taken_of_not_replyPending _ free)

end Reading

/-- The job's own fields of JOB, from its id to its cancel mark. -/
def Job.fieldBytes (j : Job) : List Byte :=
  [b1 j.id, b1 j.kind.code, b1 j.lathe.val, numberByte j.lane, numberByte j.bin, b1 j.state.code, b1 j.block.code] ++
    bytes32 j.deadline ++ bytes32 j.created ++ [b1 j.step.code, b1 j.short.toNat] ++ b2 j.parts ++
    [b1 j.retries, b1 j.cancel.code]

/-- The places of the fields of R184's JOB in parts of fixed length. -/
theorem jobParts_slices {h f b t : List Byte} {x : Byte} (hh : h.length = 2) (hf : f.length = 21) (hb : b.length = 7) :
    let p := h ++ f ++ b ++ [x] ++ t
    p.length = 31 + t.length ∧ (p.drop 2).take 21 = f ∧ (p.drop 23).take 7 = b ∧ p[30]? = some x ∧ p.drop 31 = t := by
  intro p
  have whole : p = h ++ (f ++ (b ++ (x :: t))) := by simp [p, List.append_assoc]
  refine ⟨by simp [p, hh, hf, hb]; omega, ?_, ?_, ?_, ?_⟩
  · rw [whole, List.drop_left' hh, List.take_left' hf]
  · rw [whole, ← List.append_assoc, List.drop_left' (by simp [hh, hf]), List.take_left' hb]
  · rw [whole, ← List.append_assoc, ← List.append_assoc, List.getElem?_append_right (by simp [hh, hf, hb])]
    simp [hh, hf, hb]
  · exact List.drop_left' (by simp [hh, hf, hb])

/-- The JOB message of a slot that holds a job, in two parts: the job's own fields, and its bar and place. -/
theorem jobMsg_of_job {i : Slot} {sc : Schedule} {j : Job} (h : sc.slots.read i = some j) :
    jobMsg i sc =
      ⟨0x58,
        [b1 i.val, flagByte [true, j.bar.isSome, j.bar.any fun b => b.returned]] ++
          j.fieldBytes ++ barBytes j.bar ++ [b1 (stackPosition sc.stack i)] ++
          [b1 sc.deferred.length, b1 sc.stack.length,
            b1 ((List.finRange 32).filter fun k => (sc.slots.read k).isSome).length]⟩ := by
  unfold jobMsg
  rw [h]
  cases bar : j.bar <;> simp [bar, Job.fieldBytes]

/-- Settles O32: each reply is its message, whose parts of fixed length stand at the places of R184. -/
theorem readingRequestsReport : Obligations.ReadingRequestsReport := by
  intro s
  refine ⟨fun n free => ?status, fun free => ⟨?latheBadField, ?lathe, ?jobBadField, ?job⟩⟩
  case status =>
    intro a
    obtain ⟨head, flags, program, counts, current, cradle⟩ :=
      parts_slices (d := a.cradleBytes) a.headBytes_length (programBytes_length a.program) a.countBytes_length
        a.currentBytes_length
    refine ⟨_, _, ?_, ?_, head, flags, ?_, ?_, ?_, ?_, ?_, ?_, fun g h => ?_, fun h => ?_, counts, fun c h => ?_,
      fun h => ?_, fun h => ?_, fun c h => ?_⟩
    · rw [exec_status free, State.handleStatus, accountMsg_eq]
    · simp
    iterate 6 exact flagByte_getLsbD _ (by decide)
    · rw [program, h]; rfl
    · rw [program, h]; rfl
    · rw [current, Account.currentBytes, h]
    · rw [current, Account.currentBytes, h]
    · rw [cradle, Account.cradleBytes, h]
    · rw [cradle, Account.cradleBytes, h]
  case latheBadField =>
    intro x hsense beyond
    rw [exec_latheRead free, State.handleLatheRead, s.numbered_of_le _ _ _ beyond]
  case lathe =>
    intro n hsense a id
    have named : n.val = (b1 n.val).toNat := (b1_toNat (by omega)).symm
    rw [exec_latheRead free, State.handleLatheRead, s.numbered_of_val_eq _ _ _ named]
    refine ⟨_, _, rfl, ?_, rfl, rfl, ?_, ?_, ?_, ?_, ?_, ?_, ?_⟩
    · rfl
    iterate 6 exact flagByte_getLsbD _ (by decide)
    · cases h : a.cradle <;> cases h' : a.current <;> simp [a, id, State.jobIdOf]
  case jobBadField =>
    intro x beyond
    rw [exec_jobRead free, State.handleJobRead, s.numbered_of_le _ _ _ beyond]
  case job =>
    intro i tail
    have named : i.val = (b1 i.val).toNat := (b1_toNat (by omega)).symm
    have read : exec (.jobRead (b1 i.val)) s = .next (s.reply supervisorPort (jobMsg i s.sched)) := by
      rw [exec_jobRead free, State.handleJobRead, s.numbered_of_val_eq _ _ _ named]
      rfl
    refine ⟨fun empty => ?_, fun j holds => ?_⟩
    · rw [read, jobMsg, show s.sched.slots.read i = none from empty]
      rfl
    · rw [read, jobMsg_of_job holds, b1_stackPosition]
      obtain ⟨length, fields, bar, place, counts⟩ := jobParts_slices
        (h := [b1 i.val, flagByte [true, j.bar.isSome, j.bar.any fun b => b.returned]]) (f := j.fieldBytes)
        (x := if s.sched.stack.head? = some i then 1 else if i ∈ s.sched.stack.tail then 2 else 0) (t := tail) rfl rfl
        (barBytes_length j.bar)
      refine ⟨_, _, rfl, ?_, rfl, rfl, ?_, ?_, ?_, fields, fun b h => ?_, fun h => ?_, place, counts⟩
      · exact length
      iterate 3 exact flagByte_getLsbD _ (by decide)
      · exact bar.trans (by rw [h]; rfl)
      · exact bar.trans (by rw [h]; rfl)

/-! ### LINK SET and LINK READ (R180, R181) -/

@[simp] theorem Rate.ofCode_code (r : Rate) : Rate.ofCode r.code = some r := by
  cases r <;> rfl

/-- Codes out of range name no setting. -/
theorem settingOf_eq_none {r y : Byte} (h : 4 < r.toNat ∨ 1 < y.toNat) : settingOf r y = none := by
  unfold settingOf
  rcases h with rate | parity
  · have unnamed : Rate.ofCode r.toNat = none := by
      unfold Rate.ofCode
      split
      case h_6 => rfl
      all_goals omega
    simp [unnamed]
  · rw [if_neg (by omega)]

theorem settingOf_codes {r y : Byte} {rate : Rate} {parity : Bool} (hr : rate.code = r.toNat)
    (hy : parity.toNat = y.toNat) : settingOf r y = some ⟨rate, parity⟩ := by
  have bit : decide (y = 1) = parity := by
    cases parity
    · exact decide_eq_false fun h => by rw [h] at hy; cases hy
    · exact decide_eq_true (BitVec.eq_of_toNat_eq hy.symm)
  unfold settingOf
  rw [if_pos (by rw [← hy]; cases parity <;> decide), ← hr, Rate.ofCode_code]
  exact congrArg (fun p => some (LinkSetting.mk rate p)) bit

/-- Settles O35: the codes name a setting exactly in their ranges, and the setting is applied by `Port.applySetting`. -/
theorem linkSetAndRead : Obligations.LinkSetAndRead := by
  intro x r y s free
  rw [exec_linkSet free, exec_linkRead free]
  refine ⟨fun bad => ?_, fun beyond => ?_, fun p named => ⟨fun rate parity hr hy => ?_, ?_⟩⟩
  · rcases Nat.lt_or_ge 12 x.toNat with beyond | inRange
    · rw [State.handleLinkSet, s.numbered_of_le _ _ _ beyond]
    · have unnamed := settingOf_eq_none (bad.resolve_left (Nat.not_lt.2 inRange))
      rw [State.handleLinkSet, s.numbered_of_val_eq _ _ _ (k := ⟨x.toNat, Nat.lt_succ_of_le inRange⟩) rfl, unnamed]
      exact congrArg _ (s.refuseSup_eq_reply _ _)
  · rw [State.handleLinkRead, s.numbered_of_le _ _ _ beyond]
  · have supervisor : p = supervisorPort ↔ p.val = 12 := ⟨fun e => by rw [e]; rfl, fun e => Fin.ext e⟩
    rw [State.handleLinkSet, s.numbered_of_val_eq _ _ _ named, settingOf_codes hr hy]
    simp only [State.ackSup_eq_reply, Port.applySetting, supervisor] <;> rfl
  · rw [State.handleLinkRead, s.numbered_of_val_eq _ _ _ named, State.answer, linkMsg, b1_of_val_eq named]
    rfl

/-! ### LANE READ (R76) -/

/-- Settles O38: the lane and the position are in range, or the request is refused. -/
theorem laneReadReports : Obligations.LaneReadReports := by
  intro x pos s free
  rw [exec_laneRead free]
  refine ⟨fun bad => ?_, fun k named place => ?_⟩
  · rcases Nat.lt_or_ge 23 x.toNat with beyond | inRack
    · rw [State.handleLaneRead, s.numbered_of_le _ _ _ beyond]
    · have beyond : ¬pos.toNat < Config.lanePlaces := fun h => absurd (bad.resolve_left (Nat.not_lt.2 inRack))
        (Nat.not_lt.2 (Nat.le_of_lt_succ h))
      rw [State.handleLaneRead, s.numbered_of_val_eq _ _ _ (k := ⟨x.toNat, Nat.lt_succ_of_le inRack⟩) rfl, if_neg beyond]
      exact congrArg _ (s.refuseSup_eq_reply _ _)
  · intro l
    have within : pos.toNat < Config.lanePlaces := Nat.lt_succ_of_le place
    have position : b1 pos.toNat = pos := by rw [b1, BitVec.ofNat_toNat, BitVec.setWidth_eq]
    have flag {fs : List Bool} (i : Nat) (small : i < 8) : (flagByte fs).getLsbD i = fs.getD i false :=
      flagByte_getLsbD fs small
    rw [State.handleLaneRead, s.numbered_of_val_eq _ _ _ named, if_pos within, State.answer, laneMsg, position,
      b1_of_val_eq named]
    refine ⟨_, _, rfl, ?_, ?_, ?_, fun b h => ⟨by rw [h]; rfl, ?_⟩, fun h => ⟨by rw [h]; rfl, ?_⟩⟩
    · exact flag 0 (by decide)
    · exact flag 1 (by decide)
    · refine (flag 2 (by decide)).trans ?_
      by_cases h : pos.toNat < l.bars.length <;> simp [l, h] at h ⊢
    · exact (flag 3 (by decide)).trans (by rw [h]; rfl)
    · exact (flag 3 (by decide)).trans (by rw [h]; rfl)

/-! ### SHUTTLE HALT and SHUTTLE CLEAR (R162, R164, R165) -/

/-- The SHUTTLE reply is the one that the statements name. -/
theorem State.shuttleReply_eq (s : State) : s.shuttleReply = s.reported := by
  rw [State.shuttleReply, shuttleMsg_fields]
  rfl

/-- Settles O46: the shuttle state decides both requests. -/
theorem shuttleHaltAndClear : Obligations.ShuttleHaltAndClear := by
  intro s free halted cleared
  have halt : exec .shuttleHalt s = .next s.handleShuttleHalt := exec_shuttleHalt free
  have clear : exec .shuttleClear s = .next s.handleShuttleClear := exec_shuttleClear free
  refine ⟨fun idle => ?_, fun waiting => ?_, fun running => ?_, fun still => ?_, fun fault none => ?_,
    fun o fault some => ?_, fun other => ?_⟩
  · have stops : s.handleShuttleHalt =
        (s.setShuttle { s.shuttle with state := .halted, haltPending := false }).shuttleReply := by
      rw [State.handleShuttleHalt, idle]
    rw [stops, State.shuttleReply_eq] at halt
    exact halt
  · have stops : s.handleShuttleHalt = s.haltWait.shuttleReply := by rw [State.handleShuttleHalt, waiting]
    rw [stops, State.shuttleReply_eq] at halt
    exact halt
  · have pends : s.handleShuttleHalt = (s.setShuttle { s.shuttle with haltPending := true }).shuttleReply := by
      rcases running with h | h | h <;> rw [State.handleShuttleHalt, h]
    rw [pends, State.shuttleReply_eq] at halt
    exact halt
  · have stands : s.handleShuttleHalt = s.shuttleReply := by
      rcases still with h | h <;> rw [State.handleShuttleHalt, h]
    rw [stands, State.shuttleReply_eq] at halt
    exact halt
  · rw [State.handleShuttleClear, if_pos fault, none, State.shuttleReply_eq] at clear
    exact clear
  · rw [State.handleShuttleClear, if_pos fault, some, State.shuttleReply_eq] at clear
    exact clear
  · rw [State.handleShuttleClear, if_neg other, State.refuseSup_eq_reply] at clear
    exact clear

/-! ### The books after a reset (R5, R70, R91, R117, R151) -/

theorem reset_lane (k : LaneNo) : State.reset.lane k = .powerOn := Bank.read_fill _ _
theorem reset_job (i : Slot) : State.reset.job i = none := Bank.read_fill _ _
theorem reset_active : State.reset.active = none := rfl

theorem reset_barIds : State.reset.barIds = [] := by
  simp [State.barIds, reset_lane, reset_job, LaneRecord.powerOn, Account.powerOn]

theorem reset_jobIds : State.reset.jobIds = [] := by
  simp [State.jobIds, reset_job]

theorem reset_booksOk : State.reset.BooksOk where
  ids := by rw [State.idsOk, reset_barIds]; exact List.nodup_nil
  lanes k := by
    have claimants : State.reset.claimants k = [] := by simp [State.claimants, reset_job]
    rw [claimants, reset_lane, State.reservedFor, reset_active]
    exact ⟨Nat.zero_le _, Nat.le_refl _, rfl, rfl⟩
  jobs := by
    refine ⟨fun i i' j j' h => ?_, List.nodup_nil, ?_⟩
    · rw [reset_job] at h; cases h
    · rw [reset_jobIds]; exact List.nodup_nil
  stack := by
    refine ⟨fun i => ?_, fun i => ?_, List.nodup_nil, Nat.zero_le _⟩
    · rw [reset_job]
      exact ⟨fun h => (nomatch (show (none : Option Slot) = some i from h)), fun ⟨_, h, _⟩ => absurd h (by simp)⟩
    · rw [reset_job]
      exact ⟨fun h => absurd h List.not_mem_nil, fun ⟨_, h, _⟩ => absurd h (by simp)⟩
  loads := by
    refine ⟨fun i j h => ?_, rfl⟩
    rw [reset_job] at h; cases h
  step := by
    refine ⟨fun _ => rfl, ?_, ?_, ?_, ?_, ?_, fun _ => rfl, fun i j h => ?_⟩
    case refine_6 => rw [reset_active] at h; cases h
    all_goals simp [State.reset, Shuttle.powerOn, StepRecord.clear]
  fault := by
    refine ⟨?_, ?_, Nat.zero_le _, fun i j h => ?_⟩
    · simp [State.reset, Shuttle.powerOn]
    · simp [State.reset, Shuttle.powerOn]
    · rw [reset_active] at h; cases h

/-- Settles O59: each condition by the power-on values it speaks of. -/
theorem resetIsWellKept : Obligations.ResetIsWellKept :=
  ⟨reset_eventsOk, reset_holdOk, reset_portsOk, reset_binsOk, reset_paramsOk, reset_countersOk, reset_loadOk,
    reset_programOk, reset_booksOk⟩

end Sys2Proof.Machine

/-! PROOFS. The requests that a lathe's state alone decides, the load given up, the emptied reject rack and the warm
restart (R13 to R18, R16, R87, R197, R198). -/
namespace Sys2Proof.Machine

open Sys2Proof

/-! ### Posting and state changes (R24, R192) -/

theorem State.post_records {s : State} (e : EventRec) (room : s.events.records.length < 64) :
    (s.post e).events.records = s.events.records ++ [{ e with time := s.now }] := by
  rw [State.post_events, if_pos room]

theorem State.post_overflow {s : State} (e : EventRec) (room : s.events.records.length < 64) :
    (s.post e).events.overflow = s.events.overflow := by
  rw [State.post_events, if_pos room]

section GoTo
variable (s : State) (n : Lathe) (new : AcctState)

theorem State.goTo_frame :
    s.goTo n new = { s with accounts := (s.goTo n new).accounts, events := (s.goTo n new).events } := by
  unfold State.goTo State.post
  dsimp only
  split
  · rfl
  · split <;> rfl

@[simp] theorem State.goTo_pending : (s.goTo n new).pending = s.pending := by rw [State.goTo_frame]
@[simp] theorem State.goTo_params : (s.goTo n new).params = s.params := by rw [State.goTo_frame]
@[simp] theorem State.goTo_timer : (s.goTo n new).timer = s.timer := by rw [State.goTo_frame]
@[simp] theorem State.goTo_now : (s.goTo n new).now = s.now := by
  rw [State.goTo_frame]
  rfl
@[simp] theorem State.goTo_lines : (s.goTo n new).lines = s.lines := by rw [State.goTo_frame]
@[simp] theorem State.goTo_rack : (s.goTo n new).rack = s.rack := by rw [State.goTo_frame]
@[simp] theorem State.goTo_sched : (s.goTo n new).sched = s.sched := by rw [State.goTo_frame]
@[simp] theorem State.goTo_seq : (s.goTo n new).seq = s.seq := by rw [State.goTo_frame]
@[simp] theorem State.goTo_bins : (s.goTo n new).bins = s.bins := by rw [State.goTo_frame]
@[simp] theorem State.goTo_shuttle : (s.goTo n new).shuttle = s.shuttle := by rw [State.goTo_frame]
@[simp] theorem State.goTo_ports : (s.goTo n new).ports = s.ports := by rw [State.goTo_frame]
@[simp] theorem State.goTo_line (m : Lathe) : (s.goTo n new).line m = s.line m := by
  rw [State.goTo_frame]
  rfl
@[simp] theorem State.goTo_port (p : PortNo) : (s.goTo n new).port p = s.port p := by
  rw [State.goTo_frame]
  rfl
@[simp] theorem State.goTo_lane (k : LaneNo) : (s.goTo n new).lane k = s.lane k := by
  rw [State.goTo_frame]
  rfl
@[simp] theorem State.goTo_bin (b : BinNo) : (s.goTo n new).bin b = s.bin b := by
  rw [State.goTo_frame]
  rfl
@[simp] theorem State.goTo_job (i : Slot) : (s.goTo n new).job i = s.job i := by
  rw [State.goTo_frame]
  rfl
@[simp] theorem State.goTo_compareOf (m : Lathe) : (s.goTo n new).compareOf m = s.compareOf m := by
  rw [State.goTo_frame]
  rfl

/-- The state alone changes. -/
@[simp] theorem State.goTo_account_self : (s.goTo n new).account n = { s.account n with state := new } := by
  unfold State.goTo
  dsimp only
  split
  · next h => rw [← h]
  · simp

theorem State.goTo_account_ne {m : Lathe} (h : n ≠ m) : (s.goTo n new).account m = s.account m := by
  unfold State.goTo
  dsimp only
  split
  · rfl
  · simp [h]

/-- A change of the state raises LATHE_STATE (R24). -/
theorem State.goTo_records (h : (s.account n).state ≠ new) (room : s.events.records.length < 64) :
    (s.goTo n new).events.records = s.events.records ++
      [⟨.latheState, s.now, some n, none, none, none,
        latheStateValue new (s.account n).resume (s.account n).state⟩] := by
  unfold State.goTo
  dsimp only
  rw [if_neg h, State.post_records]
  · rfl
  · exact room

end GoTo

/-! ### Requests refused or acknowledged by the account's state (R13 to R15, R17, R18) -/

theorem State.ack_lathePort (s : State) (n : Lathe) (kind : Byte) :
    s.ack (lathePort n) kind = s.reply (lathePort n) ⟨0x41, [kind]⟩ := by
  simp [State.ack, ackMsg, lathePort_ne_supervisorPort]

section Request
variable {s : State} {n : Lathe}

theorem exec_ready (free : (s.port (lathePort n)).replyPending = false) :
    exec (.ready n) s = .next (s.handleReady n) := congrArg Host.Outcome.next (State.taken_of_not_replyPending _ free)
theorem exec_loaded (free : (s.port (lathePort n)).replyPending = false) :
    exec (.loaded n) s = .next (s.handleLoaded n) := congrArg Host.Outcome.next (State.taken_of_not_replyPending _ free)
theorem exec_stop (free : (s.port (lathePort n)).replyPending = false) :
    exec (.stop n) s = .next (s.handleStop n) := congrArg Host.Outcome.next (State.taken_of_not_replyPending _ free)
theorem exec_resume (free : (s.port (lathePort n)).replyPending = false) :
    exec (.resume n) s = .next (s.handleResume n) := congrArg Host.Outcome.next (State.taken_of_not_replyPending _ free)

end Request

/-- Settles O28: each handler's first test is the account's state. -/
theorem latheRequestsByState : Obligations.LatheRequestsByState := by
  intro n s free a ack refused
  rw [exec_ready free, exec_loaded free, exec_stop free, exec_resume free]
  have acked (kind : Byte) : s.ack (lathePort n) kind = ack kind := s.ack_lathePort n kind
  have refuses (kind : Byte) (c : RefusalCode) : s.refuse (lathePort n) kind c = refused kind c.code :=
    s.refuse_lathePort n kind c
  refine ⟨fun st => ?_, fun st => ?_, fun st => ⟨?_, ?_, ?_, ?_⟩, fun st => ⟨?_, ?_, ?_⟩, fun st => ?_, fun st => ?_,
    fun st => ?_, fun st fault => ?_, fun st => ?_⟩
  · simp only [State.handleReady, show (s.account n).state = _ from st, acked]
  · rcases st with st | ⟨st, fault⟩
    · simp only [State.handleReady, show (s.account n).state = _ from st, refuses]; rfl
    · simp only [State.handleReady, show (s.account n).state = _ from st,
        show (s.account n).loadFault = _ from fault, refuses]; rfl
  · simp only [State.handleReady, show (s.account n).state = _ from st, refuses]; rfl
  · simp only [State.handleLoaded, show (s.account n).state = _ from st, refuses]; rfl
  · simp only [State.handleStop, show (s.account n).state = _ from st, refuses]; rfl
  · simp only [State.handleResume, show (s.account n).state = _ from st, refuses]; rfl
  · simp only [State.handleReady, show (s.account n).state = _ from st, refuses]; rfl
  · simp only [State.handleLoaded, show (s.account n).state = _ from st, refuses]; rfl
  · simp only [State.handleStop, show (s.account n).state = _ from st, refuses]; rfl
  · rcases st with st | st | st | ⟨st, noBar⟩
    · simp only [State.handleLoaded, show (s.account n).state = _ from st, refuses]; rfl
    · simp only [State.handleLoaded, show (s.account n).state = _ from st, refuses]; rfl
    · simp only [State.handleLoaded, show (s.account n).state = _ from st, refuses]; rfl
    · have late : ((s.account n).loadFault && (s.account n).cradle.isSome) = false := by
        rcases noBar with h | h
        · rw [show (s.account n).loadFault = _ from h]; rfl
        · rw [show (s.account n).cradle = _ from h, Option.isSome_none, Bool.and_false]
      simp only [State.handleLoaded, show (s.account n).state = _ from st, late, refuses]; rfl
  · simp only [State.handleStop, show (s.account n).state = _ from st, refuses]; rfl
  · simp only [State.handleStop, show (s.account n).state = _ from st, acked]
  · simp only [State.handleResume, show (s.account n).state = _ from st,
      show (s.account n).loadFault = _ from fault, refuses]; rfl
  · rcases st with st | st | st | st <;>
      simp only [State.handleResume, show (s.account n).state = _ from st, acked]

/-! ### The load timer (R16) -/

/-- Settles O14: the load given up writes one account, posts two records and evaluates that account's reasons. -/
theorem loadTimerExpiryGivesUp : Obligations.LoadTimerExpiryGivesUp := by
  intro n s expired loading room
  have run : exec (.loadTimerExpiry n) s =
      .next ((s.setAccount n { s.account n with loadTimer := .stopped }).loadTimeout n) := by
    change Host.Outcome.next _ = _
    simp only [expired, loading, if_true]
  refine ⟨_, _, run, rfl, ?_, fun m other => ?_, ?_, fun changed => ⟨?_, ?_⟩, ?_⟩
  · rw [State.loadTimeout, State.evalHold_account_self]
    simp
  · rw [State.loadTimeout, State.evalHold_account_ne _ _ _ (Ne.symm other), State.goTo_account_ne _ _ _ (Ne.symm other)]
    simp [Ne.symm other]
  · rw [State.loadTimeout, State.evalHold_events, State.goTo_records]
    · rw [State.post_records _ (by simpa using Nat.lt_of_succ_le (Nat.le_of_succ_le room))]
      simp [loading, event, latheStateValue, AcctState.code, ResumeState.code, ResumeState.toState]
    · simp [loading]
    · rw [State.post_records _ (by simpa using Nat.lt_of_succ_le (Nat.le_of_succ_le room))]
      simp
      omega
  · rw [State.loadTimeout, State.evalHold_line_self, if_neg, Line.command_holdCmd]
    · simp [Account.reasons, HoldSet.nonempty]
    · simpa using changed
  · rw [State.loadTimeout, State.evalHold_port, if_neg, State.notice_port_self]
    · simp [holdChangeMsg]
    · simpa using changed
  · simp [State.loadTimeout]

/-! ### The warm restart (R197, R198) -/

theorem State.evalHold_frame (s : State) (n : Lathe) :
    s.evalHold n =
      { s with
        accounts := (s.evalHold n).accounts, lines := (s.evalHold n).lines, ports := (s.evalHold n).ports } := by
  unfold State.evalHold
  dsimp only
  split <;> rfl

theorem State.post_frame (s : State) (e : EventRec) : s.post e = { s with events := (s.post e).events } := by
  unfold State.post
  split <;> rfl

theorem lathePort_inj {n m : Lathe} (h : n ≠ m) : lathePort n ≠ lathePort m := fun e =>
  h (Fin.ext (congrArg Fin.val e :))

/-- The evaluation of another lathe's set leaves a lathe's account, line and port. -/
theorem State.evalHold_other (s : State) {n m : Lathe} (h : m ≠ n) :
    (s.evalHold m).account n = s.account n ∧ (s.evalHold m).line n = s.line n ∧
      (s.evalHold m).port (lathePort n) = s.port (lathePort n) := by
  refine ⟨s.evalHold_account_ne m n h, s.evalHold_line_ne m n h, ?_⟩
  rw [s.evalHold_port]
  split
  · rfl
  · exact s.notice_port_ne _ _ _ (lathePort_inj h)

/-- What the evaluation makes of a lathe depends on that lathe's account, line and port alone. -/
theorem State.evalHold_congr {s u : State} {n : Lathe} (account : u.account n = s.account n)
    (line : u.line n = s.line n) (port : u.port (lathePort n) = s.port (lathePort n)) :
    (u.evalHold n).account n = (s.evalHold n).account n ∧ (u.evalHold n).line n = (s.evalHold n).line n ∧
      (u.evalHold n).port (lathePort n) = (s.evalHold n).port (lathePort n) := by
  refine ⟨?_, ?_, ?_⟩
  · rw [u.evalHold_account_self, s.evalHold_account_self, account]
  · rw [u.evalHold_line_self, s.evalHold_line_self, account, line]
  · rw [u.evalHold_port, s.evalHold_port, u.notice_port_self, s.notice_port_self, account, port]

/-- Over the evaluation of several lathes' sets, each once, a lathe among them takes its own and keeps it. -/
theorem foldl_evalHold_at (l : List Lathe) (s : State) (n : Lathe) (once : l.Nodup) (mem : n ∈ l) :
    let t := l.foldl (fun s n => s.evalHold n) s
    t.account n = (s.evalHold n).account n ∧ t.line n = (s.evalHold n).line n ∧
      t.port (lathePort n) = (s.evalHold n).port (lathePort n) := by
  induction l generalizing s with
  | nil => exact absurd mem List.not_mem_nil
  | cons m l ih =>
    obtain ⟨notIn, once⟩ := List.nodup_cons.1 once
    by_cases e : m = n
    · subst e
      have stays (l : List Lathe) (u : State) (other : m ∉ l) :
          let t := l.foldl (fun s n => s.evalHold n) u
          t.account m = u.account m ∧ t.line m = u.line m ∧ t.port (lathePort m) = u.port (lathePort m) := by
        induction l generalizing u with
        | nil => exact ⟨rfl, rfl, rfl⟩
        | cons k l ih' =>
          obtain ⟨account, line, port⟩ := ih' (u.evalHold k) fun h => other (List.mem_cons_of_mem _ h)
          obtain ⟨account', line', port'⟩ := u.evalHold_other (n := m) (m := k) fun h => other (by simp [h])
          exact ⟨account.trans account', line.trans line', port.trans port'⟩
      exact stays l (s.evalHold m) notIn
    · obtain ⟨account, line, port⟩ := ih (s.evalHold m) once ((List.mem_cons.1 mem).resolve_left (Ne.symm e))
      obtain ⟨account', line', port'⟩ := s.evalHold_other e
      obtain ⟨account'', line'', port''⟩ := State.evalHold_congr account' line' port'
      exact ⟨account.trans account'', line.trans line'', port.trans port''⟩

theorem State.restartHeld_at (u : State) (n : Lathe) :
    u.restartHeld.account n = (u.restartBlocks.evalHold n).account n ∧
      u.restartHeld.line n = (u.restartBlocks.evalHold n).line n ∧
      u.restartHeld.port (lathePort n) = (u.restartBlocks.evalHold n).port (lathePort n) :=
  foldl_evalHold_at _ _ _ (List.nodup_finRange 12) (List.mem_finRange n)

theorem foldl_evalHold_frame (l : List Lathe) (b : State) :
    let t := l.foldl (fun s n => s.evalHold n) b
    t = { b with accounts := t.accounts, lines := t.lines, ports := t.ports } := by
  refine foldl_evalHold_keep
    (P := fun s => s = { b with accounts := s.accounts, lines := s.lines, ports := s.ports }) (fun s n h => ?_) l rfl
  have whole := s.evalHold_frame n
  generalize s.evalHold n = t at whole ⊢
  exact whole.trans
    (congrArg (fun v : State => { v with accounts := t.accounts, lines := t.lines, ports := t.ports }) h)

/-- The event queue and LP12's queue are all that the last two steps write. -/
theorem restartEvents_ackSup_frame (h : State) :
    h.restartEvents.ackSup 0x79 =
      { h with events := h.restartEvents.events, ports := (h.restartEvents.ackSup 0x79).ports } := by
  rw [State.restartEvents, State.post_frame]
  rfl

/-- The accounts, the lines, the ports and the event queue are all that the last steps write. -/
theorem State.warmRestart_frame (u : State) :
    ∃ accounts lines ports events,
      u.warmRestart =
        { u.restartBlocks with accounts := accounts, lines := lines, ports := ports, events := events } := by
  have held := foldl_evalHold_frame (List.finRange 12) u.restartBlocks
  have last := restartEvents_ackSup_frame u.restartHeld
  rw [State.warmRestart_eq]
  change u.restartHeld = { u.restartBlocks with
    accounts := u.restartHeld.accounts, lines := u.restartHeld.lines, ports := u.restartHeld.ports } at held
  generalize u.restartHeld = h at held last
  exact ⟨h.accounts, h.lines, _, _, last.trans
    (congrArg (fun v : State =>
      { v with events := h.restartEvents.events, ports := (h.restartEvents.ackSup 0x79).ports }) held)⟩

theorem State.restartHeld_kept (u : State) :
    u.restartHeld.events = u.events ∧ u.restartHeld.now = 0 ∧ u.restartHeld.params = u.params := by
  refine foldl_evalHold_keep (P := fun h => h.events = u.events ∧ h.now = 0 ∧ h.params = u.params)
    (fun h n ⟨events, now, params⟩ => ?_) _ ⟨?_, rfl, State.restartBlocks_params u⟩
  · exact ⟨(h.evalHold_events n).trans events, (h.evalHold_now n).trans now, (h.evalHold_params n).trans params⟩
  · simp [State.restartBlocks]

theorem State.restartEvents_line (h : State) (n : Lathe) : (h.restartEvents.ackSup 0x79).line n = h.line n := by
  rw [restartEvents_ackSup_frame]
  rfl

theorem State.restartEvents_events {h : State} (now : h.now = 0) :
    (h.restartEvents.ackSup 0x79).events =
      ⟨[⟨.restarted, 0, none, none, none, none, restartedValue h.events⟩], false,
        decide (h.params.attnLevel ≤ 1)⟩ := by
  rw [State.ackSup_eq_reply, State.reply_events, State.restartEvents, State.post_events, if_pos (by simp)]
  simp [now, event]

/-- With no program the reasons are NO_PROGRAM alone (R5, R22). -/
theorem Account.restarted_reasons (a : Account) : a.restarted.reasons = .noProgramOnly := rfl

theorem Line.command_eq (l : Line) (level : Bool) :
    (l.command level).debounce = l.debounce ∧ (l.command level).guardClosed = l.guardClosed ∧
      (l.command level).settle = l.settle ∧ (l.command level).reported = l.reported ∧
      (l.mismatch = 0 → (l.command level).mismatch = 0) ∧ (l.agreement = 0 → (l.command level).agreement = 0) := by
  unfold Line.command
  split
  · exact ⟨rfl, rfl, rfl, rfl, id, id⟩
  · exact ⟨rfl, rfl, rfl, rfl, fun _ => rfl, fun _ => rfl⟩

theorem State.mayRestart_iff (s : State) :
    s.mayRestart = true ↔
      s.shuttle.load = .none ∧
        (s.shuttle.state = .idle ∨ s.shuttle.state = .halted ∨ s.shuttle.state = .unhomed) := by
  simp [State.mayRestart, or_assoc]

theorem exec_restart {s : State} (free : (s.port supervisorPort).replyPending = false) :
    exec .restart s = .next s.handleRestart := congrArg Host.Outcome.next (State.taken_of_not_replyPending _ free)

section Restarted
variable (s : State)

/-- A port of the restarted part: what R183 gives it, with HOLD-CHANGE queued on a lathe's port whose set changed. -/
theorem State.warmRestart_lathePort (n : Lathe) :
    s.warmRestart.port (lathePort n) =
      { (s.port (lathePort n)).restarted (lathePort n) with
        queue := if (s.account n).holdSet = .noProgramOnly then [] else [holdChangeMsg .noProgramOnly] } := by
  have held : s.warmRestart.port (lathePort n) = s.restartHeld.port (lathePort n) := by
    rw [State.warmRestart_eq, State.ackSup_eq_reply, State.reply_port_ne _ _ _ _ (lathePort_ne_supervisorPort n).symm,
      State.port, State.restartEvents_ports, ← State.port]
  rw [held, (s.restartHeld_at n).2.2, State.evalHold_port, State.restartBlocks_account, State.restartBlocks_port,
    Account.restarted_reasons]
  by_cases same : (s.account n).holdSet = .noProgramOnly
  · rw [if_pos (show HoldSet.noProgramOnly = (s.account n).restarted.holdSet from same.symm), if_pos same]
    rfl
  · rw [if_neg (show HoldSet.noProgramOnly ≠ (s.account n).restarted.holdSet from Ne.symm same), if_neg same,
      State.notice_port_self, State.restartBlocks_port]
    rfl

theorem State.warmRestart_port_sup :
    s.warmRestart.port supervisorPort =
      { (s.port supervisorPort).restarted supervisorPort with queue := [⟨0x50, [0x79]⟩] } := by
  have held : s.restartHeld.restartEvents.port supervisorPort = (s.port supervisorPort).restarted supervisorPort := by
    rw [State.port, State.restartEvents_ports, ← State.port, port_sup_restartHeld]
  rw [State.warmRestart_eq, State.ackSup_eq_reply, State.reply_port_self, held]
  rfl

theorem State.warmRestart_port (p : PortNo) :
    ∃ queue, s.warmRestart.port p = { (s.port p).restarted p with queue := queue } := by
  cases lathe : latheOf p with
  | some n =>
    cases latheOf_eq_some lathe
    exact ⟨_, s.warmRestart_lathePort n⟩
  | none =>
    cases latheOf_eq_none lathe
    exact ⟨_, s.warmRestart_port_sup⟩

theorem State.warmRestart_events :
    s.warmRestart.events =
      ⟨[⟨.restarted, 0, none, none, none, none, restartedValue s.events⟩], false,
        decide (s.params.attnLevel ≤ 1)⟩ := by
  obtain ⟨events, now, params⟩ := s.restartHeld_kept
  rw [State.warmRestart_eq, State.restartEvents_events now, events, params]

theorem State.warmRestart_line (n : Lathe) :
    s.warmRestart.line n = (s.line n).restarted ∨ ∃ level, s.warmRestart.line n = (s.line n).restarted.command level := by
  rw [State.warmRestart_eq, State.restartEvents_line, (s.restartHeld_at n).2.1, State.evalHold_line_self,
    State.restartBlocks_line]
  split
  · exact .inl rfl
  · exact .inr ⟨_, rfl⟩

theorem State.warmRestart_account (n : Lathe) :
    s.warmRestart.account n = { (s.account n).restarted with holdSet := .noProgramOnly } := by
  rw [Sys2Proof.Machine.warmRestart_account, (s.restartHeld_at n).1, State.evalHold_account_self,
    State.restartBlocks_account, Account.restarted_reasons]

end Restarted

/-- Settles O48: the accepted restart is `State.restartBlocks`, the reasons evaluated once a lathe, one event and one
ACK. -/
theorem restartKeepsWhatStands : Obligations.RestartKeepsWhatStands := by
  intro s free may
  rw [exec_restart free, State.handleRestart]
  refine ⟨fun refused => ?_, fun accepted => ?_⟩
  · rw [if_neg (mt s.mayRestart_iff.1 refused), State.refuseSup_eq_reply]
    rfl
  rw [if_pos (s.mayRestart_iff.2 accepted)]
  obtain ⟨_, _, _, _, frame⟩ := s.warmRestart_frame
  have whole {α : Type} (f : State → α) := congrArg f frame
  refine ⟨_, rfl, ?shuttle, whole State.seq, ?sched, fun k => ?lane, ?reject, ?lastBarId,
    fun b => ?bin, ?timer, fun n => ?line, fun n => ?account, fun p => ?port, ?queue, ?mark, whole State.pointer,
    (whole State.params).trans s.restartBlocks_params, ?events,
    (whole State.guardSeen).trans (by simp [State.restartBlocks]),
    (whole State.pins).trans (by simp [State.restartBlocks]), (whole State.pending).trans s.restartBlocks_pending⟩
  case shuttle =>
    rw [show s.warmRestart.shuttle = s.shuttle.restarted from whole State.shuttle]
    exact ⟨rfl, rfl, rfl, rfl, rfl, rfl, rfl, rfl, rfl⟩
  case sched =>
    have sched : s.warmRestart.sched = s.sched.restarted := whole State.sched
    refine ⟨fun i => ?_, by rw [sched]; rfl, by rw [sched]; rfl, by rw [sched]; rfl⟩
    rw [State.job, sched]
    exact Bank.read_fill _ _
  case reject => rw [show s.warmRestart.rack = s.rack.restarted from whole State.rack]; rfl
  case lastBarId => rw [show s.warmRestart.rack = s.rack.restarted from whole State.rack]; rfl
  case lane =>
    have rack : s.warmRestart.rack = s.rack.restarted := whole State.rack
    rw [State.lane, rack]
    exact Bank.read_each _ _ _
  case bin =>
    have bins : s.warmRestart.bins = s.bins.each fun b => { b with inFlight := 0 } := whole State.bins
    rw [State.bin, bins]
    exact Bank.read_each _ _ _
  case timer =>
    have timer : s.warmRestart.timer = s.timer.restarted := whole State.timer
    rw [State.now, timer]
    exact ⟨rfl, rfl, rfl, rfl, rfl, rfl⟩
  case line =>
    have timer : s.warmRestart.timer = s.timer.restarted := whole State.timer
    refine ⟨by rw [State.compareOf, timer]; exact Bank.read_fill _ _, by rw [timer]; exact Bank.read_fill _ _, ?_⟩
    rcases s.warmRestart_line n with same | ⟨level, commanded⟩
    · rw [same]
      exact ⟨rfl, rfl, rfl, rfl, rfl, rfl⟩
    · obtain ⟨debounce, guardClosed, settle, reported, mismatch, agreement⟩ := (s.line n).restarted.command_eq level
      rw [commanded]
      exact ⟨debounce, guardClosed, settle, mismatch rfl, agreement rfl, reported⟩
  case account =>
    rw [s.warmRestart_account, s.warmRestart_lathePort]
    refine ⟨rfl, rfl, ?_⟩
    simp [Port.restarted, lathePort_ne_supervisorPort]
  case port =>
    obtain ⟨queue, eq⟩ := s.warmRestart_port p
    rw [eq]
    exact ⟨rfl, rfl, rfl, rfl, rfl⟩
  case queue => rw [s.warmRestart_port_sup]
  case mark => rw [s.warmRestart_port_sup]; rfl
  case events =>
    rw [s.warmRestart_events, restartedValue]
    cases s.events.overflow <;> rfl

end Sys2Proof.Machine

/-! PROOFS. The schedule's requests, the dispatch arbiter and the taking up of a step, one outcome at a time; the
delivery compare's firing, the guard wait's expiry and the emptied reject rack (R59, R87, R92, R93, R103, R119, R124). -/
namespace Sys2Proof.Machine

open Sys2Proof

theorem Bank.write_write {α : Type} {m : Nat} (v : Bank α m) (i : Fin m) (x y : α) :
    (v.write i x).write i y = v.write i y :=
  Bank.ext_read fun j => by by_cases h : i = j <;> simp [h]

/-! ### The shuttle's freedom and the dispatch (R103) -/

theorem State.shuttleFree_congr {s t : State} (shuttle : t.shuttle = s.shuttle) (seq : t.seq = s.seq) :
    t.shuttleFree = s.shuttleFree := by
  rw [State.shuttleFree, shuttle, seq, ← State.shuttleFree]

theorem State.dispatch_of_busy {s : State} (busy : s.shuttleFree = false) : s.dispatch = s := by
  unfold State.dispatch
  rw [busy]
  rfl

theorem State.shuttleFree_of_state {s : State} (h : s.shuttle.state ≠ .idle) : s.shuttleFree = false := by
  simp [State.shuttleFree, h]

theorem State.shuttleFree_iff (s : State) : s.shuttleFree = true ↔ s.shuttle.state = .idle ∧ s.seq.job = none := by
  simp [State.shuttleFree]

/-! ### The best job of a kind (R99, R103) -/

section Best
variable {s : State} {ok : Job → Bool} {beats : Job → Job → Bool}

/-- One slot of the search for the best job. -/
def State.better (s : State) (ok : Job → Bool) (beats : Job → Job → Bool) (best : Option (Slot × Job)) (i : Slot) :
    Option (Slot × Job) :=
  match s.job i with
  | some j =>
    if ok j then
      match best with
      | some (_, b) => if beats j b then some (i, j) else best
      | none => some (i, j)
    else best
  | none => best

theorem State.bestJob_eq (s : State) (ok : Job → Bool) (beats : Job → Job → Bool) :
    s.bestJob ok beats = allSlots.foldl (s.better ok beats) none := rfl

/-- A slot without a job that counts leaves the best one. -/
theorem State.better_skip {best : Option (Slot × Job)} {i : Slot} (h : ∀ j, s.job i = some j → ok j = false) :
    s.better ok beats best i = best := by
  unfold State.better
  cases hj : s.job i with
  | none => rfl
  | some j => simp [h j hj]

/-- The search finds nothing but jobs that count. -/
theorem State.better_spec {l : List Slot} {best : Option (Slot × Job)} {x : Slot × Job}
    (h : l.foldl (s.better ok beats) best = some x) :
    best = some x ∨ (x.1 ∈ l ∧ s.job x.1 = some x.2 ∧ ok x.2 = true) := by
  induction l generalizing best with
  | nil => exact .inl h
  | cons i l ih =>
    rcases ih h with found | ⟨mem, rest⟩
    · unfold State.better at found
      split at found
      · next j hj =>
        split at found
        · next counts =>
          have here : best = some x ∨ some (i, j) = some x := by
            split at found
            · split at found
              · exact .inr found
              · exact .inl found
            · exact .inr found
          rcases here with old | new
          · exact .inl old
          · cases new
            exact .inr ⟨List.mem_cons_self, hj, counts⟩
        · exact .inl found
      · exact .inl found
    · exact .inr ⟨List.mem_cons_of_mem _ mem, rest⟩

theorem State.bestJob_spec {i : Slot} {j : Job} (h : s.bestJob ok beats = some (i, j)) :
    s.job i = some j ∧ ok j = true := by
  rcases State.better_spec (s.bestJob_eq ok beats ▸ h) with none | ⟨-, found⟩
  · cases none
  · exact found

theorem State.bestJob_eq_none (h : ∀ i j, s.job i = some j → ok j = false) : s.bestJob ok beats = none := by
  cases found : s.bestJob ok beats with
  | none => rfl
  | some x =>
    obtain ⟨hj, counts⟩ := State.bestJob_spec found
    rw [h _ _ hj] at counts
    cases counts

/-- A job that stands before every other that counts is found. -/
theorem State.bestJob_of_first {i : Slot} {j : Job} (hj : s.job i = some j) (counts : ok j = true)
    (before : ∀ i' j', i' < i → s.job i' = some j' → ok j' = true → beats j j' = true)
    (after : ∀ i' j', i < i' → s.job i' = some j' → ok j' = true → beats j' j = false) :
    s.bestJob ok beats = some (i, j) := by
  have sorted : allSlots.Pairwise (· < ·) := List.pairwise_lt_finRange 32
  obtain ⟨front, back, slots⟩ := List.append_of_mem (show i ∈ allSlots from List.mem_finRange i)
  rw [slots] at sorted
  obtain ⟨-, sorted', cross⟩ := List.pairwise_append.1 sorted
  have later : ∀ i' ∈ back, i < i' := (List.pairwise_cons.1 sorted').1
  have earlier : ∀ i' ∈ front, i' < i := fun i' mem => cross i' mem i List.mem_cons_self
  have keep (l : List Slot) (later : ∀ i' ∈ l, i < i') :
      l.foldl (s.better ok beats) (some (i, j)) = some (i, j) := by
    induction l with
    | nil => rfl
    | cons k l ih =>
      have stays : s.better ok beats (some (i, j)) k = some (i, j) := by
        unfold State.better
        split
        · next b hb =>
          split
          · next countsB => simp [after k b (later k List.mem_cons_self) hb countsB]
          · rfl
        · rfl
      rw [List.foldl_cons, stays]
      exact ih fun i' mem => later i' (List.mem_cons_of_mem _ mem)
  have takes : s.better ok beats (front.foldl (s.better ok beats) none) i = some (i, j) := by
    cases found : front.foldl (s.better ok beats) none with
    | none => simp [State.better, hj, counts]
    | some b =>
      rcases State.better_spec found with none | ⟨mem, hb, countsB⟩
      · cases none
      · simp [State.better, hj, counts, before b.1 b.2 (earlier b.1 mem) hb countsB]
  rw [State.bestJob_eq, slots, List.foldl_append, List.foldl_cons, takes]
  exact keep back later

end Best

theorem State.bestEligible_eq_none {s : State} (h : ∀ i j, s.job i = some j → j.eligible = false) :
    s.bestEligible = none := State.bestJob_eq_none h

/-- With no job ready a dispatch leaves the part as it is. -/
theorem State.dispatch_of_noneReady {s : State} (h : s.noneReady) : s.dispatch = s := by
  obtain ⟨stack, idle⟩ := h
  unfold State.dispatch
  rw [stack, State.bestEligible_eq_none idle]
  simp

/-! ### Creation requests (R92 to R94) -/

section Request
variable {s : State} {n : Lathe} {k : JobKind}

theorem State.request_of_has (h : s.hasJob n k = true) : s.request n k = s := by
  simp [State.request, h]

theorem State.request_of_full (lacks : s.hasJob n k = false) (full : s.emptySlot = none) :
    s.request n k = s.defer n k := by
  simp [State.request, lacks, full]

theorem State.request_of_room {i : Slot} (lacks : s.hasJob n k = false) (slot : s.emptySlot = some i)
    (deferred : s.sched.deferred = []) : s.request n k = s.createIn i n k := by
  simp [State.request, lacks, slot, deferred]

theorem State.defer_of_not_mem (h : (n, k) ∉ s.sched.deferred) :
    s.defer n k = s.setSched { s.sched with deferred := s.sched.deferred ++ [(n, k)] } := if_neg h

/-- The DELIVER job made in slot `i`, without its claim or its block. -/
def State.madeDeliver (s : State) (n : Lathe) : Job :=
  madeJob s.nextJobId .deliver n s.now ((s.account n).deliverDeadline s.now)

/-- A DELIVER job made with its claim (R78, R93). -/
theorem State.createIn_deliver_claim {i : Slot} {g : Program} {l : LaneNo} (program : (s.account n).program = some g)
    (lane : s.claimLane g = some l) :
    s.createIn i n .deliver =
      (s.setLane l { s.lane l with claimed := (s.lane l).claimed + 1 }).setSched
        { s.sched with
          slots := s.sched.slots.write i (some { s.madeDeliver n with lane := some l, claim := true })
          lastJobId := s.nextJobId } := by
  simp only [State.createIn, program, lane, State.takeClaim, State.updateJob, State.setSlot]
  simp [State.job, Bank.write_write, newJob, State.madeDeliver, madeJob]
  rfl

/-- A DELIVER job made with no lane to claim (R93, R97). -/
theorem State.createIn_deliver_blocked {i : Slot} {g : Program} (program : (s.account n).program = some g)
    (lane : s.claimLane g = none) :
    s.createIn i n .deliver =
      (s.setSched
        { s.sched with
          slots := s.sched.slots.write i (some { s.madeDeliver n with block := .noStock })
          lastJobId := s.nextJobId }).post
        ⟨.noStock, 0, some n, none, none, some s.nextJobId, halves g.material g.diameter⟩ := by
  simp only [State.createIn, program, lane, State.enterNoStock, State.setSlot]
  simp [State.job, Bank.write_write, newJob, State.madeDeliver, madeJob, program, event]
  rfl

end Request

/-! ### The compare's firing (R46, R59) -/

theorem exec_deliveryCompareFire (n : Lathe) (s : State) :
    exec (.deliveryCompareFire n) s = .next (s.testCompare n) := rfl

section Fire
variable {s : State} {n : Lathe}

theorem State.testCompare_of_reached (armed : (s.compareOf n).armed = true) (unspent : (s.compareOf n).spent = false)
    (reached : atOrBefore (s.compareOf n).value s.now = true) :
    s.testCompare n = (s.setCompare n { s.compareOf n with spent := true }).deliverOnFire n := by
  simp [State.testCompare, armed, unspent, reached]

theorem State.testCompare_of_unreached
    (h : (s.compareOf n).armed = false ∨ (s.compareOf n).spent = true ∨
      atOrBefore (s.compareOf n).value s.now = false) : s.testCompare n = s := by
  unfold State.testCompare
  rcases h with h | h | h <;> simp [h]

theorem State.deliverOnFire_of_has (h : s.hasJob n .deliver = true ∨ (s.account n).stockShort = true) :
    s.deliverOnFire n = s := by
  unfold State.deliverOnFire
  rcases h with h | h <;> simp [h]

theorem State.deliverOnFire_of_none (lacks : s.hasJob n .deliver = false) (stock : (s.account n).stockShort = false) :
    s.deliverOnFire n = (s.request n .deliver).dispatch := by
  simp [State.deliverOnFire, lacks, stock]

end Fire

/-- What a creation request leaves of the shuttle and the step record. -/
theorem State.request_shuttleFree (s : State) (n : Lathe) (k : JobKind) :
    (s.request n k).shuttleFree = s.shuttleFree := by
  have keep := keepsAll (r := PlanPrim) (P := fun t => t.shuttle = s.shuttle ∧ t.seq = s.seq)
    (fun t u h ⟨shuttle, seq⟩ => by cases h <;> simp [shuttle, seq]) (plan_request s n k) ⟨rfl, rfl⟩
  exact State.shuttleFree_congr keep.1 keep.2

/-- With the shuttle not free nothing is dispatched after a request. -/
theorem State.request_dispatch_of_busy {s : State} (busy : s.shuttleFree = false) (n : Lathe) (k : JobKind) :
    (s.request n k).dispatch = s.request n k :=
  State.dispatch_of_busy ((s.request_shuttleFree n k).trans busy)

/-- The deadline of a lathe with a current bar and its predictions is T_out as it is used (R47). -/
theorem Account.deliverDeadline_of_current {a : Account} {now held : Time} {cur : CurrentBar} {left cyc : Nat}
    (current : a.current = some cur) (out : a.tOut = some held) (parts : a.partsLeft = some left)
    (cycle : a.cycle = some cyc) : a.deliverDeadline now = a.used now held left cyc := by
  have outAt : a.outAt now = some (a.used now held left cyc) := by
    rw [Account.outAt, out, parts]
    exact a.useTime_used now held left cyc cycle
  simp [Account.deliverDeadline, current, outAt]

/-- Settles O12: the test of the compare, and the creation request of a firing. -/
theorem compareFireAsksForDelivery : Obligations.CompareFireAsksForDelivery := by
  intro n s busy c spent
  rw [exec_deliveryCompareFire]
  have busy' : spent.shuttleFree = false := busy
  refine ⟨fun h => by rw [State.testCompare_of_unreached h], fun armed unspent reached => ?_⟩
  rw [State.testCompare_of_reached armed unspent reached]
  change (_ → Host.Outcome.next (spent.deliverOnFire n) = _) ∧ _
  refine ⟨fun has => by rw [State.deliverOnFire_of_has (s := spent) has], fun lacks stock => ?_⟩
  have fires : spent.deliverOnFire n = spent.request n .deliver := by
    rw [State.deliverOnFire_of_none (s := spent) lacks stock, State.request_dispatch_of_busy busy']
  change (_ → _ → Host.Outcome.next (spent.deliverOnFire n) = _) ∧ _
  refine ⟨fun full new => ?_, fun i g cur held left cyc slot deferred program current out parts cycle => ?_⟩
  · rw [fires, State.request_of_full (s := spent) lacks full, State.defer_of_not_mem (s := spent) new]
    rfl
  · intro due
    have deadline : (spent.account n).deliverDeadline spent.now = due :=
      Account.deliverDeadline_of_current current out parts cycle
    change (∀ k, _ → Host.Outcome.next (spent.deliverOnFire n) = _) ∧
      (_ → Host.Outcome.next (spent.deliverOnFire n) = _)
    rw [fires, State.request_of_room (s := spent) lacks slot deferred]
    refine ⟨fun k lane => ?_, fun lane => ?_⟩
    · rw [State.createIn_deliver_claim (s := spent) program lane, State.madeDeliver, deadline]
      rfl
    · rw [State.createIn_deliver_blocked (s := spent) program lane, State.madeDeliver, deadline]
      rfl

/-! ### The taking up of a step (R117, R119) -/

theorem State.active_eq_some {s : State} {i : Slot} {j : Job} :
    s.active = some (i, j) ↔ s.seq.job = some i ∧ s.job i = some j := by
  unfold State.active
  cases job : s.seq.job with
  | none => simp
  | some k =>
    cases hj : s.job k with
    | none =>
      simp only [Option.bind_some, hj, Option.map_none, reduceCtorEq, Option.some.injEq, false_iff, not_and]
      rintro rfl h
      rw [hj] at h
      cases h
    | some x =>
      simp only [Option.bind_some, hj, Option.map_some, Option.some.injEq, Prod.mk.injEq]
      constructor
      · rintro ⟨rfl, rfl⟩
        exact ⟨rfl, hj⟩
      · rintro ⟨rfl, h⟩
        exact ⟨rfl, by rw [hj] at h; exact Option.some.inj h⟩

section TakeUp
variable {s : State} {i : Slot} {j : Job} {o : Order}

theorem State.beginStep_active (s : State) : s.beginStep.active = s.active := rfl
theorem State.beginStep_nothingToPick (s : State) (j : Job) : s.beginStep.nothingToPick j = s.nothingToPick j := rfl

/-- The step record that the step of job `j` begins with. -/
theorem State.beginStep_of_active (active : s.active = some (i, j)) :
    s.beginStep =
      (s.setSeq { s.seq with phase := .unissued, order := j.order, expiries := 0, boundary := false }).setShuttle
        { s.shuttle with state := .idle } := by
  obtain ⟨job, hj⟩ := State.active_eq_some.1 active
  simp [State.beginStep, job, hj]

/-- A step with something to do is taken up by its checks. -/
theorem State.takeUp_of_active (active : s.active = some (i, j)) (something : s.nothingToPick j = false) :
    s.takeUp = s.beginStep.checkAndIssue := by
  unfold State.takeUp
  dsimp only
  rw [s.beginStep_active, active]
  simp only
  rw [s.beginStep_nothingToPick, something]
  rfl

/-- Only a RETURN's PICK looks at the cradle first (R134). -/
theorem State.nothingToPick_eq_false (h : j.kind ≠ .ret ∨ j.step ≠ .two) : s.nothingToPick j = false := by
  unfold State.nothingToPick
  rcases h with h | h <;> simp [h]

/-- The place that a PLACE REJECT needs is missing (R125). -/
def State.noPlace (s : State) (o : Order) : Prop := o = ⟨.place, .reject⟩ ∧ 20 ≤ s.rack.reject
/-- The room that a DUMP needs is missing (R132). -/
def State.noRoom (s : State) (j : Job) (o : Order) : Prop :=
  ∃ b, o = ⟨.dump, .bin b⟩ ∧ (s.bin b).fits j.parts = false

theorem Bin.fits_eq_false_iff (x : Bin) (parts : Nat) :
    x.fits parts = false ↔ x.isOpen = false ∨ x.capacity - x.count - x.inFlight < parts := by
  unfold Bin.fits Bin.free
  cases x.isOpen <;> simp

/-- An open guard holds the step in GUARD_PENDING (R123). -/
theorem State.checkAndIssue_of_guarded (active : s.active = some (i, j)) (order : j.order = some o)
    (open_ : s.guardPasses o.target = false) :
    s.checkAndIssue =
      ((s.setSeq { s.seq with expiries := 0 }).setGuardWait (.running s.params.guardWait)).enterWait .guardPending := by
  obtain ⟨job, hj⟩ := State.active_eq_some.1 active
  simp [State.checkAndIssue, job, hj, order, open_]

/-- A full reject rack holds a PLACE REJECT in REJECT_WAIT (R125). -/
theorem State.checkAndIssue_of_noPlace (active : s.active = some (i, j)) (order : j.order = some o)
    (full : s.noPlace o) :
    s.checkAndIssue =
      (s.enterWait .rejectWait).post
        (event .rejectFull (BitVec.ofNat 32 ((j.bar.map (·.id)).getD 0)) (job := some j.id)) := by
  obtain ⟨job, hj⟩ := State.active_eq_some.1 active
  obtain ⟨rfl, full⟩ := full
  have full' : ¬s.rack.reject < Config.rejectPlaces := Nat.not_lt.2 full
  simp [State.checkAndIssue, job, hj, order, State.guardPasses, full']

/-- A bin without room holds a DUMP in DUMP_WAIT (R132). -/
theorem State.checkAndIssue_of_noRoom {b : BinNo} (active : s.active = some (i, j))
    (order : j.order = some ⟨.dump, .bin b⟩) (full : (s.bin b).fits j.parts = false) :
    s.checkAndIssue =
      (s.enterWait .dumpWait).post
        (event .binWait (halves j.parts (s.bin b).free) (lathe := some j.lathe) (bin := some b)
          (job := some j.id)) := by
  obtain ⟨job, hj⟩ := State.active_eq_some.1 active
  simp [State.checkAndIssue, job, hj, order, State.guardPasses, full]

/-- Every other step's order is issued (R119). -/
theorem State.checkAndIssue_of_clear (active : s.active = some (i, j)) (order : j.order = some o)
    (closed : s.guardPasses o.target = true) (place : ¬s.noPlace o) (room : ¬s.noRoom j o) :
    s.checkAndIssue = s.issueStep j o := by
  obtain ⟨job, hj⟩ := State.active_eq_some.1 active
  unfold State.checkAndIssue
  rw [job, Option.bind_some, hj]
  simp only
  rw [order]
  simp only [closed, Bool.not_true, Bool.false_eq_true, if_false]
  obtain ⟨kind, target⟩ := o
  split
  · next isPlace isReject =>
    cases isPlace
    cases isReject
    exact if_pos (Nat.lt_of_not_le fun full => place ⟨rfl, full⟩)
  · next b isDump isBin =>
    cases isDump
    cases isBin
    exact if_pos (eq_true_of_ne_false fun full => room ⟨b, rfl, full⟩)
  · rfl

end TakeUp

/-! ### REJECT EMPTIED (R87) -/

theorem exec_rejectEmptied {s : State} (free : (s.port supervisorPort).replyPending = false) :
    exec .rejectEmptied s = .next s.handleRejectEmptied :=
  congrArg Host.Outcome.next (State.taken_of_not_replyPending _ free)

theorem Job.step_of_place_reject {j : Job} (h : j.order = some ⟨.place, .reject⟩) : j.step = .four := by
  unfold Job.order at h
  split at h
  all_goals first | assumption | simp at h

/-- Settles O41: with the count at 0 the waiting PLACE REJECT passes its checks. -/
theorem rejectEmptiedEndsWait : Obligations.RejectEmptiedEndsWait := by
  intro s free cleared
  have run : exec .rejectEmptied s = .next cleared.endRejectWait := by
    rw [exec_rejectEmptied free, State.handleRejectEmptied, State.ackSup_eq_reply]
  refine ⟨fun other => ?_, fun i j waits active order => ?_⟩
  · rw [run, State.endRejectWait, if_neg (show cleared.seq.phase ≠ _ from other)]
  · have active' : cleared.active = some (i, j) := active
    have picks : cleared.nothingToPick j = false :=
      State.nothingToPick_eq_false (.inr (by rw [Job.step_of_place_reject order]; decide))
    have place : ¬cleared.beginStep.noPlace ⟨.place, .reject⟩ := fun h => absurd (show 20 ≤ 0 from h.2) (by decide)
    have room : ¬cleared.beginStep.noRoom j ⟨.place, .reject⟩ := fun ⟨_, h, _⟩ => by cases h
    rw [run, State.endRejectWait, if_pos (show cleared.seq.phase = _ from waits),
      State.takeUp_of_active active' picks,
      State.checkAndIssue_of_clear (s := cleared.beginStep) active' order rfl place room,
      State.beginStep_of_active active', order]
    rfl

/-! ### GUARD_WAIT_EXPIRY (R101, R124) -/

/-- Settles O15: the load decides between the overdue event and the parking. -/
theorem guardWaitExpiryActs : Obligations.GuardWaitExpiryActs := by
  intro s i j expired active pending
  have run : exec .guardWaitExpiry s = .next
      (if s.shuttle.load = .none then (s.setGuardWait .stopped).parkActive i j.lathe
        else (s.setGuardWait .stopped).guardOverdue j) := by
    change Host.Outcome.next _ = _
    have active' : (s.setGuardWait .stopped).active = some (i, j) := active
    simp only [expired, active']
    rw [if_pos (show (s.setGuardWait .stopped).seq.phase = _ from pending)]
    rfl
  obtain ⟨job, hj⟩ := State.active_eq_some.1 active
  refine ⟨fun loaded => ?_, fun empty open_ noHalt waiting stack others => ?_⟩
  · rw [run, if_neg loaded, State.guardOverdue, State.post, State.post]
    congr 1
    by_cases room : s.events.records.length < Config.eventPlaces
    · simp only [State.setSeq_events, State.setGuardWait_events, room, if_true]
      rfl
    · simp only [State.setSeq_events, State.setGuardWait_events, room, if_false]
      rfl
  · rw [run, if_pos empty]
    let u := ((((s.setGuardWait .stopped).updateJob i fun j =>
      { j with state := .waiting, step := .one, block := .guardParked }).setSeq .clear).setShuttle
        { s.shuttle with state := .idle })
    have released : ((((s.setGuardWait .stopped).updateJob i fun j =>
        { j with state := .waiting, step := .one, block := .guardParked }).setSeq .clear)).releaseShuttle = u := by
      unfold State.releaseShuttle
      simp [waiting, noHalt, State.updateJob, u]
    have none : u.noneReady := by
      refine ⟨stack, fun i' j' hj' => ?_⟩
      by_cases e : i' = i
      · subst e
        simp [u, State.updateJob, hj] at hj'
        rw [← hj']
        rfl
      · have old : s.job i' = some j' := by simpa [u, State.updateJob, Ne.symm e] using hj'
        exact others i' j' e old
    rw [State.parkActive, released, State.dispatch_of_noneReady none]
    simp only
    rw [if_neg (by rw [show u.line j.lathe = s.line j.lathe from rfl, open_]; decide)]
    simp [u, State.updateJob, hj]
    rfl

end Sys2Proof.Machine

/-! PROOFS. Faults of the outstanding order, and what a tick does in the order of log 4: its counts, the poll, the
GUARD inputs, the HOLD sense inputs and the compares (R53 to R64, R154 to R160). -/
namespace Sys2Proof.Machine

open Sys2Proof

/-! ### The removal of the active job (R110) -/

theorem State.setSched_sched_self (s : State) : s.setSched s.sched = s := rfl

theorem State.serveDeferred_of_empty {s : State} (h : s.sched.deferred = []) : s.serveDeferred = s := by
  have same : { s.sched with deferred := [] } = s.sched := by rw [← h]
  rw [State.serveDeferred, h, State.serveFrom, same, State.setSched_sched_self]

theorem State.stockGain_of_closed {s : State} {k : LaneNo} (h : (s.lane k).isOpen = false) : s.stockGain k = s := by
  simp [State.stockGain, h]

/-- A claim on a closed lane, or none, gives no stock (R79, R80). -/
theorem State.gainOfRelease_of_closed {s : State} {j : Job}
    (h : ∀ k, j.claim = true → j.lane = some k → (s.lane k).isOpen = false) : s.gainOfRelease j = s := by
  unfold State.gainOfRelease
  split
  · next k claim lane => exact State.stockGain_of_closed (h k claim lane)
  · rfl

theorem State.releaseClaim_lane (s : State) (j : Job) (k : LaneNo) :
    (s.releaseClaim j).lane k =
      if j.claim = true ∧ j.lane = some k then { s.lane k with claimed := (s.lane k).claimed - 1 } else s.lane k := by
  unfold State.releaseClaim
  split
  · next k' claim lane =>
    by_cases e : k' = k
    · subst e
      rw [if_pos ⟨claim, lane⟩]
      simp
    · rw [if_neg fun h => e (by rw [lane] at h; exact Option.some.inj h.2)]
      simp [e]
  · next other =>
    rw [if_neg fun h => other k h.1 h.2]

theorem State.releaseClaim_frame (s : State) (j : Job) :
    s.releaseClaim j = { s with rack := (s.releaseClaim j).rack } := by
  unfold State.releaseClaim
  split <;> rfl

theorem State.stopJobTimers_frame (s : State) :
    s.stopJobTimers = { s with timer := s.stopJobTimers.timer } := by
  unfold State.stopJobTimers
  dsimp only
  split <;> rfl

theorem State.releaseShuttle_frame (s : State) :
    s.releaseShuttle = { s with shuttle := s.releaseShuttle.shuttle } := by
  unfold State.releaseShuttle
  split
  · rfl
  · rfl
  · split <;> rfl

/-- The state of a removal before anything follows it: the timers stopped, the claim given up, the step record cleared,
the shuttle passed on and the slot empty (R110). -/
def State.removedFrom (s : State) (i : Slot) (j : Job) : State :=
  (((s.stopJobTimers.releaseClaim j).setSeq .clear).releaseShuttle).vacate i

section Removal
variable {s : State} {i : Slot} {j : Job}

theorem State.removedFrom_frame (s : State) (i : Slot) (j : Job) :
    s.removedFrom i j =
      { s with
        timer := s.stopJobTimers.timer, rack := (s.releaseClaim j).rack, seq := .clear
        shuttle := s.releaseShuttle.shuttle
        sched := { s.sched with slots := s.sched.slots.write i none, stack := s.sched.stack.erase i } } := by
  have claim (x : HallTimer) : ({ s with timer := x } : State).releaseClaim j =
      { s with timer := x, rack := (s.releaseClaim j).rack } := by
    unfold State.releaseClaim
    split <;> rfl
  have pass (x : HallTimer) (y : Rack) (z : StepRecord) :
      ({ s with timer := x, rack := y, seq := z } : State).releaseShuttle =
        { s with timer := x, rack := y, seq := z, shuttle := s.releaseShuttle.shuttle } := by
    unfold State.releaseShuttle
    simp only
    split
    · rfl
    · rfl
    · split <;> rfl
  rw [State.removedFrom, State.stopJobTimers_frame, claim]
  change (State.releaseShuttle { s with timer := _, rack := _, seq := _ }).vacate i = _
  rw [pass]
  rfl

/-- With nothing deferred and no stock gained, only the dispatch follows a removal. -/
theorem State.removeActive_eq (hj : s.job i = some j) (kind : j.kind ≠ .ret) (deferred : s.sched.deferred = [])
    (closed : ∀ k, j.claim = true → j.lane = some k → (s.lane k).isOpen = false) :
    s.removeActive i = (s.removedFrom i j).dispatch := by
  have served : (s.removedFrom i j).serveDeferred = s.removedFrom i j :=
    State.serveDeferred_of_empty (by rw [State.removedFrom_frame]; exact deferred)
  have gain : (s.removedFrom i j).gainOfRelease j = s.removedFrom i j := by
    refine State.gainOfRelease_of_closed fun k claim lane => ?_
    have record : (s.removedFrom i j).lane k = (s.releaseClaim j).lane k := by
      rw [State.removedFrom_frame]
      rfl
    rw [record, State.releaseClaim_lane, if_pos ⟨claim, lane⟩]
    exact closed k claim lane
  unfold State.removeActive
  rw [hj]
  simp only
  change ((((s.removedFrom i j).serveDeferred).gainOfRelease j).departed j).dispatch = _
  rw [served, gain, State.departed_of_not_ret _ kind]

/-- A fault or a halt stays, so that nothing is dispatched. -/
theorem State.removedFrom_busy (h : s.shuttle.state = .fault ∨ s.shuttle.state = .halted) :
    s.releaseShuttle = s ∧ (s.removedFrom i j).shuttleFree = false := by
  have stays : s.releaseShuttle = s := by
    unfold State.releaseShuttle
    rcases h with h | h <;> rw [h]
  refine ⟨stays, State.shuttleFree_of_state ?_⟩
  rw [State.removedFrom_frame, stays]
  rcases h with h | h <;> simp [h]

end Removal

/-! ### Faults (R138, R148, R159) -/

theorem driveFaultValue_eq (f : FaultRecord) : driveFaultValue f = faultValue f := rfl

/-- The shuttle record that a declaration writes is the one the statements name. -/
theorem Shuttle.faulted_eq (sh : Shuttle) (code : FaultCode) (drive : Byte) (o : OutOrder) :
    sh.faulted code drive o =
      { sh with
        state := .fault
        outstanding := none
        heldWord := none
        noAnswer := 0
        fault := some (sh.faultRecord code drive o)
        homeFailed := sh.homeFailed || o.purpose == .home } := by
  unfold Shuttle.faulted Shuttle.faultRecord
  cases o.purpose <;> cases sh.fault <;> cases sh.lastStatus <;> simp

section Fault
variable {s : State} {o : OutOrder} {code : FaultCode} {drive : Byte}

/-- The blocks after a declaration, before the sequencer is told of it. -/
def State.faultDeclared (s : State) (code : FaultCode) (drive : Byte) (o : OutOrder) : State :=
  (s.setStepTimer .stopped).setShuttle (s.shuttle.faulted code drive o)

theorem State.declareFault_eq (s : State) (code : FaultCode) (drive : Byte) (o : OutOrder) :
    s.declareFault code drive o =
      let told :=
        if o.purpose = .step then (s.faultDeclared code drive o).freezeStep o else s.faultDeclared code drive o
      told.post (event .driveFault (faultValue (s.shuttle.faultRecord code drive o))
        (job := told.active.map fun a => a.2.id)) := by
  rw [State.faultDeclared, Shuttle.faulted_eq]
  rfl

theorem Shuttle.faulted_fault (sh : Shuttle) (code : FaultCode) (drive : Byte) (o : OutOrder) :
    (sh.faulted code drive o).fault = some (sh.faultRecord code drive o) := by
  rw [Shuttle.faulted_eq]

theorem State.dropInFlight_frame (s : State) (o : OutOrder) :
    s.dropInFlight o = { s with bins := (s.dropInFlight o).bins } := by
  unfold State.dropInFlight
  split <;> rfl

theorem State.dropInFlight_bin (s : State) (o : OutOrder) (b : BinNo) :
    (s.dropInFlight o).bin b =
      if o.kind = .dump ∧ o.target = some (.bin b) then { s.bin b with inFlight := 0 } else s.bin b := by
  unfold State.dropInFlight
  split
  · next b' kind target =>
    by_cases e : b' = b
    · subst e
      rw [if_pos ⟨kind, target⟩]
      simp
    · rw [if_neg fun h => e (by rw [target] at h; exact Station.bin.inj (Option.some.inj h.2))]
      simp [e]
  · next other => rw [if_neg fun h => other b h.1 h.2]

/-- The frozen step: its phase UNISSUED and the dump in flight released (R138, R148). -/
def State.frozen (s : State) (o : OutOrder) : State := (s.setSeq { s.seq with phase := .unissued }).dropInFlight o

theorem State.frozen_frame (s : State) (o : OutOrder) :
    s.frozen o = { s with seq := { s.seq with phase := .unissued }, bins := (s.frozen o).bins } := by
  rw [State.frozen, State.dropInFlight_frame]
  rfl

theorem State.frozen_bin (s : State) (o : OutOrder) (b : BinNo) :
    (s.frozen o).bin b =
      if o.kind = .dump ∧ o.target = some (.bin b) then { s.bin b with inFlight := 0 } else s.bin b := by
  rw [State.frozen, State.dropInFlight_bin]
  rfl

theorem State.frozen_active (s : State) (o : OutOrder) : (s.frozen o).active = s.active := by
  rw [State.frozen_frame]
  rfl

/-- A job without a mark, or with its load, stands where it is. -/
theorem State.freezeStep_of_unmarked (h : s.unmarked ∨ s.shuttle.load ≠ .none) : s.freezeStep o = s.frozen o := by
  have load : (s.frozen o).shuttle = s.shuttle := by rw [State.frozen_frame]
  change (match (s.frozen o).active with
    | some (i, j) =>
      if j.cancel != CancelMark.none && (s.frozen o).shuttle.load == Load.none then (s.frozen o).removeActive i else s.frozen o
    | none => s.frozen o) = _
  rw [State.frozen_active, load]
  cases active : s.active with
  | none => rfl
  | some a =>
    rcases h with unmarked | loaded
    · simp [unmarked a.1 a.2 active]
    · simp [loaded]

/-- A marked job leaves with load NONE. -/
theorem State.freezeStep_of_marked {i : Slot} {j : Job} (active : s.active = some (i, j)) (mark : j.cancel ≠ .none)
    (load : s.shuttle.load = .none) : s.freezeStep o = (s.frozen o).removeActive i := by
  have load' : (s.frozen o).shuttle.load = .none := by rw [State.frozen_frame]; exact load
  change (match (s.frozen o).active with
    | some (i, j) =>
      if j.cancel != CancelMark.none && (s.frozen o).shuttle.load == Load.none then (s.frozen o).removeActive i else s.frozen o
    | none => s.frozen o) = _
  rw [State.frozen_active, active]
  simp [mark, load']

/-- The state that a fault without a removal leaves, but for its event. -/
def State.faultKept (s : State) (code : FaultCode) (drive : Byte) (o : OutOrder) : State :=
  if o.purpose = .step then (s.faultDeclared code drive o).frozen o else s.faultDeclared code drive o

theorem State.faultKept_frame (s : State) (code : FaultCode) (drive : Byte) (o : OutOrder) :
    s.faultKept code drive o =
      { s with
        timer := { s.timer with stepTimer := .stopped }
        shuttle := s.shuttle.faulted code drive o
        seq := if o.purpose = .step then { s.seq with phase := .unissued } else s.seq
        bins := (s.faultKept code drive o).bins } := by
  unfold State.faultKept
  split
  · rw [State.frozen_frame]
    rfl
  · rfl

theorem State.faultKept_bin (s : State) (code : FaultCode) (drive : Byte) (o : OutOrder) (b : BinNo) :
    (s.faultKept code drive o).bin b =
      if o.purpose = .step ∧ o.kind = .dump ∧ o.target = some (.bin b) then { s.bin b with inFlight := 0 }
      else s.bin b := by
  unfold State.faultKept
  by_cases step : o.purpose = .step
  · simp only [step, if_true, true_and]
    rw [State.frozen_bin]
    rfl
  · simp only [step, if_false, false_and]
    rfl

theorem State.faultKept_active (s : State) (code : FaultCode) (drive : Byte) (o : OutOrder) :
    (s.faultKept code drive o).active = s.active := by
  rw [State.faultKept_frame]
  unfold State.active
  simp only
  split <;> rfl

/-- A fault with no mark to act on (R159). -/
theorem State.declareFault_of_unmarked (h : s.unmarked ∨ o.purpose ≠ .step ∨ s.shuttle.load ≠ .none) :
    s.declareFault code drive o =
      (s.faultKept code drive o).post (event .driveFault (faultValue (s.shuttle.faultRecord code drive o))
        (job := s.active.map fun a => a.2.id)) := by
  rw [State.declareFault_eq, ← s.faultKept_active code drive o, State.faultKept]
  by_cases step : o.purpose = .step
  · have stays : (s.faultDeclared code drive o).unmarked ∨ (s.faultDeclared code drive o).shuttle.load ≠ .none := by
      rcases h with unmarked | other | loaded
      · exact .inl unmarked
      · exact absurd step other
      · exact .inr (by rw [State.faultDeclared, Shuttle.faulted_eq]; exact loaded)
    simp only [step, if_true]
    rw [State.freezeStep_of_unmarked stays]
  · simp only [step, if_false]

/-- A fault of a step of a marked DELIVER job with load NONE, which removes the job (R110, R138). -/
theorem State.declareFault_of_marked {i : Slot} {j : Job} (active : s.active = some (i, j)) (kind : j.kind = .deliver)
    (mark : j.cancel ≠ .none) (step : o.purpose = .step) (load : s.shuttle.load = .none)
    (deferred : s.sched.deferred = []) (closed : ∀ k, j.claim = true → j.lane = some k → (s.lane k).isOpen = false) :
    s.declareFault code drive o =
      ((s.faultKept code drive o).removedFrom i j).post
        (event .driveFault (faultValue (s.shuttle.faultRecord code drive o))) := by
  have kept : s.faultKept code drive o = (s.faultDeclared code drive o).frozen o := if_pos step
  have frame := s.faultKept_frame code drive o
  have active' : (s.faultDeclared code drive o).active = some (i, j) := active
  have load' : (s.faultDeclared code drive o).shuttle.load = .none := by
    rw [State.faultDeclared, Shuttle.faulted_eq]
    exact load
  have hj : (s.faultKept code drive o).job i = some j := by
    rw [frame]
    exact (State.active_eq_some.1 active).2
  have fault : (s.faultKept code drive o).shuttle.state = .fault := by rw [frame, Shuttle.faulted_eq]
  have removed : (s.faultDeclared code drive o).freezeStep o = (s.faultKept code drive o).removedFrom i j := by
    rw [State.freezeStep_of_marked active' mark load', ← kept, State.removeActive_eq hj (by rw [kind]; decide)]
    · exact State.dispatch_of_busy (State.removedFrom_busy (.inl fault)).2
    · rw [frame]; exact deferred
    · intro k claim lane
      rw [frame]
      exact closed k claim lane
  have none : ((s.faultKept code drive o).removedFrom i j).active = none := by
    rw [State.removedFrom_frame]
    rfl
  rw [State.declareFault_eq]
  simp only [step, if_true]
  rw [removed, none]
  rfl

/-- The step timer is stopped by the declaration and by the removal. -/
theorem State.faultKept_removed_frame (s : State) (code : FaultCode) (drive : Byte) (o : OutOrder) (i : Slot) (j : Job) :
    (s.faultKept code drive o).removedFrom i j =
      { s.faultKept code drive o with
        timer := { s.timer with guardWait := .stopped, stepTimer := .stopped }
        rack := (s.releaseClaim j).rack
        seq := .clear
        sched := { s.sched with slots := s.sched.slots.write i none, stack := s.sched.stack.erase i } } := by
  have frame := s.faultKept_frame code drive o
  have fault : (s.faultKept code drive o).shuttle.state = .fault := by rw [frame, Shuttle.faulted_eq]
  have timers : (s.faultKept code drive o).stopJobTimers.timer =
      { s.timer with guardWait := .stopped, stepTimer := .stopped } := by
    have silent : (s.faultKept code drive o).shuttle.outstanding = none := by rw [frame, Shuttle.faulted_eq]
    unfold State.stopJobTimers
    simp only [State.setGuardWait_shuttle, silent, Option.isNone_none, if_true]
    rw [frame]
    rfl
  have claim : ((s.faultKept code drive o).releaseClaim j).rack = (s.releaseClaim j).rack := by
    rw [frame]
    unfold State.releaseClaim
    split <;> rfl
  rw [State.removedFrom_frame, timers, claim, (State.removedFrom_busy (i := i) (j := j) (.inl fault)).1]
  rw [frame]

end Fault

/-! ### NO_ANSWER_FAULT and STEP_TIMER_EXPIRY (R154, R160) -/

theorem exec_noAnswerFault_of_silent {s : State} {o : OutOrder} (out : s.shuttle.outstanding = some o)
    (silent : 3 ≤ s.shuttle.noAnswer) :
    exec .noAnswerFault s =
      .next ((s.setShuttle { s.shuttle with position := .unknown }).declareFault .noAnswer 0 o) := by
  change Host.Outcome.next _ = _
  simp only [out, silent, if_true]

theorem exec_stepTimerExpiry_of_expired {s : State} {o : OutOrder} (out : s.shuttle.outstanding = some o)
    (expired : s.timer.stepTimer = .expired) :
    exec .stepTimerExpiry s = .next (((s.setStepTimer .stopped).declareFault .timeout 0 o).exchange .stop) := by
  change Host.Outcome.next _ = _
  have out' : (s.setStepTimer .stopped).shuttle.outstanding = some o := out
  simp only [expired, out']

theorem State.exchange_frame (s : State) (k : OrderKind) :
    s.exchange k = { s with shuttle := { s.shuttle with
      shout := some (exchangeBits k s.shuttle.lastTarget s.shuttle.load.speed) } } := rfl

/-- Settles O11: both rows declare a fault, with or without a mark that acts. -/
theorem silentDriveFaultsOrder : Obligations.SilentDriveFaultsOrder := by
  intro s o out room after lost
  refine ⟨fun stays => ⟨fun silent => ?_, fun expired => ?_⟩,
    fun i j active kind mark step load deferred closed => ?_⟩
  · refine ⟨_, exec_noAnswerFault_of_silent out silent, ?_⟩
    let u := s.setShuttle lost
    rw [State.declareFault_of_unmarked (s := u) stays]
    have frame := u.faultKept_frame .noAnswer 0 o
    refine ⟨?_, ⟨_, Shuttle.faulted_fault _ _ _ _, ?_⟩, ?_, ?_, ?_, fun b => ?_, ?_⟩
    · rw [State.post_shuttle, frame]; rfl
    · rw [State.post_records _ (by rw [frame]; exact room), frame]; rfl
    · rw [State.post_overflow _ (by rw [frame]; exact room), frame]; rfl
    · rw [State.post_timer, frame]; rfl
    · rw [State.post_seq, frame]; rfl
    · rw [State.post_bin, State.faultKept_bin]; rfl
    · rw [State.post_frame, frame]
      exact ⟨rfl, rfl, rfl, rfl, rfl, rfl, rfl, rfl⟩
  · refine ⟨_, exec_stepTimerExpiry_of_expired out expired, ?_⟩
    let u := s.setStepTimer .stopped
    rw [State.declareFault_of_unmarked (s := u) stays, State.exchange_frame]
    have frame := u.faultKept_frame .timeout 0 o
    refine ⟨?_, ⟨_, Shuttle.faulted_fault _ _ _ _, ?_⟩, ?_, ?_, ?_, fun b => ?_, ?_⟩
    · rw [State.post_shuttle, frame]; rfl
    · change (State.post _ _).events.records = _
      rw [State.post_records _ (by rw [frame]; exact room), frame]; rfl
    · change (State.post _ _).events.overflow = _
      rw [State.post_overflow _ (by rw [frame]; exact room), frame]; rfl
    · change (State.post _ _).timer = _
      rw [State.post_timer, frame]; rfl
    · change (State.post _ _).seq = _
      rw [State.post_seq, frame]; rfl
    · change (State.post _ _).bin b = _
      rw [State.post_bin, State.faultKept_bin]; rfl
    · rw [State.post_frame, frame]
      exact ⟨rfl, rfl, rfl, rfl, rfl, rfl, rfl, rfl⟩
  · intro removed
    refine ⟨fun silent => ?_, fun expired => ?_⟩
    · refine ⟨_, exec_noAnswerFault_of_silent out silent, ?_⟩
      let u := s.setShuttle lost
      rw [State.declareFault_of_marked (s := u) active kind mark step load deferred closed,
        State.faultKept_removed_frame]
      have frame := u.faultKept_frame .noAnswer 0 o
      refine ⟨?_, ?_, fun i' other => ?_, ?_, ?_, fun k => ?_, _, Shuttle.faulted_fault _ _ _ _, ?_⟩
      · rw [State.post_shuttle]
        simp only
        rw [frame]
        rfl
      · rw [State.post_job]
        exact Bank.read_write_self _ _ _
      · rw [State.post_job]
        exact Bank.read_write_ne _ _ _ _ (Ne.symm other)
      · rw [State.post_seq]; rfl
      · rw [State.post_timer]
      · rw [State.post_lane]
        exact u.releaseClaim_lane j k
      · rw [State.post_records _ (by simp only; rw [frame]; exact room)]
        simp only [State.now]
        rw [frame]
        rfl
    · refine ⟨_, exec_stepTimerExpiry_of_expired out expired, ?_⟩
      let u := s.setStepTimer .stopped
      rw [State.declareFault_of_marked (s := u) active kind mark step load deferred closed,
        State.faultKept_removed_frame, State.exchange_frame]
      have frame := u.faultKept_frame .timeout 0 o
      refine ⟨?_, ?_, fun i' other => ?_, ?_, ?_, fun k => ?_, _, Shuttle.faulted_fault _ _ _ _, ?_⟩
      · rw [State.post_shuttle]
        simp only
        rw [frame]
        rfl
      · change (State.post _ _).job i = _
        rw [State.post_job]
        exact Bank.read_write_self _ _ _
      · change (State.post _ _).job i' = _
        rw [State.post_job]
        exact Bank.read_write_ne _ _ _ _ (Ne.symm other)
      · change (State.post _ _).seq = _
        rw [State.post_seq]; rfl
      · change (State.post _ _).timer.stepTimer = _
        rw [State.post_timer]
      · change (State.post _ _).lane k = _
        rw [State.post_lane]
        exact u.releaseClaim_lane j k
      · change (State.post _ _).events.records = _
        rw [State.post_records _ (by simp only; rw [frame]; exact room)]
        simp only [State.now]
        rw [frame]
        rfl

end Sys2Proof.Machine

/-! PROOFS. HALL_TICK with every GUARD quiet: its counts, the poll and the HOLD sense inputs (R53 to R64, R152 to
R159). -/
namespace Sys2Proof.Machine

open Sys2Proof

/-! ### The parts of a tick (R53, log 4) -/

/-- The state that a tick tests the compares in: counted, polled, sampled and sensed, with the levels seen. -/
def State.sampled (s : State) (guards hsense : BitVec 12) (shin : BitVec 64) : State :=
  let s1 := (((s.countTick).poll (statusShifted shin)).sampleGuards guards).senseHolds hsense
  s1.setPins { s1.pins with guards := guards, hsense := hsense }

theorem exec_hallTick (guards hsense : BitVec 12) (shin : BitVec 64) (s : State) :
    exec (.hallTick guards hsense shin) s = .next (s.sampled guards hsense shin).testCompares := rfl

section CountTick
variable (s : State)

theorem State.countTick_frame :
    s.countTick =
      { s with
        timer := s.timer.tick
        accounts := s.accounts.each fun a => a.tick (s.now + 1)
        lines := s.lines.each Line.tick
        sched := { s.sched with slots := s.sched.slots.each fun o => o.map fun j => j.tick (s.now + 1) } } := rfl

theorem State.countTick_line (n : Lathe) : s.countTick.line n = (s.line n).tick := Bank.read_each _ _ _
theorem State.countTick_lines_read (n : Lathe) : s.countTick.lines.read n = (s.line n).tick := Bank.read_each _ _ _
theorem State.countTick_account (n : Lathe) : s.countTick.account n = (s.account n).tick (s.now + 1) :=
  Bank.read_each _ _ _
theorem State.countTick_job (i : Slot) : s.countTick.job i = (s.job i).map fun j => j.tick (s.now + 1) :=
  Bank.read_each _ _ _
theorem State.countTick_compareOf (n : Lathe) : s.countTick.compareOf n = s.compareOf n := rfl

theorem State.countTick_active :
    s.countTick.active = s.active.map fun a => (a.1, a.2.tick (s.now + 1)) := by
  unfold State.active
  change (s.seq.job.bind fun i => (s.countTick.job i).map fun j => (i, j)) = _
  cases s.seq.job with
  | none => rfl
  | some i =>
    rw [Option.bind_some, Option.bind_some, State.countTick_job]
    cases s.job i <;> rfl

end CountTick

/-! ### GUARD inputs that show their held levels (R60) -/

theorem State.sampleGuard_of_quiet {s : State} {n : Lathe} {closed : Bool} (seen : s.guardSeen = true)
    (same : closed = (s.line n).guardClosed) :
    s.sampleGuard n closed = s.setLine n { s.line n with settle := 0 } := by
  simp [State.sampleGuard, seen, same]

theorem Bank.eachAt_cons {α : Type} {m : Nat} (v : Bank α m) (f : Fin m → α → α) (i : Fin m) (l : List (Fin m))
    (new : i ∉ l) :
    ((v.write i (f i (v.read i))).eachAt fun k x => if k ∈ l then f k x else x) =
      v.eachAt fun k x => if k ∈ i :: l then f k x else x := by
  refine Bank.ext_read fun k => ?_
  rw [Bank.read_eachAt, Bank.read_eachAt]
  by_cases e : i = k
  · subst e
    simp [new]
  · simp [e, Ne.symm e]

theorem foldl_sampleGuard_quiet {guards : BitVec 12} (l : List Lathe) (s : State) (once : l.Nodup)
    (seen : s.guardSeen = true) (quiet : ∀ n ∈ l, guards.getLsbD n.val = (s.line n).guardClosed) :
    l.foldl (fun s n => s.sampleGuard n (guards.getLsbD n.val)) s =
      s.setLines (s.lines.eachAt fun n x => if n ∈ l then { x with settle := 0 } else x) := by
  induction l generalizing s with
  | nil =>
    have same : (s.lines.eachAt fun _ x => x) = s.lines := Bank.ext_read fun n => Bank.read_eachAt _ _ _
    simp [same]
    rfl
  | cons m l ih =>
    obtain ⟨new, once⟩ := List.nodup_cons.1 once
    rw [List.foldl_cons, State.sampleGuard_of_quiet seen (quiet m List.mem_cons_self),
      ih (s.setLine m { s.line m with settle := 0 }) once seen]
    · rw [← Bank.eachAt_cons s.lines (fun _ x => { x with settle := 0 }) m l new]
      rfl
    · intro n mem
      have other : m ≠ n := fun e => new (e ▸ mem)
      rw [State.setLine_line_ne _ _ _ _ other]
      exact quiet n (List.mem_cons_of_mem _ mem)

theorem State.sampleGuards_of_quiet {s : State} {guards : BitVec 12} (quiet : s.guardsQuiet guards) :
    s.sampleGuards guards = s.setLines (s.lines.each fun x => { x with settle := 0 }) := by
  obtain ⟨seen, same⟩ := quiet
  have all : (s.lines.eachAt fun n x => if n ∈ allLathes then { x with settle := 0 } else x) =
      s.lines.each fun x => { x with settle := 0 } := Bank.ext_read fun n => by
    simp [allLathes]
  rw [State.sampleGuards, foldl_sampleGuard_quiet allLathes s (List.nodup_finRange 12) seen fun n _ => same n, all]
  change { s.setLines _ with guardSeen := true } = _
  rw [← seen]
  rfl

/-! ### HOLD sense (R63) -/

/-- The HOLD_MISMATCH record of a line. -/
def Line.mismatchEvent (l : Line) (n : Lathe) (now : Time) (sensed : Bool) : EventRec :=
  ⟨.holdMismatch, now, some n, none, none, none, BitVec.ofNat 32 (l.holdCmd.toNat + 256 * sensed.toNat)⟩

theorem State.senseHold_lines (s : State) (n : Lathe) (sensed : Bool) :
    ∃ events, s.senseHold n sensed = (s.setLine n ((s.line n).sense sensed)).setEvents events ∧
      (∃ more, events.records = s.events.records ++ more ∧ ∀ e ∈ more, e.kind = .holdMismatch) ∧
      (s.events.records.length < 64 → events.overflow = s.events.overflow ∧
        events.records = s.events.records ++
          if (s.line n).mismatched sensed then [(s.line n).mismatchEvent n s.now sensed] else []) := by
  unfold State.senseHold
  simp only
  split
  · next mism =>
    refine ⟨_, State.post_frame _ _, ?_, fun room => ⟨State.post_overflow _ room, State.post_records _ room⟩⟩
    rw [State.post_events]
    split
    · exact ⟨_, rfl, fun e mem => by rw [List.mem_singleton.1 mem]; rfl⟩
    · exact ⟨[], (List.append_nil _).symm, by simp⟩
  · next mism =>
    exact ⟨s.events, rfl, ⟨[], (List.append_nil _).symm, by simp⟩, fun _ => ⟨rfl, (List.append_nil _).symm⟩⟩

theorem foldl_senseHold {hsense : BitVec 12} (l : List Lathe) (s : State) (once : l.Nodup) :
    ∃ events,
      l.foldl (fun s n => s.senseHold n (hsense.getLsbD n.val)) s =
        (s.setLines (s.lines.eachAt fun n x => if n ∈ l then x.sense (hsense.getLsbD n.val) else x)).setEvents events ∧
      (∃ more, events.records = s.events.records ++ more ∧ ∀ e ∈ more, e.kind = .holdMismatch) ∧
      (s.events.records.length + l.length ≤ 64 → events.overflow = s.events.overflow ∧
        events.records = s.events.records ++
          (l.filter fun n => (s.line n).mismatched (hsense.getLsbD n.val)).map fun n =>
            (s.line n).mismatchEvent n s.now (hsense.getLsbD n.val)) := by
  induction l generalizing s with
  | nil =>
    have same : (s.lines.eachAt fun _ x => x) = s.lines := Bank.ext_read fun n => Bank.read_eachAt _ _ _
    refine ⟨s.events, ?_, ⟨[], (List.append_nil _).symm, by simp⟩, fun _ => ⟨rfl, (List.append_nil _).symm⟩⟩
    simp [same]
    rfl
  | cons m l ih =>
    obtain ⟨new, once⟩ := List.nodup_cons.1 once
    obtain ⟨events, first, ⟨more, posted, kinds⟩, exact⟩ := s.senseHold_lines m (hsense.getLsbD m.val)
    obtain ⟨events', rest, ⟨more', posted', kinds'⟩, exact'⟩ := ih (s.senseHold m (hsense.getLsbD m.val)) once
    rw [first] at rest posted' exact'
    refine ⟨events', ?_, ⟨more ++ more', ?_, ?_⟩, fun room => ?_⟩
    · rw [List.foldl_cons, first, rest,
        ← Bank.eachAt_cons s.lines (fun n x => x.sense (hsense.getLsbD n.val)) m l new]
      rfl
    · rw [posted', ← List.append_assoc, ← posted]
      rfl
    · intro e mem
      exact (List.mem_append.1 mem).elim (kinds e) (kinds' e)
    · rw [List.length_cons] at room
      obtain ⟨overflow, records⟩ := exact (by omega)
      have length : events.records.length + l.length ≤ 64 := by
        rw [records]
        split <;> simp <;> omega
      obtain ⟨overflow', records'⟩ := exact' length
      refine ⟨overflow'.trans overflow, ?_⟩
      have others : ∀ n ∈ l, ((s.setLine m ((s.line m).sense (hsense.getLsbD m.val))).setEvents events).line n =
          s.line n := fun n mem => by
        have other : m ≠ n := fun e => new (e ▸ mem)
        rw [State.setEvents_line, State.setLine_line_ne _ _ _ _ other]
      have tail : ((l.filter fun n => (((s.setLine m ((s.line m).sense (hsense.getLsbD m.val))).setEvents events).line
          n).mismatched (hsense.getLsbD n.val)).map fun n =>
            (((s.setLine m ((s.line m).sense (hsense.getLsbD m.val))).setEvents events).line n).mismatchEvent n s.now
              (hsense.getLsbD n.val)) =
          (l.filter fun n => (s.line n).mismatched (hsense.getLsbD n.val)).map fun n =>
            (s.line n).mismatchEvent n s.now (hsense.getLsbD n.val) := by
        rw [List.filter_congr fun n mem => by rw [others n mem]]
        exact List.map_congr_left fun n mem => by rw [others n (List.mem_of_mem_filter mem)]
      refine records'.trans ?_
      change events.records ++ _ = _
      rw [records, List.append_assoc]
      congr 1
      refine (congrArg _ tail).trans ?_
      rw [List.filter_cons]
      split <;> rfl

theorem State.senseHolds_eq (s : State) (hsense : BitVec 12) :
    ∃ events,
      s.senseHolds hsense =
        (s.setLines (s.lines.eachAt fun n x => x.sense (hsense.getLsbD n.val))).setEvents events ∧
      (∃ more, events.records = s.events.records ++ more ∧ ∀ e ∈ more, e.kind = .holdMismatch) ∧
      (s.events.records.length + 12 ≤ 64 → events.overflow = s.events.overflow ∧
        events.records = s.events.records ++
          ((List.finRange 12).filter fun n => (s.line n).mismatched (hsense.getLsbD n.val)).map fun n =>
            (s.line n).mismatchEvent n s.now (hsense.getLsbD n.val)) := by
  obtain ⟨events, eq, posted, exact⟩ := foldl_senseHold (hsense := hsense) allLathes s (List.nodup_finRange 12)
  refine ⟨events, ?_, posted, exact⟩
  have all : (s.lines.eachAt fun n x => if n ∈ allLathes then x.sense (hsense.getLsbD n.val) else x) =
      s.lines.eachAt fun n x => x.sense (hsense.getLsbD n.val) := Bank.ext_read fun n => by
    simp [allLathes]
  rw [State.senseHolds, eq, all]

/-! ### A tick with every GUARD quiet -/

/-- A poll writes no line and no GUARD record. -/
theorem State.poll_lines (s : State) (w : Word) : (s.poll w).guardSeen = s.guardSeen := (job_poll s w).kept.guardSeen

/-- With every GUARD quiet a tick is its counts, its poll, and what the lines and the event queue take. -/
theorem State.sampled_of_quiet {s : State} {guards hsense : BitVec 12} {shin : BitVec 64}
    (quiet : s.guardsQuiet guards) {p : State} (polled : s.countTick.poll (statusShifted shin) = p)
    (lines : p.lines = s.countTick.lines) :
    ∃ events,
      s.sampled guards hsense shin =
        { p with
          lines := p.lines.eachAt fun n x => ({ x with settle := 0 } : Line).sense (hsense.getLsbD n.val)
          events := events
          pins := { s.pins with guards := guards, hsense := hsense } } ∧
      (∃ more, events.records = p.events.records ++ more ∧ ∀ e ∈ more, e.kind = .holdMismatch) ∧
      (p.events.records.length + 12 ≤ 64 → events.overflow = p.events.overflow ∧
        events.records = p.events.records ++
          ((List.finRange 12).filter fun n => (s.line n).mismatched (hsense.getLsbD n.val)).map fun n =>
            (s.line n).mismatchEvent n p.now (hsense.getLsbD n.val)) := by
  obtain ⟨seen, same⟩ := quiet
  have kept := polled ▸ (job_poll s.countTick (statusShifted shin)).kept
  have line (n : Lathe) : p.line n = (s.line n).tick := by
    rw [State.line, lines]
    exact s.countTick_line n
  have quiet' : p.guardsQuiet guards := ⟨kept.guardSeen.trans seen, fun n => by rw [line]; exact same n⟩
  obtain ⟨events, eq, posted, exact⟩ :=
    (p.setLines (p.lines.each fun x => { x with settle := 0 })).senseHolds_eq hsense
  refine ⟨events, ?_, posted, fun room => ?_⟩
  · rw [State.sampled, polled, State.sampleGuards_of_quiet quiet', eq]
    have both : ((p.lines.each fun x => { x with settle := 0 }).eachAt fun n x => x.sense (hsense.getLsbD n.val)) =
        p.lines.eachAt fun n x => ({ x with settle := 0 } : Line).sense (hsense.getLsbD n.val) :=
      Bank.ext_read fun n => by simp
    rw [State.setLines_lines, both]
    change { p with lines := _, events := events, pins := { p.pins with guards := guards, hsense := hsense } } = _
    rw [kept.pins]
    rfl
  · obtain ⟨overflow, records⟩ := exact room
    refine ⟨overflow, records.trans ?_⟩
    have line' (n : Lathe) : (p.setLines (p.lines.each fun x => { x with settle := 0 })).line n =
        { (s.line n).tick with settle := 0 } := by
      rw [← line]
      exact Bank.read_each _ _ _
    simp only [line']
    rfl

theorem State.poll_of_none {s : State} (h : s.shuttle.outstanding = none) (w : Word) : s.poll w = s := by
  simp [State.poll, h]

/-- The compares that are not reached leave a tick where its samples left it. -/
theorem State.testCompares_of_unreached {u : State} (h : ∀ n, u.reaches n u.now = false) : u.testCompares = u := by
  refine State.testCompares_keep (P := fun t => t = u) (fun t n same => ?_) rfl
  subst same
  have unreached := h n
  simp only [State.reaches, Bool.and_eq_false_iff, Bool.not_eq_false'] at unreached
  exact State.testCompare_of_unreached (or_assoc.1 unreached)

theorem Line.sense_tick (l : Line) (sensed : Bool) :
    ({ l.tick with settle := 0 } : Line).sense sensed =
      { l with
        debounce := min (l.debounce + 1) 255
        settle := 0
        mismatch := if sensed = l.holdCmd then 0 else min (l.mismatch + 1) 3
        agreement := if sensed = l.holdCmd then min (l.agreement + 1) 3 else 0
        reported :=
          if sensed = l.holdCmd then l.reported && decide (l.agreement + 1 < 3)
          else l.reported || decide (3 ≤ l.mismatch + 1) } := by
  by_cases agree : sensed = l.holdCmd
  · rw [if_pos agree, if_pos agree, if_pos agree]
    exact if_pos agree
  · rw [if_neg agree, if_neg agree, if_neg agree]
    exact if_neg agree

/-- Settles O8: with no order outstanding the poll does nothing. -/
theorem quietTickChangesCountsOnly : Obligations.QuietTickChangesCountsOnly := by
  intro guards hsense shin s idle quiet room
  obtain ⟨events, eq, -, exact⟩ := State.sampled_of_quiet (hsense := hsense) (shin := shin) quiet
    (p := s.countTick) (State.poll_of_none (s := s.countTick) idle _) rfl
  obtain ⟨overflow, records⟩ := exact room
  have ran := exec_hallTick guards hsense shin s
  generalize s.sampled guards hsense shin = u at eq ran
  have now : u.now = s.now + 1 := by rw [eq]; rfl
  have compareOf (n : Lathe) : u.compareOf n = s.compareOf n := by rw [eq]; rfl
  refine ⟨u, _, ran, State.compareRows_eq _, fun unreached => ?_, fun n => ?_, ?_, ?_, fun n => ?_, fun i => ?_, ?_⟩
  · refine State.testCompares_of_unreached fun n => ?_
    rw [State.reaches, compareOf, now]
    exact unreached n
  · have lines := congrArg State.lines eq
    rw [State.line, lines, Bank.read_eachAt, s.countTick_lines_read n]
    exact Line.sense_tick _ _
  · rw [eq]
    exact records
  · rw [eq]
    exact overflow
  · rw [eq]
    exact (s.countTick_account n).trans (by simp only [Account.tick]; cases (s.account n).loadTimer <;> rfl)
  · rw [eq]
    exact s.countTick_job i
  · rw [eq]
    refine ⟨rfl, rfl, rfl, rfl, ?_, ?_, rfl, rfl, rfl, rfl, rfl, rfl, rfl, rfl⟩
    · change s.timer.guardWait.tick = _
      cases s.timer.guardWait <;> rfl
    · change s.timer.stepTimer.tick = _
      cases s.timer.stepTimer <;> rfl

/-! ### The poll of a tick (R154, R156) -/

theorem exchangeBits_kind (k : OrderKind) (target : Option Station) (sp : Speed) :
    (exchangeBits k target sp).extractLsb' 60 4 = (commandWord k target sp).extractLsb' 28 4 := by
  rw [← exchangeBits_command k target sp]
  refine BitVec.eq_of_getLsbD_eq fun i hi => ?_
  have within : 28 + i < 32 := by omega
  rw [BitVec.getLsbD_extractLsb', BitVec.getLsbD_extractLsb', BitVec.getLsbD_extractLsb', decide_eq_true within,
    Bool.true_and, ← Nat.add_assoc]

/-- The kind stands above the other fields of a command word. -/
theorem commandWord_kind (k : OrderKind) (target : Option Station) (sp : Speed) :
    ((commandWord k target sp).extractLsb' 28 4).toNat = k.code := by
  have kind : k.code < 16 := by cases k <;> decide
  have station : (targetCode target).1 < 8 := by
    rcases target with _ | _ | _ | _ | _ | _ <;> simp [targetCode, Station.code]
  have index : (targetCode target).2 < 32 := by
    rcases target with _ | k | n | b | _ | _ <;> simp [targetCode, Station.code] <;> omega
  have speed : sp.code < 4 := by cases sp <;> decide
  rw [commandWord, BitVec.extractLsb'_toNat, BitVec.toNat_ofNat, Nat.shiftRight_eq_div_pow]
  generalize k.code = a at *
  generalize (targetCode target).1 = b at *
  generalize (targetCode target).2 = c at *
  generalize sp.code = d at *
  omega

theorem exchangeBits_poll_kind (target : Option Station) (sp : Speed) :
    (exchangeBits .poll target sp).extractLsb' 60 4 = 9 := by
  rw [exchangeBits_kind]
  exact BitVec.eq_of_toNat_eq (commandWord_kind .poll target sp)

section Poll
variable {s : State} {o : OutOrder} {w : Word}

/-- The shuttle record once POLL has gone out. -/
def Shuttle.polled (sh : Shuttle) : Shuttle := { sh with shout := some (exchangeBits .poll sh.lastTarget sh.load.speed) }

/-- The shuttle record of a poll that goes on (R154, R156; log 5). -/
def Shuttle.goingOn (sh : Shuttle) (w : Word) (o : OutOrder) : Shuttle :=
  if answered w = false then { sh.polled with noAnswer := sh.noAnswer + 1 }
  else if endsOrder w o = true then { sh.polled with heldWord := some w }
  else { sh.polled with noAnswer := 0, lastStatus := some w, position := statusPosition w }

/-- The word fails the order (R156). -/
def failsOrder (w : Word) (o : OutOrder) : Prop :=
  statusState w = 3 ∨ (statusState w = 2 ∧ statusEcho w = o.kind.code ∧ o.kind ≠ .clear)

theorem State.poll_of_outstanding (out : s.shuttle.outstanding = some o) (free : s.shuttle.heldWord = none)
    (few : s.shuttle.noAnswer < 3) :
    s.poll w = if answered w then (s.exchange .poll).evaluatePoll w o
      else (s.exchange .poll).setShuttle { s.shuttle.polled with noAnswer := s.shuttle.noAnswer + 1 } := by
  have polls : ¬(3 ≤ s.shuttle.noAnswer) := by omega
  simp only [State.poll, out, free, polls, Option.isSome_none, decide_false, Bool.or_self, Bool.false_eq_true, if_false]
  rfl

theorem State.poll_goesOn (out : s.shuttle.outstanding = some o) (free : s.shuttle.heldWord = none)
    (few : s.shuttle.noAnswer < 3) (goes : ¬(answered w = true ∧ endsOrder w o = false ∧ failsOrder w o)) :
    s.poll w = s.setShuttle (s.shuttle.goingOn w o) := by
  rw [State.poll_of_outstanding out free few, Shuttle.goingOn]
  by_cases reply : answered w = true
  · by_cases ends : endsOrder w o = true
    · simp only [reply, ends, State.evaluatePoll, if_true, Bool.true_eq_false, if_false]
      rfl
    · have goes : ¬failsOrder w o := fun fails => goes ⟨reply, Bool.not_eq_true _ ▸ ends, fails⟩
      rw [failsOrder, not_or] at goes
      have other : (decide (statusState w = 2) && statusEcho w == o.kind.code && o.kind != .clear) = false := by
        rw [Bool.eq_false_iff]
        intro h
        simp only [Bool.and_eq_true, decide_eq_true_eq, beq_iff_eq, bne_iff_ne] at h
        exact goes.2 ⟨h.1.1, h.1.2, h.2⟩
      simp only [reply, ends, State.evaluatePoll, if_true, Bool.true_eq_false, Bool.false_eq_true, if_false, goes.1,
        other]
      rfl
  · simp only [reply, Bool.false_eq_true, if_false, if_true]
    rfl

/-- A poll that fails the order declares the fault (R156). -/
theorem State.poll_fails (out : s.shuttle.outstanding = some o) (free : s.shuttle.heldWord = none)
    (few : s.shuttle.noAnswer < 3) (reply : answered w = true) (open' : endsOrder w o = false)
    (fails : failsOrder w o) :
    s.poll w =
      (s.setShuttle { s.shuttle.polled with noAnswer := 0, lastStatus := some w, position := statusPosition w }).declareFault
        (if statusState w = 3 then .drive else .position) (if statusState w = 3 then statusDriveCode w else 0) o := by
  rw [State.poll_of_outstanding out free few, if_pos reply, State.evaluatePoll, open']
  rcases fails with drive | ⟨done, echo, kind⟩
  · simp only [drive, if_true]
    rfl
  · have other : ¬ statusState w = 3 := by omega
    simp [done, echo, kind]
    rfl

end Poll

/-- Settles O9: the poll writes the shuttle record alone, and what the tick does after it leaves that. -/
theorem pollGoesOn : Obligations.PollGoesOn := by
  intro guards hsense shin s o out free few quiet word goes
  obtain ⟨events, eq, -, -⟩ := State.sampled_of_quiet (hsense := hsense) (shin := shin) quiet
    (p := s.countTick.setShuttle (s.shuttle.goingOn word o))
    (State.poll_goesOn (s := s.countTick) out free few goes) rfl
  have ran := exec_hallTick guards hsense shin s
  generalize s.sampled guards hsense shin = u at eq ran
  have shuttle : u.shuttle = s.shuttle.goingOn word o := by rw [eq]; rfl
  refine ⟨u, _, ran, State.compareRows_eq _, shuttle, ⟨_, ?_, exchangeBits_poll_kind
    s.shuttle.lastTarget s.shuttle.load.speed, exchangeBits_filler _ _ _⟩, ?_⟩
  · rw [shuttle, Shuttle.goingOn]
    split
    · rfl
    · split <;> rfl
  · rw [eq]
    exact ⟨rfl, rfl, rfl, rfl, rfl⟩

/-! ### A failed order whose job carries a mark (R110, R159) -/

/-- The ACTIVE job of lathe 0's MOVE to its cradle: a RETURN job that carries a cancel mark. -/
def markedReturn : Job := ⟨1, .ret, 0, none, false, none, .active, .none, 0, 0, .one, false, none, 0, 0, .stop⟩

/-- The part with that job's order outstanding, the lathe in AWAIT with a bar on its cradle. -/
def returnUnderWay : State :=
  let waiting :=
    (State.reset.setGuardSeen true).setAccount 0
      { Account.powerOn with state := .await, cradle := some ⟨⟨1, 30000, 7, 0, 0, 0, false⟩, false⟩ }
  let active := (waiting.setSlot 0 (some markedReturn)).setSeq ⟨some 0, .outstanding, none, 0, 0, false⟩
  active.setShuttle
    { Shuttle.powerOn with state := .stepping, outstanding := some ⟨.move, some (.lathe 0), .fast, .step⟩ }

/-- The fault removes the marked RETURN job, its lathe acts on the cradle again (R12), and LOAD-GO is queued. -/
theorem returnUnderWay_fault_queues :
    ((returnUnderWay.sampled 0 0xFFF 0xE8000000).testCompares.port 0).queue.map (·.kind) = [0x44, 0x46] := by
  decide +kernel

/-- Refutes O10: the statement leaves the ports of every failing poll as they were, but a RETURN job that carries a
cancel mark is removed by the fault, and its lathe's LOAD-GO joins a port's queue. -/
theorem not_pollFaultsOrder : ¬ Obligations.PollFaultsOrder := by
  intro claim
  have quiet : returnUnderWay.guardsQuiet 0 := ⟨rfl, by decide +kernel⟩
  obtain ⟨u, t, ran, tests, -, -, ports, -⟩ :=
    claim 0 0xFFF 0xE8000000 returnUnderWay ⟨.move, some (.lathe 0), .fast, .step⟩ rfl rfl (by decide) quiet
      (by decide) (by decide) (by decide) (by decide)
  rw [exec_hallTick] at ran
  injection ran with ran
  rw [State.compareRows_eq] at tests
  injection tests with tests
  have kept : t.ports = returnUnderWay.ports := by
    rw [← tests]
    exact State.testCompares_keep (P := fun x => x.ports = returnUnderWay.ports)
      (fun x n same => (x.testCompare_ports n).trans same) ports
  have queued := returnUnderWay_fault_queues
  rw [ran, State.port, kept] at queued
  exact absurd queued (by decide)

end Sys2Proof.Machine

/-! PROOFS. READY, LOADED, STOP and RESUME accepted (R12 to R18, R24, R45, R92, R111): what an account's own operations
leave of the rest of the part, and what a request for a bar makes. -/
namespace Sys2Proof.Machine

open Sys2Proof
open Relation (ReflTransGen)

/-! ### What an account's own operations leave -/

/-- Nothing but lathe `n`'s account, compare and line, the port queues and the event queue differs. -/
structure Beside (n : Lathe) (s t : State) : Prop where
  accounts : ∀ k, k ≠ n → t.account k = s.account k
  compares : ∀ k, k ≠ n → t.compareOf k = s.compareOf k
  sched : t.sched = s.sched
  rack : t.rack = s.rack
  shuttle : t.shuttle = s.shuttle
  seq : t.seq = s.seq
  bins : t.bins = s.bins
  kept : Kept s t

section Beside
variable {n : Lathe} {s t u : State}

theorem Beside.refl (n : Lathe) (s : State) : Beside n s s :=
  ⟨fun _ _ => rfl, fun _ _ => rfl, rfl, rfl, rfl, rfl, rfl, Kept.refl s⟩

theorem Beside.trans (h : Beside n s t) (k : Beside n t u) : Beside n s u where
  accounts m other := (k.accounts m other).trans (h.accounts m other)
  compares m other := (k.compares m other).trans (h.compares m other)
  sched := k.sched.trans h.sched
  rack := k.rack.trans h.rack
  shuttle := k.shuttle.trans h.shuttle
  seq := k.seq.trans h.seq
  bins := k.bins.trans h.bins
  kept := h.kept.trans k.kept

theorem beside_reply (n : Lathe) (s : State) (p : PortNo) (m : Msg) : Beside n s (s.reply p m) :=
  ⟨fun _ _ => rfl, fun _ _ => rfl, rfl, rfl, rfl, rfl, rfl, ⟨rfl, rfl, rfl, rfl, rfl, rfl, rfl, rfl, rfl, rfl⟩⟩
theorem beside_notice (n m : Lathe) (s : State) (x : Msg) : Beside n s (s.notice m x) :=
  ⟨fun _ _ => rfl, fun _ _ => rfl, rfl, rfl, rfl, rfl, rfl, ⟨rfl, rfl, rfl, rfl, rfl, rfl, rfl, rfl, rfl, rfl⟩⟩
theorem beside_post (n : Lathe) (s : State) (e : EventRec) : Beside n s (s.post e) :=
  ⟨fun _ _ => by simp, fun _ _ => by simp, by simp, by simp, by simp, by simp, by simp, kept_post s e⟩
theorem beside_setAccount (n : Lathe) (s : State) (a : Account) : Beside n s (s.setAccount n a) :=
  ⟨fun _ other => s.setAccount_account_ne n a _ (Ne.symm other), fun _ _ => rfl, rfl, rfl, rfl, rfl, rfl,
    ⟨rfl, rfl, rfl, rfl, rfl, rfl, rfl, rfl, rfl, rfl⟩⟩
theorem beside_setCompare (n : Lathe) (s : State) (c : Compare) : Beside n s (s.setCompare n c) :=
  ⟨fun _ _ => rfl, fun _ other => s.setCompare_compareOf_ne n c _ (Ne.symm other), rfl, rfl, rfl, rfl, rfl,
    ⟨rfl, rfl, rfl, rfl, rfl, rfl, rfl, rfl, rfl, rfl⟩⟩
theorem beside_evalHold (n : Lathe) (s : State) : Beside n s (s.evalHold n) :=
  ⟨fun _ other => s.evalHold_account_ne n _ (Ne.symm other), fun _ _ => by simp, by simp, by simp, by simp, by simp,
    by simp, kept_evalHold s n⟩
theorem beside_goTo (n : Lathe) (s : State) (new : AcctState) : Beside n s (s.goTo n new) := by
  unfold State.goTo
  dsimp only
  split
  · exact .refl n s
  · exact (beside_setAccount n s _).trans (beside_post n _ _)
theorem beside_settleCompare (n : Lathe) (s : State) : Beside n s (s.settleCompare n) := by
  unfold State.settleCompare
  split
  · exact .refl n s
  · exact beside_setCompare n s _
theorem beside_endBar (n : Lathe) (s : State) : Beside n s (s.endBar n) := by
  unfold State.endBar
  dsimp only
  split
  · exact ((beside_post n s _).trans (beside_setAccount n _ _)).trans (beside_setCompare n _ _)
  · exact (beside_setAccount n s _).trans (beside_setCompare n _ _)
theorem beside_ack (n : Lathe) (s : State) (p : PortNo) (kind : Byte) : Beside n s (s.ack p kind) :=
  beside_reply n s p _

/-- What is found in the schedule is found again. -/
theorem Beside.findJob (h : Beside n s t) (m : Lathe) (k : JobKind) : t.findJob m k = s.findJob m k := by
  unfold State.findJob State.isJobOf State.job
  rw [h.sched]
theorem Beside.hasJob (h : Beside n s t) (m : Lathe) (k : JobKind) : t.hasJob m k = s.hasJob m k := by
  rw [State.hasJob, h.findJob, State.hasJob]
theorem Beside.emptySlot (h : Beside n s t) : t.emptySlot = s.emptySlot := by
  unfold State.emptySlot State.job
  rw [h.sched]
theorem Beside.nextJobId (h : Beside n s t) : t.nextJobId = s.nextJobId := by
  unfold State.nextJobId State.jobIds State.job
  rw [h.sched]
theorem Beside.claimLane (h : Beside n s t) (g : Program) : t.claimLane g = s.claimLane g := by
  unfold State.claimLane State.lane
  rw [h.rack]
theorem Beside.lane (h : Beside n s t) (k : LaneNo) : t.lane k = s.lane k := by rw [State.lane, h.rack, State.lane]
theorem Beside.job (h : Beside n s t) (i : Slot) : t.job i = s.job i := by rw [State.job, h.sched, State.job]
theorem Beside.shuttleFree (h : Beside n s t) : t.shuttleFree = s.shuttleFree :=
  State.shuttleFree_congr h.shuttle h.seq
theorem Beside.now (h : Beside n s t) : t.now = s.now := h.kept.now

end Beside

/-! ### Entry into AWAIT with a bar on the cradle (R12) -/

section Enter
variable {s : State} {n : Lathe} {c : CradleBar}

/-- The account with the present hall time as its AWAIT entry time. -/
def State.arrived (s : State) (n : Lathe) : State :=
  s.setAccount n { s.account n with awaitEntry := .fresh s.now }

theorem State.arrived_account (s : State) (n : Lathe) :
    (s.arrived n).account n = { s.account n with awaitEntry := .fresh s.now } := s.setAccount_account_self n _

theorem State.enterAwait_of_held (cradle : (s.account n).cradle = some c) (ret : s.hasJob n .ret = true) :
    s.enterAwait n = (s.arrived n).goTo n .await := by
  have cradle' : ((s.arrived n).account n).cradle = some c := by rw [s.arrived_account]; exact cradle
  change (s.arrived n).actOnCradle n = _
  unfold State.actOnCradle
  rw [cradle']
  exact if_pos ret

/-- The cradle bar marked, with the load timer running (R12, R16). -/
def State.loadingGone (s : State) (n : Lathe) (c : CradleBar) : State :=
  s.setAccount n
    { s.account n with cradle := some { c with loading := true }, loadTimer := .running s.params.loadLimit }

theorem State.enterAwait_of_free (cradle : (s.account n).cradle = some c) (free : s.hasJob n .ret = false) :
    s.enterAwait n = (((s.arrived n).goTo n .loading).loadingGone n c).notice n (loadGoMsg c.bar) := by
  have cradle' : ((s.arrived n).account n).cradle = some c := by rw [s.arrived_account]; exact cradle
  have free' : ¬(s.arrived n).hasJob n .ret = true := by
    rw [State.arrived, (beside_setAccount n s _).hasJob, free]
    decide
  change (s.arrived n).actOnCradle n = _
  unfold State.actOnCradle
  rw [cradle']
  simp only
  rw [if_neg free', State.loadingGone, State.goTo_params]

theorem State.enterAwait_of_empty (cradle : (s.account n).cradle = none) :
    s.enterAwait n = ((s.arrived n).goTo n .await).wantBar n := by
  have cradle' : ((s.arrived n).account n).cradle = none := by rw [s.arrived_account]; exact cradle
  change (s.arrived n).actOnCradle n = _
  unfold State.actOnCradle
  rw [cradle']

end Enter

/-! ### The evaluation of a hold reason set told to the lathe (R23) -/

theorem State.evalHold_queue (s : State) (n : Lathe) :
    ((s.evalHold n).port (lathePort n)).queue =
      if (s.account n).reasons = (s.account n).holdSet then (s.port (lathePort n)).queue
      else (s.port (lathePort n)).queue.filter (fun x => x.kind != 0x46) ++
        [⟨0x46, [b1 (s.account n).reasons.code]⟩] := by
  rw [State.evalHold_port]
  split
  · rfl
  · rw [State.notice_port_self]
    rfl

/-- A state change to `new` after the entry time has been taken. -/
theorem State.goTo_arrived_records {s : State} {n : Lathe} {new : AcctState} (other : (s.account n).state ≠ new)
    (room : s.events.records.length < 64) :
    ((s.arrived n).goTo n new).events.records = s.events.records ++
      [⟨.latheState, s.now, some n, none, none, none,
        latheStateValue new (s.account n).resume (s.account n).state⟩] := by
  rw [State.goTo_records (s.arrived n) n new (by rw [s.arrived_account]; exact other) room, s.arrived_account]
  rfl

/-! ### The end of a bar (R13) -/

section EndBar
variable (s : State) (n : Lathe)

theorem State.endBar_account : (s.endBar n).account n = (s.account n).dropBar := by
  unfold State.endBar
  exact (State.setCompare_account _ _ _ _).trans (State.setAccount_account_self _ _ _)

theorem State.endBar_compareOf : (s.endBar n).compareOf n = { s.compareOf n with armed := false, spent := false } := by
  unfold State.endBar
  dsimp only
  rw [State.setCompare_compareOf_self]
  split
  · rw [State.post_compareOf]
    rfl
  · rfl

theorem State.endBar_port (p : PortNo) : (s.endBar n).port p = s.port p := by
  unfold State.endBar
  dsimp only
  split
  · exact s.post_port _ p
  · rfl

variable {s n}

theorem State.endBar_records {g : Program} {c : CurrentBar} (program : (s.account n).program = some g)
    (current : (s.account n).current = some c) (room : s.events.records.length < 64) :
    (s.endBar n).events.records = s.events.records ++
      [{ barEndEvent n g c ((s.account n).partsLeft.getD 0) with time := s.now }] := by
  unfold State.endBar
  dsimp only
  rw [program, current]
  exact State.post_records _ room

end EndBar

/-! ### READY by the account's state (R13) -/

section Ready
variable {s : State} {n : Lathe}

theorem State.handleReady_of_running (h : (s.account n).state = .running) :
    s.handleReady n = (((s.ack (lathePort n) 0x22).endBar n).enterAwait n).evalHold n := by
  unfold State.handleReady
  simp only [h]

theorem State.handleReady_of_idle (h : (s.account n).state = .idle) :
    s.handleReady n = ((s.ack (lathePort n) 0x22).enterAwait n).evalHold n := by
  unfold State.handleReady
  simp only [h]

theorem State.handleReady_of_retry (h : (s.account n).state = .stopped) (fault : (s.account n).loadFault = true) :
    s.handleReady n =
      ((((s.ack (lathePort n) 0x22).setAccount n { s.account n with loadFault := false })).enterAwait n).evalHold n := by
  unfold State.handleReady
  rw [h]
  simp only [fault, if_true]
  rfl

end Ready

/-- Settles O26: the bar's end, the LOAD_FAULT cleared or nothing comes before the entry into AWAIT. -/
theorem readyStartsLoading : Obligations.ReadyStartsLoading := by
  intro n s g c a free program cradle room heldBack enters
  have entered (cleared : Account) (first : List EventRec) (compare : Compare) (u : State)
      (run : exec (.ready n) s = .next ((u.enterAwait n).evalHold n)) (beside : Beside n s u)
      (account : u.account n = cleared) (same : cleared.cradle = some c ∧ cleared.resume = a.resume ∧
        cleared.state = a.state ∧ cleared.holdSet = a.holdSet) (other : a.state ≠ .await ∧ a.state ≠ .loading)
      (wrote : u.compareOf n = compare) (records : u.events.records = s.events.records ++ first)
      (few : first.length ≤ 1)
      (queue : (u.port (lathePort n)).queue = (s.port (lathePort n)).queue ++ [(⟨0x41, [0x22]⟩ : Msg)]) :
      enters cleared first compare := by
    subst account
    obtain ⟨cradle', resume, state, holdSet⟩ := same
    have room' : u.events.records.length < 64 := by
      rw [records, List.length_append]
      omega
    have has : u.hasJob n .ret = heldBack := beside.hasJob n .ret
    have compareOf {v : State} (h : Beside n s v) (own : v.compareOf n = u.compareOf n) (k : Lathe) :
        v.compareOf k = if k = n then compare else s.compareOf k := by
      split
      · next e => rw [e, own, wrote]
      · next e => exact h.compares k e
    have now : u.now = s.now := beside.now
    simp only [enters]
    cases held : heldBack with
    | true =>
      have entry := State.enterAwait_of_held cradle' (has.trans held)
      have besides : Beside n s ((u.enterAwait n).evalHold n) := by
        rw [entry]
        exact ((beside.trans (beside_setAccount n u _)).trans (beside_goTo n _ _)).trans (beside_evalHold n _)
      have account : (u.enterAwait n).account n =
          { u.account n with state := .await, awaitEntry := ⟨s.now, 0⟩ } := by
        rw [entry, State.goTo_account_self, u.arrived_account, now]
        rfl
      refine ⟨_, run, ?_, besides.accounts, compareOf besides ?_, ?_, ?_, besides.sched, besides.rack,
        besides.shuttle, besides.seq, besides.bins, besides.kept⟩
      · rw [State.evalHold_account_self, account]
        rfl
      · rw [State.evalHold_compareOf, entry, State.goTo_compareOf]
        rfl
      · rw [State.evalHold_events, entry, State.goTo_arrived_records (by rw [state]; exact other.1) room', resume,
          state, records, now]
        rfl
      · have sent : ((u.enterAwait n).port (lathePort n)).queue = (u.port (lathePort n)).queue := by
          rw [entry, State.goTo_port]
          rfl
        rw [State.evalHold_queue, account, sent, queue, ← holdSet]
        rfl
    | false =>
      have entry := State.enterAwait_of_free cradle' (has.trans held)
      have besides : Beside n s ((u.enterAwait n).evalHold n) := by
        rw [entry]
        exact ((((beside.trans (beside_setAccount n u _)).trans (beside_goTo n _ _)).trans
          (beside_setAccount n _ _)).trans (beside_notice n n _ _)).trans (beside_evalHold n _)
      have params : u.params = s.params := beside.kept.params
      have account : (u.enterAwait n).account n =
          { u.account n with
            state := .loading
            cradle := some { c with loading := true }
            loadTimer := .running s.params.loadLimit
            awaitEntry := ⟨s.now, 0⟩ } := by
        rw [entry, State.notice_account, State.loadingGone, State.setAccount_account_self, State.goTo_account_self,
          State.goTo_params, u.arrived_account, now, ← params]
        rfl
      refine ⟨_, run, ?_, besides.accounts, compareOf besides ?_, ?_, ?_, besides.sched, besides.rack,
        besides.shuttle, besides.seq, besides.bins, besides.kept⟩
      · rw [State.evalHold_account_self, account]
        rfl
      · rw [State.evalHold_compareOf, entry, State.notice_compareOf]
        exact State.goTo_compareOf (u.arrived n) n .loading n
      · rw [State.evalHold_events, entry, State.notice_events]
        change ((u.arrived n).goTo n .loading).events.records = _
        rw [State.goTo_arrived_records (by rw [state]; exact other.2) room', resume, state, records, now]
        rfl
      · have sent : ((u.enterAwait n).port (lathePort n)).queue =
            (u.port (lathePort n)).queue.filter (fun x => x.kind != 0x44) ++ [loadGoMsg c.bar] := by
          rw [entry, State.notice_port_self]
          change (((u.arrived n).goTo n .loading).port (lathePort n)).queue.filter _ ++ _ = _
          rw [State.goTo_port]
          rfl
        rw [State.evalHold_queue, account, sent, queue, ← holdSet]
        rfl
  have acked : ((s.ack (lathePort n) 0x22).port (lathePort n)).queue =
      (s.port (lathePort n)).queue ++ [(⟨0x41, [0x22]⟩ : Msg)] := by
    rw [State.ack_lathePort, State.reply_port_self]
  have beside := beside_ack n s (lathePort n) 0x22
  refine ⟨fun cur running current => ?_, fun idle => ?_, fun stopped fault => ?_⟩
  · refine entered _ _ _ ((s.ack (lathePort n) 0x22).endBar n) ?_ (beside.trans (beside_endBar n _)) ?_
      ⟨cradle, rfl, rfl, rfl⟩ (by rw [running]; decide) ?_ ?_ (by simp) ?_
    · rw [exec_ready free, State.handleReady_of_running running]
    · rw [State.endBar_account]
      rfl
    · rw [State.endBar_compareOf]
      rfl
    · exact State.endBar_records (s := s.ack (lathePort n) 0x22) program current (Nat.lt_of_succ_lt room)
    · rw [State.endBar_port]
      exact acked
  · refine entered _ _ _ (s.ack (lathePort n) 0x22) ?_ beside rfl ⟨cradle, rfl, rfl, rfl⟩ (by rw [idle]; decide) rfl
      (List.append_nil _).symm (by simp) acked
    rw [exec_ready free, State.handleReady_of_idle idle]
  · refine entered _ _ _ ((s.ack (lathePort n) 0x22).setAccount n { a with loadFault := false }) ?_
      (beside.trans (beside_setAccount n _ _)) (State.setAccount_account_self _ _ _) ⟨cradle, rfl, rfl, rfl⟩
      (by rw [stopped]; decide) rfl (List.append_nil _).symm (by simp) acked
    rw [exec_ready free, State.handleReady_of_retry stopped fault]

/-! ### A request for a bar (R12, R92, R93) -/

/-- What the schedule's bookkeeping leaves. -/
structure PlanKeeps (s t : State) : Prop where
  accounts : t.accounts = s.accounts
  timer : t.timer = s.timer
  lines : t.lines = s.lines
  seq : t.seq = s.seq
  bins : t.bins = s.bins
  shuttle : t.shuttle = s.shuttle
  ports : t.ports = s.ports
  bars : ∀ k, (t.lane k).bars = (s.lane k).bars
  kept : Kept s t

theorem PlanKeeps.trans {s t u : State} (h : PlanKeeps s t) (k : PlanKeeps t u) : PlanKeeps s u where
  accounts := k.accounts.trans h.accounts
  timer := k.timer.trans h.timer
  lines := k.lines.trans h.lines
  seq := k.seq.trans h.seq
  bins := k.bins.trans h.bins
  shuttle := k.shuttle.trans h.shuttle
  ports := k.ports.trans h.ports
  bars l := (k.bars l).trans (h.bars l)
  kept := h.kept.trans k.kept

theorem PlanPrim.bars {s t : State} (h : PlanPrim s t) (k : LaneNo) : (t.lane k).bars = (s.lane k).bars := by
  cases h with
  | sched x => rfl
  | claim l c =>
    by_cases e : l = k
    · subst e
      rw [State.setLane_lane_self]
    · rw [State.setLane_lane_ne _ _ _ _ e]
  | post e => rw [State.post_lane]

theorem PlanPrim.keeps {s t : State} (h : PlanPrim s t) : PlanKeeps s t where
  accounts := h.accounts
  timer := by cases h <;> simp
  lines := h.lines
  seq := by cases h <;> simp
  bins := h.bins
  shuttle := by cases h <;> simp
  ports := h.ports
  bars := h.bars
  kept := h.kept

theorem PlanReach.keeps {s t : State} (h : PlanReach s t) : PlanKeeps s t := by
  induction h with
  | refl => exact ⟨rfl, rfl, rfl, rfl, rfl, rfl, rfl, fun _ => rfl, Kept.refl s⟩
  | tail _ p ih => exact ih.trans p.keeps

section Keeps
variable {s t : State}

theorem PlanKeeps.account (h : PlanKeeps s t) (n : Lathe) : t.account n = s.account n := by
  rw [State.account, h.accounts, State.account]
theorem PlanKeeps.compareOf (h : PlanKeeps s t) (n : Lathe) : t.compareOf n = s.compareOf n := by
  rw [State.compareOf, h.timer, State.compareOf]
theorem PlanKeeps.shuttleFree (h : PlanKeeps s t) : t.shuttleFree = s.shuttleFree :=
  State.shuttleFree_congr h.shuttle h.seq

end Keeps

section Request
variable {s : State} {n : Lathe} {i : Slot} {g : Program}

/-- The DELIVER job that a request makes in an empty slot (R93). -/
theorem State.request_deliver_made (program : (s.account n).program = some g) (lacks : s.hasJob n .deliver = false)
    (slot : s.emptySlot = some i) (deferred : s.sched.deferred = []) :
    (s.request n .deliver).job i = some
        { s.madeDeliver n with
          lane := s.claimLane g, claim := (s.claimLane g).isSome
          block := if s.claimLane g = none then .noStock else .none } ∧
      (∀ i', i' ≠ i → (s.request n .deliver).job i' = s.job i') ∧
      (s.request n .deliver).sched.lastJobId = s.nextJobId ∧
      ∀ k, (s.request n .deliver).lane k =
        if s.claimLane g = some k then { s.lane k with claimed := (s.lane k).claimed + 1 } else s.lane k := by
  rw [State.request_of_room lacks slot deferred]
  cases lane : s.claimLane g with
  | none =>
    rw [State.createIn_deliver_blocked program lane]
    refine ⟨?_, fun i' other => ?_, ?_, fun k => ?_⟩
    · rw [State.post_job]
      exact Bank.read_write_self _ _ _
    · rw [State.post_job]
      exact Bank.read_write_ne _ _ _ _ (Ne.symm other)
    · rw [State.post_sched]
      rfl
    · rw [State.post_lane]
      rfl
  | some l =>
    rw [State.createIn_deliver_claim program lane]
    refine ⟨Bank.read_write_self _ _ _, fun i' other => Bank.read_write_ne _ _ _ _ (Ne.symm other), rfl, fun k => ?_⟩
    rw [State.setSched_lane]
    by_cases e : l = k
    · subst e
      rw [State.setLane_lane_self, if_pos rfl]
    · rw [State.setLane_lane_ne _ _ _ _ e, if_neg fun h => e (Option.some.inj h)]

theorem State.wantBar_of_has (has : s.findJob n .deliver = some i) :
    s.wantBar n = s.setDeadline i ((s.account n).awaitEntry.read s.now) := by
  simp [State.wantBar, has]

theorem State.wantBar_of_short (lacks : s.findJob n .deliver = none) (stock : (s.account n).stockShort = true) :
    s.wantBar n = s := by
  simp [State.wantBar, lacks, stock]

theorem State.wantBar_of_busy (lacks : s.findJob n .deliver = none) (stock : (s.account n).stockShort = false)
    (busy : s.shuttleFree = false) : s.wantBar n = s.request n .deliver := by
  simp [State.wantBar, lacks, stock, State.request_dispatch_of_busy busy]

theorem plan_wantBar_of_busy (busy : s.shuttleFree = false) : PlanReach s (s.wantBar n) := by
  cases has : s.findJob n .deliver with
  | some i =>
    rw [State.wantBar_of_has has]
    exact plan_setDeadline s i _
  | none =>
    cases stock : (s.account n).stockShort with
    | true =>
      rw [State.wantBar_of_short has stock]
    | false =>
      rw [State.wantBar_of_busy has stock busy]
      exact plan_request s n _

theorem State.hasJob_of_findJob {k : JobKind} (h : s.findJob n k = none) : s.hasJob n k = false := by
  rw [State.hasJob, h]
  rfl

/-- Without a current bar a DELIVER job is due at the AWAIT entry time (R47). -/
theorem Account.deliverDeadline_of_empty {a : Account} {now : Time} (h : a.current = none) :
    a.deliverDeadline now = a.awaitEntry.read now := by
  simp [Account.deliverDeadline, h]

end Request

theorem Stamp.read_fresh (now t : Time) : (Stamp.fresh t).read now = t := rfl

/-- A rewritten deadline changes the schedule alone (R102). -/
theorem State.setDeadline_sched (s : State) (i : Slot) (t : Time) :
    (s.setDeadline i t).sched =
      { s.sched with slots := s.sched.slots.write i ((s.job i).map fun j => { j with deadline := t }) } := rfl

/-- Settles O27: what comes before the entry into AWAIT leaves no current bar, and the entry asks for one. -/
theorem readyAsksForBar : Obligations.ReadyAsksForBar := by
  intro n s g a free program cradle how busy
  obtain ⟨u, run, beside, loadFault, current, same⟩ : ∃ u : State,
      exec (.ready n) s = .next ((u.enterAwait n).evalHold n) ∧ Beside n s u ∧
        (u.account n).loadFault = (a.loadFault && decide (a.state ≠ .stopped)) ∧ (u.account n).current = none ∧
        (u.account n).program = some g ∧ (u.account n).cradle = none ∧ (u.account n).tray = a.tray ∧
        (u.account n).stockShort = a.stockShort := by
    have acked := beside_ack n s (lathePort n) 0x22
    rcases how with running | ⟨idle, none⟩ | ⟨stopped, fault, none⟩
    · refine ⟨(s.ack (lathePort n) 0x22).endBar n, ?_, acked.trans (beside_endBar n _), ?_⟩
      · rw [exec_ready free, State.handleReady_of_running running]
      · rw [State.endBar_account, running]
        exact ⟨(Bool.and_true _).symm, rfl, program, cradle, rfl, rfl⟩
    · refine ⟨s.ack (lathePort n) 0x22, ?_, acked, ?_⟩
      · rw [exec_ready free, State.handleReady_of_idle idle]
      · rw [idle]
        exact ⟨(Bool.and_true _).symm, none, program, cradle, rfl, rfl⟩
    · refine ⟨(s.ack (lathePort n) 0x22).setAccount n { a with loadFault := false }, ?_,
        acked.trans (beside_setAccount n _ _), ?_⟩
      · rw [exec_ready free, State.handleReady_of_retry stopped fault]
      · rw [State.setAccount_account_self, stopped]
        exact ⟨(Bool.and_false _).symm, none, program, cradle, rfl, rfl⟩
  obtain ⟨program', cradle', tray, stock⟩ := same
  let v := (u.arrived n).goTo n .await
  have beside : Beside n s v := (beside.trans (beside_setAccount n u _)).trans (beside_goTo n _ _)
  have account : v.account n = { u.account n with state := .await, awaitEntry := ⟨s.now, 0⟩ } := by
    rw [State.goTo_account_self, u.arrived_account, ← beside.now, State.goTo_now]
    rfl
  have busy : v.shuttleFree = false := beside.shuttleFree.trans busy
  have keeps := PlanReach.keeps (plan_wantBar_of_busy (n := n) busy)
  rw [State.enterAwait_of_empty cradle'] at run
  have own : (((v.wantBar n).evalHold n).account n) =
      { v.account n with holdSet := (v.account n).reasons } := by
    rw [State.evalHold_account_self, keeps.account]
  refine ⟨_, run, ?_, ?_, ?_, ?_, ?_, fun k other => ?_, fun i has => ?_, fun lacks short => ?_,
    fun i lacks short slot deferred => ?_, ?_, ?_, ?_, ?_⟩
  · rw [own, account]
  · rw [own, account]; exact current
  · rw [own, account]
  · rw [own, account]; exact tray
  · rw [own, account]; exact loadFault
  · rw [State.evalHold_account_ne _ _ _ (Ne.symm other), keeps.account, beside.accounts k other]
  · rw [State.evalHold_sched, State.evalHold_rack, State.wantBar_of_has ((beside.findJob n .deliver).trans has), account]
    refine ⟨?_, beside.rack⟩
    rw [State.setDeadline_sched, beside.job, beside.sched, beside.now]
    rfl
  · rw [State.evalHold_sched, State.evalHold_rack, State.wantBar_of_short ((beside.findJob n .deliver).trans lacks)
      (by rw [account]; exact stock.trans short)]
    exact ⟨beside.sched, beside.rack⟩
  · rw [State.evalHold_job, State.evalHold_sched]
    simp only [State.evalHold_lane]
    have lacks' := State.hasJob_of_findJob ((beside.findJob n .deliver).trans lacks)
    rw [State.wantBar_of_busy ((beside.findJob n .deliver).trans lacks) (by rw [account]; exact stock.trans short) busy]
    obtain ⟨made, -, issued, lanes⟩ := State.request_deliver_made (g := g) (by rw [account]; exact program') lacks'
      (beside.emptySlot.trans slot) (by rw [beside.sched]; exact deferred)
    have due : (v.account n).deliverDeadline v.now = s.now := by
      rw [account, beside.now]
      exact Account.deliverDeadline_of_empty current
    rw [made, issued, State.madeDeliver, due, beside.nextJobId, beside.now]
    simp only [lanes, beside.claimLane, beside.lane]
    exact ⟨rfl, trivial, fun _ => trivial⟩
  · rw [State.evalHold_shuttle, keeps.shuttle, beside.shuttle]
  · rw [State.evalHold_seq, keeps.seq, beside.seq]
  · rw [State.evalHold_bins, keeps.bins, beside.bins]
  · exact (beside.kept.trans keeps.kept).trans (kept_evalHold _ n)

/-! ### What the schedule and the shuttle's hand-out leave -/

/-- What the operations of the schedule, the arbiter and the issue of a step leave. -/
structure SchedKeeps (s t : State) : Prop where
  accounts : t.accounts = s.accounts
  compares : ∀ n, t.compareOf n = s.compareOf n
  lines : t.lines = s.lines
  ports : t.ports = s.ports
  bars : ∀ k, (t.lane k).bars = (s.lane k).bars
  kept : Kept s t

theorem SchedKeeps.trans {s t u : State} (h : SchedKeeps s t) (k : SchedKeeps t u) : SchedKeeps s u where
  accounts := k.accounts.trans h.accounts
  compares n := (k.compares n).trans (h.compares n)
  lines := k.lines.trans h.lines
  ports := k.ports.trans h.ports
  bars l := (k.bars l).trans (h.bars l)
  kept := h.kept.trans k.kept

theorem SchedPrim.keeps {s t : State} (h : SchedPrim s t) : SchedKeeps s t where
  accounts := h.accounts
  compares := h.compareOf
  lines := h.lines
  ports := h.ports
  bars k := by
    cases h with
    | plan p => exact p.bars k
    | seq | shuttle | guardWait | stepTimer | inFlight => rfl
  kept := h.kept

theorem SchedReach.keeps {s t : State} (h : SchedReach s t) : SchedKeeps s t := by
  induction h with
  | refl => exact ⟨rfl, fun _ => rfl, rfl, rfl, fun _ => rfl, Kept.refl s⟩
  | tail _ p ih => exact ih.trans p.keeps

section Keeps
variable {s t : State}

theorem SchedKeeps.account (h : SchedKeeps s t) (n : Lathe) : t.account n = s.account n := by
  rw [State.account, h.accounts, State.account]
theorem SchedKeeps.line (h : SchedKeeps s t) (n : Lathe) : t.line n = s.line n := by
  rw [State.line, h.lines, State.line]
theorem SchedKeeps.port (h : SchedKeeps s t) (p : PortNo) : t.port p = s.port p := by
  rw [State.port, h.ports, State.port]

end Keeps

/-! ### The delivery compare written (R45, R58) -/

section Compare
variable {s : State} {n : Lathe}

/-- The account with its predictions formed, its compare not yet written. -/
def State.predicts (s : State) (n : Lathe) : State := s.setAccount n ((s.account n).predicted s.now)

theorem State.predicts_account (s : State) (n : Lathe) :
    (s.predicts n).account n = (s.account n).predicted s.now := s.setAccount_account_self n _

theorem State.settleCompare_of_unwanted (h : (s.account n).wantsCompare = false) :
    s.settleCompare n = s.setCompare n (s.compareOf n).disarm := by
  simp [State.settleCompare, h]

theorem State.writeCompare_of_wanted {t : Time} (wants : (s.account n).wantsCompare = true)
    (out : (s.account n).outAt s.now = some t) :
    s.writeCompare n =
      (s.setCompare n (.written (t - BitVec.ofNat 32 s.params.lookahead) s.now),
        atOrBefore (t - BitVec.ofNat 32 s.params.lookahead) s.now) := by
  simp only [State.writeCompare, wants, out]

theorem State.writeCompare_of_unwanted (h : (s.account n).wantsCompare = false) :
    s.writeCompare n = (s.setCompare n (s.compareOf n).disarm, false) := by
  simp only [State.writeCompare, h, State.settleCompare_of_unwanted h]

theorem beside_writeCompare (n : Lathe) (s : State) : Beside n s (s.writeCompare n).1 := by
  unfold State.writeCompare
  dsimp only
  split
  · exact beside_setCompare n s _
  · exact beside_settleCompare n s

theorem State.settleCompare_accounts (s : State) (n : Lathe) : (s.settleCompare n).accounts = s.accounts := by
  unfold State.settleCompare
  split <;> rfl

theorem State.writeCompare_accounts (s : State) (n : Lathe) : (s.writeCompare n).1.accounts = s.accounts := by
  unfold State.writeCompare
  dsimp only
  split
  · rfl
  · exact s.settleCompare_accounts n

theorem State.writeCompare_ports (s : State) (n : Lathe) : (s.writeCompare n).1.ports = s.ports := by
  unfold State.writeCompare State.settleCompare
  dsimp only
  split
  · rfl
  · split <;> rfl

/-- After its compare is written a recomputation is the schedule's. -/
theorem sched_recomputeAndFire (s : State) (n : Lathe) :
    SchedReach ((s.predicts n).writeCompare n).1 (s.recomputeAndFire n) :=
  (PlanReach.toSched ((plan_rewriteDeliver _ n).trans (plan_rewriteCollect _ n))).trans (sched_fireIf _ n _)

theorem State.recomputeAndFire_account (s : State) (n : Lathe) :
    (s.recomputeAndFire n).account n = (s.account n).predicted s.now := by
  rw [(sched_recomputeAndFire s n).keeps.account, State.account, State.writeCompare_accounts]
  exact s.predicts_account n

theorem State.recomputeAndFire_account_ne (s : State) {n m : Lathe} (h : m ≠ n) :
    (s.recomputeAndFire n).account m = s.account m := by
  rw [(sched_recomputeAndFire s n).keeps.account, State.account, State.writeCompare_accounts]
  exact s.setAccount_account_ne n _ m (Ne.symm h)

theorem State.recomputeAndFire_port (s : State) (n : Lathe) (p : PortNo) :
    (s.recomputeAndFire n).port p = s.port p := by
  rw [(sched_recomputeAndFire s n).keeps.port, State.port, State.writeCompare_ports]
  rfl

theorem State.recomputeAndFire_bars (s : State) (n : Lathe) (k : LaneNo) :
    ((s.recomputeAndFire n).lane k).bars = (s.lane k).bars := by
  rw [(sched_recomputeAndFire s n).keeps.bars, (beside_writeCompare n _).lane]
  rfl

theorem kept_recomputeAndFire (s : State) (n : Lathe) : Kept s (s.recomputeAndFire n) :=
  ((beside_setAccount n s _).kept.trans (beside_writeCompare n _).kept).trans (sched_recomputeAndFire s n).keeps.kept

theorem State.recomputeAndFire_compareOf (s : State) (n m : Lathe) :
    (s.recomputeAndFire n).compareOf m = ((s.predicts n).writeCompare n).1.compareOf m :=
  (sched_recomputeAndFire s n).keeps.compares m

theorem State.recomputeAndFire_compareOf_ne (s : State) {n m : Lathe} (h : m ≠ n) :
    (s.recomputeAndFire n).compareOf m = s.compareOf m := by
  rw [s.recomputeAndFire_compareOf, (beside_writeCompare n _).compares m h]
  rfl

end Compare

/-- The predictions of an account with a program, a current bar and a cycle (R31, R43, R44). -/
theorem Account.predicted_eq {a : Account} {now : Time} {g : Program} {c : CurrentBar} {cyc : Nat}
    (program : a.program = some g) (current : a.current = some c) (cycle : a.cycle = some cyc) :
    a.predicted now =
      { a with
        tLast := { a.tLast with time := a.tLast.read now }
        partsLeft := some (g.partsLeft c.remaining)
        tOut := some (predict (a.tLast.read now) (g.partsLeft c.remaining) cyc)
        tFull := some (predict (a.tLast.read now) (g.capacity - a.tray) cyc) } := by
  simp [Account.predicted, program, current, cycle]

theorem Stamp.read_read (x : Stamp) (now : Time) : ({ x with time := x.read now } : Stamp).read now = x.read now := by
  unfold Stamp.read
  split <;> rfl

/-- T_out formed now is used as it was formed, whatever the age of t_last (R39). -/
theorem Account.predicted_outAt {a : Account} {now : Time} {g : Program} {c : CurrentBar} {cyc : Nat}
    (program : a.program = some g) (current : a.current = some c) (cycle : a.cycle = some cyc) :
    (a.predicted now).outAt now = some (predict (a.tLast.read now) (g.partsLeft c.remaining) cyc) := by
  rw [Account.predicted_eq program current cycle]
  unfold Account.outAt Account.useTime
  simp only [Stamp.read_read, cycle, Option.getD_some, Option.map_some]
  split <;> rfl

/-- The compare of a recomputation where R45 wants it armed. -/
theorem State.recomputeAndFire_armed {s : State} {n : Lathe} {g : Program} {c : CurrentBar} {cyc : Nat}
    (program : (s.account n).program = some g) (current : (s.account n).current = some c)
    (cycle : (s.account n).cycle = some cyc) (wants : (s.account n).wantsCompare = true) :
    let value := predict ((s.account n).tLast.read s.now) (g.partsLeft c.remaining) cyc -
      BitVec.ofNat 32 s.params.lookahead
    (s.recomputeAndFire n).compareOf n = ⟨true, value, atOrBefore value s.now⟩ := by
  intro value
  have wants' : ((s.predicts n).account n).wantsCompare = true := by
    rw [s.predicts_account]
    exact wants
  have out : ((s.predicts n).account n).outAt (s.predicts n).now =
      some (predict ((s.account n).tLast.read s.now) (g.partsLeft c.remaining) cyc) := by
    rw [s.predicts_account]
    exact Account.predicted_outAt program current cycle
  rw [s.recomputeAndFire_compareOf, State.writeCompare_of_wanted wants' out, State.setCompare_compareOf_self]
  rfl

/-! ### LOADED (R14, R15) -/

section Loaded
variable {s : State} {n : Lathe}

theorem State.handleLoaded_of_loading (h : (s.account n).state = .loading) :
    s.handleLoaded n = (s.ack (lathePort n) 0x23).completeLoad n := by
  unfold State.handleLoaded
  simp only [h]

theorem State.handleLoaded_of_late (h : (s.account n).state = .stopped) (fault : (s.account n).loadFault = true)
    (cradle : (s.account n).cradle.isSome = true) :
    s.handleLoaded n =
      ((s.ack (lathePort n) 0x23).setAccount n { s.account n with loadFault := false }).completeLoad n := by
  unfold State.handleLoaded
  simp only [h, fault, cradle, Bool.and_self, if_true, State.ack_account]

end Loaded

/-- Settles O29: the load completed is the same in LOADING and as a late load. -/
theorem loadedMakesBarCurrent : Obligations.LoadedMakesBarCurrent := by
  intro n s g c cyc a free program cradle cycle how rem left due value
  have cleared (x : Account) : { x with loadFault := x.loadFault } = x := rfl
  obtain ⟨u, run, beside, account, queue⟩ : ∃ u : State,
      exec (.loaded n) s = .next (u.completeLoad n) ∧ Beside n s u ∧
        u.account n = { a with loadFault := false } ∧
        (u.port (lathePort n)).queue = (s.port (lathePort n)).queue ++ [⟨0x41, [0x23]⟩] := by
    have acked := beside_ack n s (lathePort n) 0x23
    have queue : ((s.ack (lathePort n) 0x23).port (lathePort n)).queue =
        (s.port (lathePort n)).queue ++ [⟨0x41, [0x23]⟩] := by
      rw [State.ack_lathePort, State.reply_port_self]
    rcases how with ⟨loading, clear⟩ | ⟨stopped, fault⟩
    · refine ⟨s.ack (lathePort n) 0x23, ?_, acked, ?_, queue⟩
      · rw [exec_loaded free, State.handleLoaded_of_loading loading]
      · rw [← clear]
        rfl
    · refine ⟨(s.ack (lathePort n) 0x23).setAccount n { a with loadFault := false }, ?_,
        acked.trans (beside_setAccount n _ _), State.setAccount_account_self _ _ _, queue⟩
      rw [exec_loaded free, State.handleLoaded_of_late stopped fault (by rw [cradle]; rfl)]
  let v := (u.setAccount n { (u.account n).loadBar u.now with loadTimer := .stopped }).goTo n .running
  have besides : Beside n s v := (beside.trans (beside_setAccount n u _)).trans (beside_goTo n _ _)
  have own : v.account n =
      { a with
        state := .running
        current := some ⟨c.bar.id, c.bar.length, c.bar.lot, rem, 0, false⟩
        cradle := none
        tLast := ⟨s.now, 0⟩
        sampleValid := false
        loadFault := false
        loadTimer := .stopped } := by
    rw [State.goTo_account_self, State.setAccount_account_self, account, beside.now]
    simp only [Account.loadBar, cradle, program]
    rfl
  have current : (v.account n).current = some ⟨c.bar.id, c.bar.length, c.bar.lot, rem, 0, false⟩ := by rw [own]
  have program' : (v.account n).program = some g := by rw [own]; exact program
  have cycle' : (v.account n).cycle = some cyc := by rw [own]; exact cycle
  have predicted := Account.predicted_eq (now := v.now) program' current cycle'
  rw [own, besides.now] at predicted
  have armed := State.recomputeAndFire_armed program' current cycle' (by rw [own]; rfl)
  rw [own, besides.now, besides.kept.params] at armed
  have told : u.completeLoad n = (v.recomputeAndFire n).evalHold n := rfl
  refine ⟨_, _, run, rfl, ?_, fun k other => ?_, ?_, ?_, fun k => ?_, ?_⟩
  · rw [told, State.evalHold_account_self, State.recomputeAndFire_account, own, besides.now, predicted]
    rfl
  · rw [told, State.evalHold_account_ne _ _ _ (Ne.symm other), State.recomputeAndFire_account_ne _ other,
      besides.accounts k other]
  · rw [told, State.evalHold_compareOf, armed]
    rfl
  · rw [told, State.evalHold_queue, State.recomputeAndFire_account, own, besides.now, predicted,
      State.recomputeAndFire_port, show v.port (lathePort n) = u.port (lathePort n) from State.goTo_port _ _ _ _, queue]
    rfl
  · rw [told, State.evalHold_lane, State.recomputeAndFire_bars, besides.lane]
  · rw [told]
    exact (besides.kept.trans (kept_recomputeAndFire v n)).trans (kept_evalHold _ n)

/-! ### The lathe's DELIVER job cancelled (R109, R111) -/

section Cancel
variable {s : State} {n : Lathe} {i : Slot} {j : Job}

/-- A job that is not ACTIVE cancelled with the shuttle not free and nothing deferred: its claim and its slot. -/
theorem State.cancelIdle_eq (hj : s.job i = some j) (kind : j.kind ≠ .ret) (busy : s.shuttleFree = false)
    (deferred : s.sched.deferred = [])
    (closed : ∀ k, j.claim = true → j.lane = some k → (s.lane k).isOpen = false) :
    s.cancelIdle i = (s.releaseClaim j).vacate i := by
  have frame := s.releaseClaim_frame j
  have deferred' : ((s.releaseClaim j).vacate i).sched.deferred = [] := by rw [frame]; exact deferred
  have busy' : ((s.releaseClaim j).vacate i).shuttleFree = false := by rw [frame]; exact busy
  have closed' : ∀ k, j.claim = true → j.lane = some k → (((s.releaseClaim j).vacate i).lane k).isOpen = false := by
    intro k claim lane
    change ((s.releaseClaim j).lane k).isOpen = false
    rw [State.releaseClaim_lane, if_pos ⟨claim, lane⟩]
    exact closed k claim lane
  unfold State.cancelIdle
  simp only [hj, State.departed_of_not_ret _ kind, State.serveDeferred_of_empty deferred',
    State.dispatch_of_busy busy', State.gainOfRelease_of_closed closed']

theorem State.releaseClaim_of_none (h : j.claim = false) : s.releaseClaim j = s := by
  simp [State.releaseClaim, h]

theorem State.cancelDeliver_of_none {m : CancelMark} (lacks : s.findJob n .deliver = none) : s.cancelDeliver n m = s := by
  simp [State.cancelDeliver, lacks]

theorem State.cancelDeliver_of_idle {m : CancelMark} (has : s.findJob n .deliver = some i) (hj : s.job i = some j)
    (idle : j.state ≠ .active) : s.cancelDeliver n m = s.cancelIdle i := by
  cases state : j.state with
  | active => exact absurd state idle
  | waiting | suspended => simp [State.cancelDeliver, has, hj, state]

theorem State.cancelDeliver_of_under_way {m : CancelMark} (has : s.findJob n .deliver = some i)
    (hj : s.job i = some j) (active : j.state = .active) (load : s.shuttle.load = .none)
    (phase : s.seq.phase = .outstanding) : s.cancelDeliver n m = s.setSlot i (some { j with cancel := m }) := by
  simp [State.cancelDeliver, has, hj, active, load, phase]

theorem State.cancelDeliver_of_carried {m : CancelMark} (has : s.findJob n .deliver = some i) (hj : s.job i = some j)
    (active : j.state = .active) (load : s.shuttle.load ≠ .none) :
    s.cancelDeliver n m =
      if m = .stop ∧ j.short = true then s.setSlot i (some { j with cancel := m }) else s := by
  simp [State.cancelDeliver, has, hj, active, load]

end Cancel

/-! ### STOP (R17) -/

theorem State.handleStop_of_resumable {s : State} {n : Lathe} {r : ResumeState} (h : (s.account n).state = r.toState) :
    s.handleStop n = (s.ack (lathePort n) 0x24).stopLathe n r := by
  unfold State.handleStop
  cases r <;> simp only [h, ResumeState.toState]

/-- What STOP has done by the time it comes to the lathe's DELIVER job. -/
theorem State.handleStop_before {s : State} {n : Lathe} {r : ResumeState} (h : (s.account n).state = r.toState)
    (room : s.events.records.length < 64) :
    ∃ u : State, s.handleStop n = (u.cancelDeliver n .stop).evalHold n ∧ Beside n s u ∧
      u.account n = { s.account n with state := .stopped, resume := r } ∧
      u.compareOf n = { s.compareOf n with armed := false, spent := false } ∧
      u.events.records = s.events.records ++
        [⟨.latheState, s.now, some n, none, none, none, latheStateValue .stopped r (s.account n).state⟩] := by
  let resumes := (s.ack (lathePort n) 0x24).setAccount n { s.account n with resume := r }
  let stopped := resumes.goTo n .stopped
  have before : Beside n s stopped :=
    ((beside_ack n s _ _).trans (beside_setAccount n _ _)).trans (beside_goTo n _ _)
  have other : (resumes.account n).state ≠ .stopped := by
    rw [State.setAccount_account_self]
    change (s.account n).state ≠ .stopped
    rw [h]
    cases r <;> decide
  have account : stopped.account n = { s.account n with state := .stopped, resume := r } := by
    rw [State.goTo_account_self, State.setAccount_account_self]
  have settled : stopped.settleCompare n = stopped.setCompare n (stopped.compareOf n).disarm :=
    State.settleCompare_of_unwanted (by rw [account]; rfl)
  refine ⟨stopped.settleCompare n, ?_, before.trans (beside_settleCompare n stopped), ?_, ?_, ?_⟩
  · rw [State.handleStop_of_resumable h]
    rfl
  · rw [settled, State.setCompare_account, account]
  · rw [settled, State.setCompare_compareOf_self, State.goTo_compareOf]
    rfl
  · rw [settled, State.setCompare_events, State.goTo_records resumes n .stopped other room,
      State.setAccount_account_self]
    rfl

/-- Settles O30: STOP's own effects, and the four ways the lathe's DELIVER job takes it. -/
theorem stopStopsLathe : Obligations.StopStopsLathe := by
  intro n s r a free state room busy deferred outcome
  obtain ⟨u, handled, beside, account, compare, records⟩ := State.handleStop_before state room
  have run : exec (.stop n) s = .next ((u.cancelDeliver n .stop).evalHold n) := by rw [exec_stop free, handled]
  have entails (sched : Schedule) (cancels : u.cancelDeliver n .stop = u.setSched sched) : outcome sched := by
    rw [cancels] at run
    refine ⟨_, _, run, rfl, ?_, fun k other => ?_, ?_, ?_, ?_, ?_, ?_, ?_, ?_⟩
    · rw [State.evalHold_account_self, State.setSched_account, account]
    · rw [State.evalHold_account_ne _ _ _ (Ne.symm other), State.setSched_account, beside.accounts k other]
    · rw [State.evalHold_compareOf, State.setSched_compareOf, compare]
    · rw [State.evalHold_events, State.setSched_events, records]
      rfl
    · rw [State.evalHold_sched]
      rfl
    · rw [State.evalHold_rack]
      exact beside.rack
    · rw [State.evalHold_shuttle]
      exact beside.shuttle
    · rw [State.evalHold_bins]
      exact beside.bins
    · exact (beside.kept.trans (PlanPrim.sched u sched).kept).trans (kept_evalHold _ n)
  have stays : u.setSched s.sched = u := by
    rw [← beside.sched]
    exact u.setSched_sched_self
  refine ⟨fun lacks => ?_, fun i j has hj => ?_⟩
  · exact entails _ ((State.cancelDeliver_of_none ((beside.findJob n .deliver).trans lacks)).trans stays.symm)
  · have has' := (beside.findJob n .deliver).trans has
    have hj' := (beside.job i).trans hj
    obtain ⟨_, found, -, kind⟩ := State.findJob_spec has
    have marked : ∀ {x : Job}, u.setSlot i (some x) =
        u.setSched { s.sched with slots := s.sched.slots.write i (some x) } := by
      intro x
      rw [State.setSlot, beside.sched]
    refine ⟨fun waiting claim => entails _ ?_, fun active load phase => entails _ ?_,
      fun active load short => entails _ ?_, fun active load short => entails _ ?_⟩
    · have kind' : j.kind ≠ .ret := by
        rw [← Option.some.inj (found.symm.trans hj), kind]
        decide
      rw [State.cancelDeliver_of_idle has' hj' (by rw [waiting]; decide),
        State.cancelIdle_eq hj' kind' (beside.shuttleFree.trans busy) (by rw [beside.sched]; exact deferred)
          (fun _ h => by rw [claim] at h; cases h), State.releaseClaim_of_none claim, State.vacate, beside.sched]
    · rw [State.cancelDeliver_of_under_way has' hj' active (by rw [beside.shuttle]; exact load)
        (by rw [beside.seq]; exact phase), marked]
    · rw [State.cancelDeliver_of_carried has' hj' active (by rw [beside.shuttle, load]; decide), if_pos ⟨rfl, short⟩,
        marked]
    · rw [State.cancelDeliver_of_carried has' hj' active (by rw [beside.shuttle]; exact load),
        if_neg (by rw [short]; simp), stays]

end Sys2Proof.Machine

/-! PROOFS. RESUME accepted (R18), and the events that a request for a job and the arbiter post. -/
namespace Sys2Proof.Machine

open Sys2Proof

/-! ### Events posted (R192) -/

/-- From `s` to `t` the event queue has only grown, by records of these kinds. -/
def Posts (K : EventKind → Prop) (s t : State) : Prop :=
  ∃ more, t.events.records = s.events.records ++ more ∧ ∀ e ∈ more, K e.kind

section Posts
variable {K : EventKind → Prop} {s t u : State}

theorem posts_of_events (h : t.events = s.events) : Posts K s t := ⟨[], by simp [h], by simp⟩
theorem Posts.refl (s : State) : Posts K s s := posts_of_events rfl
theorem Posts.trans (h : Posts K s t) (k : Posts K t u) : Posts K s u := by
  obtain ⟨more, grown, kinds⟩ := h
  obtain ⟨more', grown', kinds'⟩ := k
  refine ⟨more ++ more', by rw [grown', grown, List.append_assoc], fun e mem => ?_⟩
  exact (List.mem_append.1 mem).elim (kinds e) (kinds' e)

theorem posts_post {e : EventRec} (kind : K e.kind) : Posts K s (s.post e) := by
  rw [Posts, State.post_events]
  split
  · refine ⟨[{ e with time := s.now }], rfl, fun x mem => ?_⟩
    rw [List.mem_singleton.1 mem]
    exact kind
  · exact ⟨[], (List.append_nil _).symm, by simp⟩

end Posts

/-! ### The events of a request and of the arbiter (R97, R103) -/

section Sched
variable {K : EventKind → Prop} (s : State)

theorem posts_enterNoStock (noStock : K .noStock) (i : Slot) : Posts K s (s.enterNoStock i) := by
  unfold State.enterNoStock
  split
  · exact .refl s
  · exact (posts_of_events rfl).trans (posts_post noStock)

theorem State.takeClaim_events (i : Slot) (k : LaneNo) : (s.takeClaim i k).events = s.events := rfl

theorem State.evalBinBlock_events (i : Slot) : (s.evalBinBlock i).events = s.events := by
  unfold State.evalBinBlock
  split
  · rfl
  · split
    · rfl
    · split
      · rfl
      · split
        · split <;> rfl
        · split <;> rfl
        · rfl

theorem posts_createIn (noStock : K .noStock) (i : Slot) (n : Lathe) (k : JobKind) : Posts K s (s.createIn i n k) := by
  unfold State.createIn
  dsimp only
  split
  · exact .refl s
  · split
    · split
      · exact posts_of_events rfl
      · exact (posts_of_events rfl).trans (posts_enterNoStock _ noStock i)
    · exact posts_of_events (State.evalBinBlock_events _ i)
    · exact posts_of_events rfl

theorem State.defer_events (n : Lathe) (k : JobKind) : (s.defer n k).events = s.events := by
  unfold State.defer
  split <;> rfl

theorem posts_request (noStock : K .noStock) (n : Lathe) (k : JobKind) : Posts K s (s.request n k) := by
  unfold State.request
  split
  · exact .refl s
  · split
    · exact posts_of_events (s.defer_events n k)
    · split
      · exact posts_createIn s noStock _ n k
      · exact posts_of_events (s.defer_events n k)

/-- Step 1 of every job is a MOVE (R118). -/
theorem Job.order_of_one {j : Job} {o : Order} (step : j.step = .one) (order : j.order = some o) : o.kind = .move := by
  unfold Job.order at order
  rw [step] at order
  cases kind : j.kind with
  | deliver =>
    simp only [kind, Option.map_eq_some_iff] at order
    obtain ⟨k, -, rfl⟩ := order
    rfl
  | collect | ret =>
    simp only [kind, Option.some.injEq] at order
    rw [← order]

theorem State.holdInFlight_events (j : Job) (o : Order) : (s.holdInFlight j o).events = s.events := by
  unfold State.holdInFlight
  split <;> rfl

theorem State.issueStep_events (j : Job) (o : Order) : (s.issueStep j o).events = s.events := by
  unfold State.issueStep
  exact State.holdInFlight_events _ j o

/-- Only a PLACE or a DUMP can wait with an event (R125, R132). -/
theorem State.checkAndIssue_events_of_move (h : ∀ i j o, s.active = some (i, j) → j.order = some o → o.kind = .move) :
    s.checkAndIssue.events = s.events := by
  cases active : s.active with
  | none =>
    have nobody : s.seq.job.bind s.job = none := by
      unfold State.active at active
      cases job : s.seq.job with
      | none => rfl
      | some i =>
        rw [job, Option.bind_some, Option.map_eq_none_iff] at active
        exact active
    simp only [State.checkAndIssue, nobody]
  | some a =>
    obtain ⟨i, j⟩ := a
    cases order : j.order with
    | none =>
      obtain ⟨job, hj⟩ := State.active_eq_some.1 active
      simp only [State.checkAndIssue, job, Option.bind_some, hj, order]
    | some o =>
      have move := h i j o active order
      cases closed : s.guardPasses o.target with
      | false =>
        rw [State.checkAndIssue_of_guarded active order closed]
        rfl
      | true =>
        rw [State.checkAndIssue_of_clear active order closed (by rintro ⟨rfl, -⟩; cases move)
          (by rintro ⟨b, rfl, -⟩; cases move)]
        exact s.issueStep_events j o

theorem State.startJob_events (i : Slot) : (s.startJob i).events = s.events := by
  refine (State.checkAndIssue_events_of_move _ fun i' j o active order => ?_).trans rfl
  obtain ⟨job, hj⟩ := State.active_eq_some.1 active
  have same : i' = i := (Option.some.inj job).symm
  subst same
  change ((s.updateJob i' _).job i') = some j at hj
  rw [State.updateJob, State.setSlot_job_self, Option.map_eq_some_iff] at hj
  obtain ⟨j', -, rfl⟩ := hj
  exact Job.order_of_one rfl order

theorem State.dispatch_events : s.dispatch.events = s.events := by
  unfold State.dispatch
  split
  · split
    · exact State.startJob_events _ _
    · split
      · exact s.startJob_events _
      · rfl
  · rfl

theorem posts_request_dispatch (noStock : K .noStock) (n : Lathe) (k : JobKind) :
    Posts K s (s.request n k).dispatch :=
  (posts_request s noStock n k).trans (posts_of_events (State.dispatch_events _))

theorem posts_wantBar (noStock : K .noStock) (n : Lathe) : Posts K s (s.wantBar n) := by
  unfold State.wantBar
  split
  · exact posts_of_events rfl
  · split
    · exact .refl s
    · exact posts_request_dispatch s noStock n .deliver

theorem posts_fireIf (noStock : K .noStock) (n : Lathe) (fired : Bool) : Posts K s (s.fireIf n fired) := by
  unfold State.fireIf State.deliverOnFire
  split
  · split
    · exact .refl s
    · exact posts_request_dispatch s noStock n .deliver
  · exact .refl s

theorem State.rewriteDeliver_events (n : Lathe) : (s.rewriteDeliver n).events = s.events := by
  unfold State.rewriteDeliver
  split <;> rfl

theorem State.rewriteCollect_events (n : Lathe) : (s.rewriteCollect n).events = s.events := by
  unfold State.rewriteCollect
  split <;> rfl

theorem State.writeCompare_events (n : Lathe) : (s.writeCompare n).1.events = s.events := by
  unfold State.writeCompare State.settleCompare
  dsimp only
  split
  · rfl
  · split <;> rfl

theorem State.recompute_events (n : Lathe) : (s.recompute n).1.events = s.events :=
  (State.rewriteCollect_events _ n).trans ((State.rewriteDeliver_events _ n).trans (State.writeCompare_events _ n))

theorem posts_recomputeAndFire (noStock : K .noStock) (n : Lathe) : Posts K s (s.recomputeAndFire n) :=
  (posts_of_events (s.recompute_events n)).trans (posts_fireIf _ noStock n _)

end Sched

/-! ### RESUME (R18) -/

section Resume
variable {s w first : State} {n : Lathe}

/-- What every accepted RESUME of lathe `n` keeps and posts. -/
structure Resumed (n : Lathe) (s t : State) : Prop where
  accounts : ∀ k, k ≠ n → t.account k = s.account k
  resume : (t.account n).resume = (s.account n).resume
  tray : (t.account n).tray = (s.account n).tray
  current : (t.account n).current = (s.account n).current
  loadFault : (t.account n).loadFault = (s.account n).loadFault
  holdSet : (t.account n).holdSet = (t.account n).reasons
  bars : ∀ k, (t.lane k).bars = (s.lane k).bars
  kept : Kept s t
  compares : ∀ k, k ≠ n → t.compareOf k = s.compareOf k
  events : s.events.records.length < 64 → ∃ more, t.events.records = s.events.records ++
    (⟨.latheState, s.now, some n, none, none, none,
      BitVec.ofNat 32 ((t.account n).state.code + 256 * (s.account n).resume.code +
        65536 * (s.account n).state.code)⟩ :: more) ∧ ∀ e ∈ more, e.kind = .noStock

/-- The account's new state is told first, in `first`; what follows up to the evaluation of the hold reason set posts no
event but NO_STOCK. -/
theorem Resumed.of_told (beside : Beside n s first) (after : SchedReach first w ∨ ∃ v, Beside n first v ∧ SchedReach v w)
    (same : (w.account n).resume = (s.account n).resume ∧ (w.account n).tray = (s.account n).tray ∧
      (w.account n).current = (s.account n).current ∧ (w.account n).loadFault = (s.account n).loadFault)
    (told : s.events.records.length < 64 → first.events.records = s.events.records ++
      [⟨.latheState, s.now, some n, none, none, none,
        latheStateValue (w.account n).state (s.account n).resume (s.account n).state⟩])
    (posts : Posts (· = .noStock) first w) : Resumed n s (w.evalHold n) := by
  obtain ⟨v, beside, keeps⟩ : ∃ v, Beside n s v ∧ SchedKeeps v w := by
    rcases after with h | ⟨v, h, k⟩
    · exact ⟨first, beside, h.keeps⟩
    · exact ⟨v, beside.trans h, k.keeps⟩
  obtain ⟨resume, tray, current, loadFault⟩ := same
  have own := w.evalHold_account_self n
  constructor
  case accounts =>
    intro k other
    rw [State.evalHold_account_ne _ _ _ (Ne.symm other), keeps.account, beside.accounts k other]
  case resume => rw [own]; exact resume
  case tray => rw [own]; exact tray
  case current => rw [own]; exact current
  case loadFault => rw [own]; exact loadFault
  case holdSet => rw [own]; rfl
  case bars =>
    intro k
    rw [State.evalHold_lane, keeps.bars, beside.lane]
  case kept => exact (beside.kept.trans keeps.kept).trans (kept_evalHold _ n)
  case compares =>
    intro k other
    rw [State.evalHold_compareOf, keeps.compares, beside.compares k other]
  case events =>
    intro room
    obtain ⟨more, grown, kinds⟩ := posts
    refine ⟨more, ?_, kinds⟩
    rw [State.evalHold_events, grown, told room, own, List.append_assoc]
    rfl

theorem State.handleResume_of_fault (lost : (s.account n).state = .lost) (fault : (s.account n).loadFault = true) :
    s.handleResume n = (((s.ack (lathePort n) 0x25).goTo n .stopped).settleCompare n).evalHold n := by
  unfold State.handleResume
  simp only [lost, fault, if_true]

theorem State.handleResume_of_clear
    (state : (s.account n).state = .lost ∨ ((s.account n).state = .stopped ∧ (s.account n).loadFault = false))
    (clear : (s.account n).loadFault = false) :
    s.handleResume n = ((s.ack (lathePort n) 0x25).toResume n).evalHold n := by
  unfold State.handleResume
  rcases state with lost | ⟨stopped, -⟩
  · simp only [lost, clear, Bool.false_eq_true, if_false]
  · simp only [stopped, clear, Bool.false_eq_true, if_false]

end Resume

/-! ### A recomputation that fires (R42, R46) -/

section Fires
variable {s : State} {n : Lathe}

theorem State.deliverOnFire_of_busy (lacks : s.hasJob n .deliver = false) (stock : (s.account n).stockShort = false)
    (busy : s.shuttleFree = false) : s.deliverOnFire n = s.request n .deliver := by
  rw [State.deliverOnFire_of_none lacks stock, State.request_dispatch_of_busy busy]

/-- Without jobs of the lathe a recomputation is its predictions and its compare (R47, R48). -/
theorem State.recompute_of_none (lacks : s.findJob n .deliver = none) (lacks' : s.findJob n .collect = none) :
    s.recompute n = (s.predicts n).writeCompare n := by
  let x := ((s.predicts n).writeCompare n).1
  have beside : Beside n s x := (beside_setAccount n s _).trans (beside_writeCompare n _)
  have deliver : x.findJob n .deliver = none := (beside.findJob n _).trans lacks
  have collect : x.findJob n .collect = none := (beside.findJob n _).trans lacks'
  have stays : (x.rewriteDeliver n).rewriteCollect n = x := by
    simp only [State.rewriteDeliver, deliver, State.rewriteCollect, collect]
  exact Prod.ext stays rfl

theorem State.recomputeAndFire_of_fired {g : Program} {c : CurrentBar} {cyc : Nat}
    (program : (s.account n).program = some g) (current : (s.account n).current = some c)
    (cycle : (s.account n).cycle = some cyc) (wants : (s.account n).wantsCompare = true)
    (lacks : s.findJob n .deliver = none) (lacks' : s.findJob n .collect = none)
    (reached : atOrBefore (predict ((s.account n).tLast.read s.now) (g.partsLeft c.remaining) cyc -
      BitVec.ofNat 32 s.params.lookahead) s.now = true) :
    s.recomputeAndFire n = ((s.predicts n).writeCompare n).1.deliverOnFire n := by
  have wants' : ((s.predicts n).account n).wantsCompare = true := by
    rw [s.predicts_account]
    exact wants
  have out : ((s.predicts n).account n).outAt (s.predicts n).now =
      some (predict ((s.account n).tLast.read s.now) (g.partsLeft c.remaining) cyc) := by
    rw [s.predicts_account]
    exact Account.predicted_outAt program current cycle
  have fired : ((s.predicts n).writeCompare n).2 = true := by
    rw [State.writeCompare_of_wanted wants' out]
    exact reached
  rw [State.recomputeAndFire, State.recompute_of_none lacks lacks', fired]
  rfl

end Fires

/-- A DELIVER job of a lathe with a current bar is due at T_out (R47). -/
theorem Account.deliverDeadline_of_out {a : Account} {now t : Time} {c : CurrentBar} (current : a.current = some c)
    (out : a.outAt now = some t) : a.deliverDeadline now = t := by
  simp only [Account.deliverDeadline, current, out]

/-- Parts left as an account's fields give it (R31). -/
def Account.partsNow (a : Account) : Option Nat := (a.predicted 0).partsLeft

theorem Account.partsNow_eq {a : Account} {g : Program} (program : a.program = some g) :
    a.partsNow = a.current.map fun c =>
      if g.remnant ≤ c.remaining then (c.remaining - g.remnant) / (g.part + g.kerf) else 0 := by
  unfold Account.partsNow Account.predicted
  simp only [program]
  cases a.current <;> rfl

/-- Account `n` has gone to the state `new` by way of `first`, its LATHE_STATE told (R24). -/
structure Gone (n : Lathe) (new : AcctState) (s first : State) : Prop where
  beside : Beside n s first
  compare : first.compareOf n = s.compareOf n
  told : s.events.records.length < 64 → first.events.records = s.events.records ++
    [⟨.latheState, s.now, some n, none, none, none, latheStateValue new (s.account n).resume (s.account n).state⟩]

section Gone
variable {s : State} {n : Lathe} {new : AcctState}

theorem gone_goTo (other : (s.account n).state ≠ new) : Gone n new s (s.goTo n new) :=
  ⟨beside_goTo n s new, State.goTo_compareOf _ _ _ _, State.goTo_records s n new other⟩

theorem gone_arrived (other : (s.account n).state ≠ new) : Gone n new s ((s.arrived n).goTo n new) :=
  ⟨(beside_setAccount n s _).trans (beside_goTo n _ new), State.goTo_compareOf _ _ _ _,
    State.goTo_arrived_records other⟩

/-- The ACK of the RESUME comes first. -/
theorem Gone.of_ack {first : State} {p : PortNo} {kind : Byte} (h : Gone n new (s.ack p kind) first) :
    Gone n new s first :=
  ⟨(beside_ack n s p kind).trans h.beside, h.compare, h.told⟩

theorem State.toResume_idle (resume : (s.account n).resume = .idle) (other : (s.account n).state ≠ .idle) :
    Gone n .idle s (s.toResume n) ∧ (s.toResume n).account n = { s.account n with state := .idle } := by
  have goes : s.toResume n = s.goTo n .idle := by rw [State.toResume, resume]
  rw [goes]
  exact ⟨gone_goTo other, State.goTo_account_self _ _ _⟩

theorem State.toResume_running (resume : (s.account n).resume = .running) (other : (s.account n).state ≠ .running) :
    ∃ v, s.toResume n = v.recomputeAndFire n ∧ Gone n .running s v ∧
      v.account n = { s.account n with state := .running } :=
  ⟨s.goTo n .running, by rw [State.toResume, resume], gone_goTo other, State.goTo_account_self _ _ _⟩

theorem State.toResume_empty (resume : (s.account n).resume = .await) (other : (s.account n).state ≠ .await)
    (cradle : (s.account n).cradle = none) :
    ∃ v, s.toResume n = v.wantBar n ∧ Gone n .await s v ∧
      v.account n = { s.account n with state := .await, awaitEntry := ⟨s.now, 0⟩ } :=
  ⟨(s.arrived n).goTo n .await, by rw [State.toResume, resume, ← State.enterAwait_of_empty cradle], gone_arrived other,
    by rw [State.goTo_account_self, s.arrived_account]; rfl⟩

theorem State.toResume_held {c : CradleBar} (resume : (s.account n).resume = .await)
    (other : (s.account n).state ≠ .await) (cradle : (s.account n).cradle = some c) (ret : s.hasJob n .ret = true) :
    Gone n .await s (s.toResume n) ∧
      (s.toResume n).account n = { s.account n with state := .await, awaitEntry := ⟨s.now, 0⟩ } := by
  have goes : s.toResume n = (s.arrived n).goTo n .await := by
    rw [State.toResume, resume, ← State.enterAwait_of_held cradle ret]
  rw [goes]
  exact ⟨gone_arrived other, by rw [State.goTo_account_self, s.arrived_account]; rfl⟩

theorem State.toResume_loading {c : CradleBar} (resume : (s.account n).resume = .await)
    (other : (s.account n).state ≠ .loading) (cradle : (s.account n).cradle = some c) (ret : s.hasJob n .ret = false) :
    ∃ v, Gone n .loading s v ∧ Beside n v (s.toResume n) ∧ (s.toResume n).events = v.events ∧
      (s.toResume n).compareOf n = v.compareOf n ∧
      (s.toResume n).account n =
        { s.account n with
          state := .loading
          awaitEntry := ⟨s.now, 0⟩
          cradle := some { c with loading := true }
          loadTimer := .running s.params.loadLimit } := by
  have goes : s.toResume n = (((s.arrived n).goTo n .loading).loadingGone n c).notice n (loadGoMsg c.bar) := by
    rw [State.toResume, resume, ← State.enterAwait_of_free cradle ret]
  refine ⟨(s.arrived n).goTo n .loading, gone_arrived other, ?_, ?_, ?_, ?_⟩
  · rw [goes]
    exact (beside_setAccount n _ _).trans (beside_notice n n _ _)
  · rw [goes]
    rfl
  · rw [goes]
    rfl
  · rw [goes, State.notice_account, State.loadingGone, State.setAccount_account_self, State.goTo_account_self,
      s.arrived_account, State.goTo_params]
    rfl

end Gone

/-- What an accepted RESUME has done before the evaluation of the hold reason set. -/
theorem exec_resume_of_clear {s : State} {n : Lathe} (free : (s.port (lathePort n)).replyPending = false)
    (state : (s.account n).state = .lost ∨ ((s.account n).state = .stopped ∧ (s.account n).loadFault = false))
    (clear : (s.account n).loadFault = false) :
    exec (.resume n) s = .next (((s.ack (lathePort n) 0x25).toResume n).evalHold n) := by
  rw [exec_resume free, State.handleResume_of_clear state clear]

/-- The job that a recomputation makes when its compare fires (R46, R93). -/
theorem State.recomputeAndFire_made {s : State} {n : Lathe} {i : Slot} {g : Program} {c : CurrentBar} {cyc : Nat}
    (program : (s.account n).program = some g) (current : (s.account n).current = some c)
    (cycle : (s.account n).cycle = some cyc) (wants : (s.account n).wantsCompare = true)
    (lacks : s.findJob n .deliver = none) (lacks' : s.findJob n .collect = none)
    (stock : (s.account n).stockShort = false) (slot : s.emptySlot = some i) (deferred : s.sched.deferred = [])
    (busy : s.shuttleFree = false) :
    let due := predict ((s.account n).tLast.read s.now) (g.partsLeft c.remaining) cyc
    atOrBefore (due - BitVec.ofNat 32 s.params.lookahead) s.now = true →
      (s.recomputeAndFire n).job i = some
          { madeJob s.nextJobId .deliver n s.now due with
            lane := s.claimLane g, claim := (s.claimLane g).isSome
            block := if s.claimLane g = none then .noStock else .none } ∧
        (∀ i', i' ≠ i → (s.recomputeAndFire n).job i' = s.job i') ∧
        ∀ k, (s.recomputeAndFire n).lane k =
          if s.claimLane g = some k then { s.lane k with claimed := (s.lane k).claimed + 1 } else s.lane k := by
  intro due reached
  have own : (((s.predicts n).writeCompare n).1).account n = (s.account n).predicted s.now := by
    rw [State.account, State.writeCompare_accounts]
    exact s.predicts_account n
  have beside : Beside n s ((s.predicts n).writeCompare n).1 :=
    (beside_setAccount n s _).trans (beside_writeCompare n _)
  have fires := State.recomputeAndFire_of_fired program current cycle wants lacks lacks' reached
  generalize ((s.predicts n).writeCompare n).1 = x at own beside fires
  have lacks' := State.hasJob_of_findJob ((beside.findJob n _).trans lacks)
  rw [fires, State.deliverOnFire_of_busy lacks' (by rw [own]; exact stock) (beside.shuttleFree.trans busy)]
  obtain ⟨job, others, -, lanes⟩ := State.request_deliver_made (by rw [own]; exact program) lacks'
    (beside.emptySlot.trans slot) (by rw [beside.sched]; exact deferred)
  have at_ : (x.account n).deliverDeadline x.now = due := by
    rw [own, beside.now]
    exact Account.deliverDeadline_of_out current (Account.predicted_outAt program current cycle)
  refine ⟨?_, fun i' other => (others i' other).trans (beside.job i'), fun k => ?_⟩
  · rw [job, State.madeDeliver, at_, beside.nextJobId, beside.now, beside.claimLane]
  · rw [lanes, beside.claimLane, beside.lane]

/-- Settles O31: the state told, then by the resume state the predictions, the cradle or nothing. -/
theorem resumeReturnsLathe : Obligations.ResumeReturnsLathe := by
  intro n s g a free program how
  have away {new : AcctState} (h : new ≠ .lost) (k : new ≠ .stopped) : a.state ≠ new := by
    intro e
    rcases how with lost | ⟨stopped, -⟩
    · exact h (e.symm.trans lost)
    · exact k (e.symm.trans stopped)
  by_cases fault : a.loadFault = true
  · have lost : a.state = .lost := how.elim id fun h => by rw [fault] at h; cases h.2
    obtain ⟨u, run, gone, after, same, events, compare⟩ : ∃ u : State,
        exec (.resume n) s = .next ((u.settleCompare n).evalHold n) ∧ Gone n .stopped s u ∧
          Beside n u (u.settleCompare n) ∧ (u.settleCompare n).account n = { a with state := .stopped } ∧
          (u.settleCompare n).events = u.events ∧ (u.settleCompare n).compareOf n = (s.compareOf n).disarm := by
      have gone : Gone n .stopped s ((s.ack (lathePort n) 0x25).goTo n .stopped) :=
        Gone.of_ack (gone_goTo fun e => absurd (lost.symm.trans e) (by decide))
      have account : ((s.ack (lathePort n) 0x25).goTo n .stopped).account n = { a with state := .stopped } :=
        State.goTo_account_self _ _ _
      refine ⟨_, by rw [exec_resume free, State.handleResume_of_fault lost fault], gone, beside_settleCompare n _, ?_⟩
      rw [State.settleCompare_of_unwanted (by rw [account]; rfl)]
      refine ⟨by rw [State.setCompare_account, account], rfl, ?_⟩
      rw [State.setCompare_compareOf_self, gone.compare]
    obtain ⟨accounts, resume, tray, current, loadFault, holdSet, bars, kept, compares, told⟩ :=
      Resumed.of_told gone.beside (.inr ⟨_, after, .refl⟩) (by rw [same]; exact ⟨rfl, rfl, rfl, rfl⟩)
        (by rw [same]; exact gone.told) (posts_of_events events)
    refine ⟨_, run, accounts, resume, tray, current, loadFault, holdSet, bars, kept, compares, told,
      fun _ => ⟨?_, ?_, ?_⟩, fun clear => ?_, fun clear => ?_, fun clear => ?_⟩
    · rw [State.evalHold_account_self, same]
    · rw [State.evalHold_sched, after.sched, gone.beside.sched]
    · rw [State.evalHold_compareOf, compare]
      rfl
    · exact absurd (fault.symm.trans clear) (by decide)
    · exact absurd (fault.symm.trans clear) (by decide)
    · exact absurd (fault.symm.trans clear) (by decide)
  have clear : a.loadFault = false := by simpa using fault
  obtain ⟨u, ack, run⟩ : ∃ u, u = s.ack (lathePort n) 0x25 ∧ exec (.resume n) s = .next ((u.toResume n).evalHold n) :=
    ⟨_, rfl, exec_resume_of_clear free how clear⟩
  have own : u.account n = a := by rw [ack]; rfl
  have of_ack {new : AcctState} {first : State} (h : Gone n new u first) : Gone n new s first :=
    Gone.of_ack (ack ▸ h)
  have beside : Beside n s u := ack ▸ beside_ack n s _ _
  have cases : a.resume = .idle ∨ a.resume = .running ∨ a.resume = .await := by cases a.resume <;> simp
  clear ack
  rcases cases with idle | running | await
  · obtain ⟨gone, same⟩ := State.toResume_idle (by rw [own]; exact idle) (by rw [own]; exact away (by decide) (by decide))
    have gone := of_ack gone
    rw [own] at same
    obtain ⟨accounts, resume, tray, current, loadFault, holdSet, bars, kept, compares, told⟩ :=
      Resumed.of_told gone.beside (.inl .refl) (by rw [same]; exact ⟨rfl, rfl, rfl, rfl⟩) (by rw [same]; exact gone.told)
        (.refl _)
    refine ⟨_, run, accounts, resume, tray, current, loadFault, holdSet, bars, kept, compares, told,
      fun h => absurd h fault, fun _ _ => ⟨?_, ?_, ?_⟩, fun _ h => ?_, fun _ h => ?_⟩
    · rw [State.evalHold_account_self, same]
    · rw [State.evalHold_sched, gone.beside.sched]
    · rw [State.evalHold_compareOf, gone.compare]
    · exact absurd (idle.symm.trans h) (by decide)
    · exact absurd (idle.symm.trans h) (by decide)
  · obtain ⟨v, goes, gone, account⟩ :=
      State.toResume_running (by rw [own]; exact running) (by rw [own]; exact away (by decide) (by decide))
    have gone := of_ack gone
    have besides := gone.beside
    rw [goes] at run
    rw [own] at account
    have same : (v.recomputeAndFire n).account n = ({ a with state := .running } : Account).predicted s.now := by
      rw [State.recomputeAndFire_account, account, besides.now]
    obtain ⟨accounts, resume, tray, current, loadFault, holdSet, bars, kept, compares, told⟩ :=
      Resumed.of_told besides
        (.inr ⟨_, (beside_setAccount n v _).trans (beside_writeCompare n _), sched_recomputeAndFire v n⟩)
        (by rw [same]; exact ⟨rfl, rfl, rfl, rfl⟩) (by rw [same]; exact gone.told)
        (posts_recomputeAndFire (K := (· = .noStock)) v rfl n)
    refine ⟨_, run, accounts, resume, tray, current, loadFault, holdSet, bars, kept, compares, told,
      fun h => absurd h fault, fun _ h => ?_, fun _ _ => ⟨?_, ?_, fun c cyc present cycle empty => ?_⟩, fun _ h => ?_⟩
    · exact absurd (running.symm.trans h) (by decide)
    · rw [State.evalHold_account_self, same]
      rfl
    · rw [State.evalHold_account_self, same]
      exact Account.partsNow_eq (a := { a with state := .running }) program
    · have program' : (v.account n).program = some g := by rw [account]; exact program
      have present' : (v.account n).current = some c := by rw [account]; exact present
      have cycle' : (v.account n).cycle = some cyc := by rw [account]; exact cycle
      have wants : (v.account n).wantsCompare = true := by
        rw [account]
        simp [Account.wantsCompare, present, empty]
      have armed := State.recomputeAndFire_armed program' present' cycle' wants
      rw [account, besides.now, besides.kept.params] at armed
      intro left value
      refine ⟨by rw [State.evalHold_compareOf]; exact armed, fun i reached lacks stock lacks' slot deferred busy => ?_⟩
      have makes := State.recomputeAndFire_made program' present' cycle' wants ((besides.findJob n _).trans lacks)
        ((besides.findJob n _).trans lacks') (by rw [account]; exact stock) (besides.emptySlot.trans slot)
        (by rw [besides.sched]; exact deferred) (besides.shuttleFree.trans busy)
        (by rw [account, besides.now, besides.kept.params]; exact reached)
      rw [account, besides.now, besides.nextJobId, besides.claimLane] at makes
      obtain ⟨job, others, lanes⟩ := makes
      have due : value + BitVec.ofNat 32 s.params.lookahead = predict (a.tLast.read s.now) (g.partsLeft c.remaining) cyc :=
        BitVec.sub_add_cancel _ _
      refine ⟨?_, fun i' other => ?_, fun k => ?_⟩
      · rw [State.evalHold_job, job, due]
      · rw [State.evalHold_job, others i' other, besides.job]
      · rw [State.evalHold_lane, lanes, besides.lane]
    · exact absurd (running.symm.trans h) (by decide)
  have awaits : (u.account n).resume = .await := by rw [own]; exact await
  have arrives {new : AcctState} (h : new ≠ .lost) (k : new ≠ .stopped) : (u.account n).state ≠ new := by
    rw [own]
    exact away h k
  obtain empty | ⟨c, cradle⟩ : a.cradle = none ∨ ∃ c, a.cradle = some c := by cases a.cradle <;> simp
  · obtain ⟨v, goes, gone, account⟩ := State.toResume_empty awaits (arrives (by decide) (by decide)) (by rw [own]; exact empty)
    have gone := of_ack gone
    have besides := gone.beside
    rw [goes] at run
    rw [own, beside.now] at account
    have keeps := SchedReach.keeps (sched_wantBar v n)
    have same := (keeps.account n).trans account
    obtain ⟨accounts, resume, tray, current, loadFault, holdSet, bars, kept, compares, told⟩ :=
      Resumed.of_told besides (.inl (sched_wantBar v n)) (by rw [same]; exact ⟨rfl, rfl, rfl, rfl⟩)
        (by rw [same]; exact gone.told) (posts_wantBar (K := (· = .noStock)) v rfl n)
    refine ⟨_, run, accounts, resume, tray, current, loadFault, holdSet, bars, kept, compares, told,
      fun h => absurd h fault, fun _ h => ?_, fun _ h => ?_, fun _ _ => ⟨?_, ?_, fun _ => ⟨?_, fun i has => ?_,
        fun lacks short => ?_, fun lacks stock busy => ⟨fun i absent slot deferred => ?_, fun full new => ?_⟩⟩,
        fun c h => ?_, fun c h => ?_⟩⟩
    · exact absurd (await.symm.trans h) (by decide)
    · exact absurd (await.symm.trans h) (by decide)
    · rw [State.evalHold_account_self, same]
    · rw [State.evalHold_compareOf, keeps.compares, gone.compare]
    · rw [State.evalHold_account_self, same]
    · rw [State.evalHold_sched, State.wantBar_of_has ((besides.findJob n _).trans has), State.setDeadline_sched,
        besides.sched, besides.job, account, besides.now]
      rfl
    · rw [State.evalHold_sched, State.wantBar_of_short ((besides.findJob n _).trans lacks) (by rw [account]; exact short),
        besides.sched]
    · have lacks' := (besides.findJob n .deliver).trans lacks
      have request := State.wantBar_of_busy lacks' (by rw [account]; exact stock) (besides.shuttleFree.trans busy)
      obtain ⟨job, others, -, lanes⟩ := State.request_deliver_made (s := v) (g := g) (by rw [account]; exact program)
        (State.hasJob_of_findJob lacks') (besides.emptySlot.trans slot) (by rw [besides.sched]; exact deferred)
      have due : (v.account n).deliverDeadline v.now = s.now := by
        rw [account, besides.now]
        exact Account.deliverDeadline_of_empty absent
      rw [State.madeDeliver, due, besides.nextJobId, besides.now, besides.claimLane] at job
      refine ⟨?_, fun i' other => ?_, fun k => ?_⟩
      · rw [State.evalHold_job, request, job]
      · rw [State.evalHold_job, request, others i' other, besides.job]
      · rw [State.evalHold_lane, request, lanes, besides.claimLane, besides.lane]
    · have lacks' := (besides.findJob n .deliver).trans lacks
      rw [State.evalHold_sched, State.wantBar_of_busy lacks' (by rw [account]; exact stock) (besides.shuttleFree.trans busy),
        State.request_of_full (State.hasJob_of_findJob lacks') (besides.emptySlot.trans full),
        State.defer_of_not_mem (by rw [besides.sched]; exact new), State.setSched_sched, besides.sched]
    · exact absurd (empty.symm.trans h) (by simp)
    · exact absurd (empty.symm.trans h) (by simp)
  · have cradle' : (u.account n).cradle = some c := by rw [own]; exact cradle
    by_cases ret : s.hasJob n .ret = true
    · obtain ⟨gone, same⟩ := State.toResume_held awaits (arrives (by decide) (by decide)) cradle'
        ((beside.hasJob n .ret).trans ret)
      have gone := of_ack gone
      rw [own, beside.now] at same
      obtain ⟨accounts, resume, tray, current, loadFault, holdSet, bars, kept, compares, told⟩ :=
        Resumed.of_told gone.beside (.inl .refl) (by rw [same]; exact ⟨rfl, rfl, rfl, rfl⟩)
          (by rw [same]; exact gone.told) (.refl _)
      refine ⟨_, run, accounts, resume, tray, current, loadFault, holdSet, bars, kept, compares, told,
        fun h => absurd h fault, fun _ h => ?_, fun _ h => ?_, fun _ _ => ⟨?_, ?_, fun h => ?_, fun _ _ _ => ⟨?_, ?_⟩,
          fun _ _ h => absurd (ret.symm.trans h) (by decide)⟩⟩
      · exact absurd (await.symm.trans h) (by decide)
      · exact absurd (await.symm.trans h) (by decide)
      · rw [State.evalHold_account_self, same]
      · rw [State.evalHold_compareOf, gone.compare]
      · exact absurd (cradle.symm.trans h) (by simp)
      · rw [State.evalHold_account_self, same]
      · rw [State.evalHold_sched, gone.beside.sched]
    · obtain ⟨v, gone, after, events, compare, same⟩ := State.toResume_loading awaits (arrives (by decide) (by decide))
        cradle' ((beside.hasJob n .ret).trans (Bool.not_eq_true _ ▸ ret))
      have gone := of_ack gone
      rw [own, beside.now, beside.kept.params] at same
      obtain ⟨accounts, resume, tray, current, loadFault, holdSet, bars, kept, compares, told⟩ :=
        Resumed.of_told gone.beside (.inr ⟨_, after, .refl⟩) (by rw [same]; exact ⟨rfl, rfl, rfl, rfl⟩)
          (by rw [same]; exact gone.told) (posts_of_events events)
      refine ⟨_, run, accounts, resume, tray, current, loadFault, holdSet, bars, kept, compares, told,
        fun h => absurd h fault, fun _ h => ?_, fun _ h => ?_, fun _ _ => ⟨?_, ?_, fun h => ?_,
          fun _ _ h => absurd h ret, fun c' h _ => ⟨?_, ?_, ?_⟩⟩⟩
      · exact absurd (await.symm.trans h) (by decide)
      · exact absurd (await.symm.trans h) (by decide)
      · rw [State.evalHold_account_self, same]
      · rw [State.evalHold_compareOf, compare, gone.compare]
      · exact absurd (cradle.symm.trans h) (by simp)
      · rw [State.evalHold_account_self, same]
      · rw [State.evalHold_account_self, same, ← Option.some.inj (cradle.symm.trans h)]
      · rw [State.evalHold_account_self, same]

end Sys2Proof.Machine

/-! PROOFS. Cuts (R30 to R49, R55 to R57): the counted account, the deadlines its predictions rewrite, and the
collection that a tray asks for. -/
namespace Sys2Proof.Machine

open Sys2Proof

/-! ### Deadlines and requests leave the other jobs (R47, R48, R93) -/

section Jobs
variable {s : State} {n : Lathe} {i : Slot} {j : Job}

theorem State.setDeadline_job_self {t : Time} (hj : s.job i = some j) :
    (s.setDeadline i t).job i = some { j with deadline := t } := by
  rw [State.setDeadline, State.updateJob, State.setSlot_job_self, hj]
  rfl

theorem State.setDeadline_job_ne {t : Time} {k : Slot} (h : k ≠ i) : (s.setDeadline k t).job i = s.job i :=
  State.setSlot_job_ne _ _ _ _ h

theorem State.setDeadline_findJob (k : Slot) (t : Time) (m : Lathe) (kind : JobKind) :
    (s.setDeadline k t).findJob m kind = s.findJob m kind := by
  have same (i : Slot) : (s.setDeadline k t).isJobOf m kind i = s.isJobOf m kind i := by
    unfold State.isJobOf
    by_cases e : k = i
    · subst e
      cases hj : s.job k with
      | none =>
        rw [State.setDeadline, State.updateJob, State.setSlot_job_self, hj]
        rfl
      | some j => rw [State.setDeadline_job_self hj]
    · rw [State.setDeadline_job_ne e]
  unfold State.findJob
  congr 1
  funext i
  exact same i

theorem State.emptySlot_spec (h : s.emptySlot = some i) : s.job i = none := by
  have found := List.find?_some h
  exact Option.isNone_iff_eq_none.1 found

theorem State.takeClaim_job_ne {k : Slot} (l : LaneNo) (h : k ≠ i) : (s.takeClaim k l).job i = s.job i :=
  State.setSlot_job_ne _ _ _ _ h

theorem State.enterNoStock_job_ne {k : Slot} (h : k ≠ i) : (s.enterNoStock k).job i = s.job i := by
  unfold State.enterNoStock
  split
  · rfl
  · rw [State.post_job]
    exact State.setSlot_job_ne _ _ _ _ h

theorem State.evalBinBlock_job_ne {k : Slot} (h : k ≠ i) : (s.evalBinBlock k).job i = s.job i := by
  unfold State.evalBinBlock
  split
  · rfl
  · split
    · rfl
    · split
      · rfl
      · split
        · split
          · rfl
          · exact State.setSlot_job_ne _ _ _ _ h
        · split
          · rfl
          · exact Bank.read_write_ne _ _ _ _ h
        · rfl

theorem State.createIn_job_ne {k : Slot} (kind : JobKind) (h : k ≠ i) : (s.createIn k n kind).job i = s.job i := by
  unfold State.createIn
  dsimp only
  split
  · rfl
  · split
    · split
      · exact (State.takeClaim_job_ne _ h).trans (Bank.read_write_ne _ _ _ _ h)
      · exact (State.enterNoStock_job_ne h).trans (Bank.read_write_ne _ _ _ _ h)
    · exact (State.evalBinBlock_job_ne h).trans (Bank.read_write_ne _ _ _ _ h)
    · exact Bank.read_write_ne _ _ _ _ h

/-- A request fills an empty slot at most. -/
theorem State.request_job_of_some (kind : JobKind) (hj : s.job i = some j) : (s.request n kind).job i = some j := by
  have deferred : (s.defer n kind).job i = some j := by
    unfold State.defer
    split <;> exact hj
  unfold State.request
  split
  · exact hj
  · split
    · exact deferred
    · next k slot =>
      split
      · have other : k ≠ i := fun e => by
          rw [e] at slot
          exact absurd (hj.symm.trans (State.emptySlot_spec slot)) (by simp)
        rw [State.createIn_job_ne kind other, hj]
      · exact deferred

theorem State.fireIf_job_of_some {fired : Bool} (busy : s.shuttleFree = false) (hj : s.job i = some j) :
    (s.fireIf n fired).job i = some j := by
  unfold State.fireIf State.deliverOnFire
  split
  · split
    · exact hj
    · rw [State.request_dispatch_of_busy busy]
      exact State.request_job_of_some _ hj
  · exact hj

theorem State.checkThreshold_job_of_some (busy : s.shuttleFree = false) (hj : s.job i = some j) :
    (s.checkThreshold n).job i = some j := by
  unfold State.checkThreshold
  split
  · split
    · rw [State.request_dispatch_of_busy busy]
      exact State.request_job_of_some _ hj
    · exact hj
  · exact hj

theorem State.rewriteDeliver_of_has {c : CurrentBar} {t : Time} (has : s.findJob n .deliver = some i)
    (current : (s.account n).current = some c) (out : (s.account n).tOut = some t) :
    s.rewriteDeliver n = s.setDeadline i t := by
  simp only [State.rewriteDeliver, has, current, out]

theorem State.rewriteCollect_of_has {t : Time} (has : s.findJob n .collect = some i)
    (full : (s.account n).tFull = some t) : s.rewriteCollect n = s.setDeadline i t := by
  simp only [State.rewriteCollect, has, full]

theorem State.rewriteDeliver_findJob (m : Lathe) (kind : JobKind) :
    (s.rewriteDeliver n).findJob m kind = s.findJob m kind := by
  unfold State.rewriteDeliver
  split
  · exact State.setDeadline_findJob _ _ _ _
  · rfl

theorem State.rewriteDeliver_job_ne (h : s.findJob n .deliver ≠ some i) : (s.rewriteDeliver n).job i = s.job i := by
  unfold State.rewriteDeliver
  split
  · next k c t found current out =>
    exact State.setDeadline_job_ne fun e => h (e ▸ found)
  · rfl

theorem State.rewriteCollect_job_ne (h : s.findJob n .collect ≠ some i) : (s.rewriteCollect n).job i = s.job i := by
  unfold State.rewriteCollect
  split
  · next k t found out => exact State.setDeadline_job_ne fun e => h (e ▸ found)
  · rfl

theorem State.findJob_ne_of_kind {k k' : JobKind} (h : s.findJob n k = some i) (other : k ≠ k') :
    s.findJob n k' ≠ some i := by
  intro h'
  obtain ⟨j, hj, -, kind⟩ := State.findJob_spec h
  obtain ⟨j', hj', -, kind'⟩ := State.findJob_spec h'
  rw [hj] at hj'
  cases hj'
  exact other (kind.symm.trans kind')

theorem State.findJob_ne_of_lathe {k : JobKind} (hj : s.job i = some j) (other : j.lathe ≠ n) :
    s.findJob n k ≠ some i := by
  intro h
  obtain ⟨j', hj', lathe, -⟩ := State.findJob_spec h
  rw [hj] at hj'
  cases hj'
  exact other lathe

end Jobs

/-! ### The deadlines after a recomputation (R42, R47, R48) -/

section Recompute
variable {s : State} {n : Lathe} {i : Slot} {j : Job}

/-- A recomputation before its deadlines: the account's predictions and its compare. -/
theorem State.recompute_state (s : State) (n : Lathe) :
    ∃ x, (s.recompute n).1 = (x.rewriteDeliver n).rewriteCollect n ∧ Beside n s x ∧
      x.account n = (s.account n).predicted s.now := by
  refine ⟨((s.predicts n).writeCompare n).1, rfl, (beside_setAccount n s _).trans (beside_writeCompare n _), ?_⟩
  rw [State.account, State.writeCompare_accounts]
  exact s.predicts_account n

theorem State.recompute_shuttleFree (s : State) (n : Lathe) : (s.recompute n).1.shuttleFree = s.shuttleFree := by
  obtain ⟨x, eq, beside, -⟩ := s.recompute_state n
  rw [eq, (PlanReach.keeps ((plan_rewriteDeliver x n).trans (plan_rewriteCollect _ n))).shuttleFree, beside.shuttleFree]

theorem State.recomputeAndFire_job {x : Job} (busy : s.shuttleFree = false) (hj : (s.recompute n).1.job i = some x) :
    (s.recomputeAndFire n).job i = some x :=
  State.fireIf_job_of_some ((s.recompute_shuttleFree n).trans busy) hj

theorem State.recompute_job_deliver {c : CurrentBar} {t : Time} (has : s.findJob n .deliver = some i)
    (hj : s.job i = some j) (current : (s.account n).current = some c)
    (out : ((s.account n).predicted s.now).tOut = some t) :
    (s.recompute n).1.job i = some { j with deadline := t } := by
  obtain ⟨x, eq, beside, account⟩ := s.recompute_state n
  have has' : x.findJob n .deliver = some i := (beside.findJob n _).trans has
  rw [eq, State.rewriteCollect_job_ne (by
      rw [State.rewriteDeliver_findJob]
      exact State.findJob_ne_of_kind has' (by decide)),
    State.rewriteDeliver_of_has has' (by rw [account]; exact current) (by rw [account]; exact out),
    State.setDeadline_job_self ((beside.job i).trans hj)]

theorem State.recompute_job_collect {t : Time} (has : s.findJob n .collect = some i) (hj : s.job i = some j)
    (full : ((s.account n).predicted s.now).tFull = some t) :
    (s.recompute n).1.job i = some { j with deadline := t } := by
  obtain ⟨x, eq, beside, account⟩ := s.recompute_state n
  have has' : x.findJob n .collect = some i := (beside.findJob n _).trans has
  have keeps := PlanReach.keeps (plan_rewriteDeliver x n)
  have hj' : (x.rewriteDeliver n).job i = some j := by
    rw [State.rewriteDeliver_job_ne (State.findJob_ne_of_kind has' (by decide)), beside.job, hj]
  rw [eq, State.rewriteCollect_of_has ((State.rewriteDeliver_findJob n _).trans has')
    (by rw [keeps.account, account]; exact full), State.setDeadline_job_self hj']

theorem State.recompute_job_other (hj : s.job i = some j) (other : j.lathe ≠ n) :
    (s.recompute n).1.job i = some j := by
  obtain ⟨x, eq, beside, -⟩ := s.recompute_state n
  have hj' := (beside.job i).trans hj
  have stays := (State.rewriteDeliver_job_ne (n := n) (State.findJob_ne_of_lathe hj' other)).trans hj'
  rw [eq, State.rewriteCollect_job_ne (State.findJob_ne_of_lathe stays other), stays]

end Recompute

/-! ### A cut accepted and counted (R40, R41, R56, R57) -/

section Cut
variable {s : State} {n : Lathe} {e : Edge} {g : Program}

/-- The part once an accepted edge has been seen and captured. -/
def State.cutSeen (s : State) (n : Lathe) (e : Edge) : State :=
  let seen := (s.seeCut n e).setLine n { s.line n with debounce := 0 }
  seen.setTimer { s.timer with capture := s.timer.capture.write n s.now }

theorem exec_cutEdge_of_accepted (program : (s.account n).program = some g) (edge : g.edge = e)
    (old : s.params.cutDebounce ≤ (s.line n).debounce) :
    exec (.cutEdge n e) s = .next ((s.cutSeen n e).takeCut n) := by
  have accepted : (g.edge = e && decide ((s.seeCut n e).params.cutDebounce ≤ ((s.seeCut n e).line n).debounce)) = true := by
    rw [decide_eq_true (show (s.seeCut n e).params.cutDebounce ≤ ((s.seeCut n e).line n).debounce from old)]
    simp [edge]
  have program' : ((s.seeCut n e).account n).program = some g := program
  change Host.Outcome.next _ = _
  rw [program']
  simp only
  rw [if_pos accepted]
  rfl

theorem exec_cutEdge_of_passed
    (h : ∀ g, (s.account n).program = some g → g.edge ≠ e ∨ (s.line n).debounce < s.params.cutDebounce) :
    exec (.cutEdge n e) s = .next (s.seeCut n e) := by
  change Host.Outcome.next _ = _
  cases program : (s.account n).program with
  | none =>
    rw [show ((s.seeCut n e).account n).program = none from program]
  | some g =>
    rw [show ((s.seeCut n e).account n).program = some g from program]
    simp only
    rw [if_neg]
    intro accepted
    simp only [Bool.and_eq_true, decide_eq_true_eq] at accepted
    rcases h g program with other | young
    · exact other accepted.1
    · exact absurd accepted.2 (Nat.not_le.2 young)

/-- The cut counted, its predictions not yet formed (R40). -/
structure CutCounted (n : Lathe) (s u : State) (a : Account) (events : List EventRec) : Prop where
  beside : Beside n s u
  account : u.account n = a
  compare : u.compareOf n = s.compareOf n
  line : u.line n = s.line n
  records : u.events.records = s.events.records ++ events
  taken : s.takeCut n = ((u.recomputeAndFire n).checkThreshold n).evalHold n

theorem State.cutToBar_eq (s : State) (n : Lathe) (g : Program) (c : CurrentBar) :
    s.cutToBar n g c =
      (if ((s.account n).partsLeft.getD 0) = 0 && !c.overrun then
        s.post (event .barOverrun (halves c.id (min (c.made + 1) Config.partsMadeMax)) (lathe := some n))
        else s).setAccount n ((s.account n).countCut g c s.now) := rfl

theorem State.cutToBar_counted {c : CurrentBar} (program : (s.account n).program = some g)
    (current : (s.account n).current = some c) (state : (s.account n).state.countsToBar = true)
    (room : s.events.records.length < 64) :
    ∃ u, CutCounted n s u ((s.account n).countCut g c s.now).countTray
      (if (s.account n).partsLeft.getD 0 = 0 ∧ c.overrun = false then
        [⟨.barOverrun, s.now, some n, none, none, none, halves c.id (min (c.made + 1) 1023)⟩] else []) := by
  have stays : ((((s.cutToBar n g c).setAccount n ((s.cutToBar n g c).account n).countTray).account n).state).countsToBar =
      true := by
    rw [State.setAccount_account_self, s.cutToBar_eq, State.setAccount_account_self]
    exact state
  refine ⟨(s.cutToBar n g c).setAccount n ((s.cutToBar n g c).account n).countTray, ?_, ?_, ?_, ?_, ?_, ?_⟩
  · refine Beside.trans ?_ (beside_setAccount n _ _)
    rw [s.cutToBar_eq]
    refine Beside.trans ?_ (beside_setAccount n _ _)
    split
    · exact beside_post n s _
    · exact .refl n s
  · rw [State.setAccount_account_self, s.cutToBar_eq, State.setAccount_account_self]
  · rw [State.setAccount_compareOf, s.cutToBar_eq, State.setAccount_compareOf]
    split
    · exact State.post_compareOf _ _ _
    · rfl
  · rw [State.setAccount_line, s.cutToBar_eq, State.setAccount_line]
    split
    · exact State.post_line _ _ _
    · rfl
  · rw [State.setAccount_events, s.cutToBar_eq, State.setAccount_events]
    by_cases first : (s.account n).partsLeft.getD 0 = 0 ∧ c.overrun = false
    · rw [if_pos (by simp [first.1, first.2]), if_pos first, State.post_records _ room]
      rfl
    · rw [if_neg (by simpa using first), if_neg first, List.append_nil]
  · unfold State.takeCut
    simp only [program, state, current, if_true]

end Cut

/-- What the acceptance of an edge has changed: the line's debounce age, the capture register and the pin. -/
structure CutSeen (n : Lathe) (s v : State) : Prop where
  accounts : v.accounts = s.accounts
  compare : ∀ m, v.compareOf m = s.compareOf m
  sched : v.sched = s.sched
  rack : v.rack = s.rack
  shuttle : v.shuttle = s.shuttle
  seq : v.seq = s.seq
  bins : v.bins = s.bins
  events : v.events = s.events
  now : v.now = s.now
  params : v.params = s.params
  captured : v.timer.capture.read n = s.now
  others : ∀ m, m ≠ n → v.timer.capture.read m = s.timer.capture.read m
  debounce : (v.line n).debounce = 0

theorem cutSeen (s : State) (n : Lathe) (e : Edge) : CutSeen n s (s.cutSeen n e) where
  accounts := rfl
  compare _ := rfl
  sched := rfl
  rack := rfl
  shuttle := rfl
  seq := rfl
  bins := rfl
  events := rfl
  now := rfl
  params := rfl
  captured := Bank.read_write_self _ _ _
  others _ other := Bank.read_write_ne _ _ _ _ (Ne.symm other)
  debounce := congrArg Line.debounce (Bank.read_write_self s.lines n { s.line n with debounce := 0 })

section Seen
variable {n : Lathe} {s v : State}

theorem CutSeen.account (h : CutSeen n s v) (m : Lathe) : v.account m = s.account m := by
  rw [State.account, h.accounts, State.account]
theorem CutSeen.job (h : CutSeen n s v) (i : Slot) : v.job i = s.job i := by rw [State.job, h.sched, State.job]
theorem CutSeen.findJob (h : CutSeen n s v) (m : Lathe) (k : JobKind) : v.findJob m k = s.findJob m k := by
  unfold State.findJob State.isJobOf
  simp only [h.job]
theorem CutSeen.shuttleFree (h : CutSeen n s v) : v.shuttleFree = s.shuttleFree :=
  State.shuttleFree_congr h.shuttle h.seq

end Seen

/-- An evaluation of the reasons leaves a line's debounce age. -/
theorem State.evalHold_debounce (s : State) (n m : Lathe) : ((s.evalHold n).line m).debounce = (s.line m).debounce := by
  by_cases e : n = m
  · subst e
    rw [State.evalHold_line_self]
    split
    · rfl
    · exact (Line.command_eq _ _).1
  · rw [State.evalHold_line_ne _ _ _ e]

/-- What follows a counted cut keeps what the account's own predictions have made (R42, R49). -/
structure CutTold (n : Lathe) (u t : State) : Prop where
  account : t.account n =
    { (u.account n).predicted u.now with holdSet := ((u.account n).predicted u.now).reasons }
  accounts : ∀ m, m ≠ n → t.account m = u.account m
  compares : ∀ m, t.compareOf m = (u.recomputeAndFire n).compareOf m
  debounce : (t.line n).debounce = (u.line n).debounce
  kept : Kept u t

theorem cutTold (u : State) (n : Lathe) : CutTold n u (((u.recomputeAndFire n).checkThreshold n).evalHold n) := by
  have keeps := SchedReach.keeps (sched_checkThreshold (u.recomputeAndFire n) n)
  have before := SchedReach.keeps (sched_recomputeAndFire u n)
  constructor
  case account => rw [State.evalHold_account_self, keeps.account, State.recomputeAndFire_account]
  case accounts =>
    intro m other
    rw [State.evalHold_account_ne _ _ _ (Ne.symm other), keeps.account, State.recomputeAndFire_account_ne _ other]
  case compares =>
    intro m
    rw [State.evalHold_compareOf, keeps.compares]
  case debounce =>
    have line : ((u.predicts n).writeCompare n).1.line n = u.line n := by
      unfold State.writeCompare State.settleCompare
      dsimp only
      split
      · rfl
      · split <;> rfl
    rw [State.evalHold_debounce, keeps.line, before.line, line]
  case kept => exact ((kept_recomputeAndFire u n).trans keeps.kept).trans (kept_evalHold _ n)

/-- Where R45 wants no compare armed a recomputation disarms it. -/
theorem State.recomputeAndFire_disarmed {s : State} {n : Lathe} (wants : (s.account n).wantsCompare = false) :
    (s.recomputeAndFire n).compareOf n = { s.compareOf n with armed := false, spent := false } := by
  have wants' : ((s.predicts n).account n).wantsCompare = false := by
    rw [s.predicts_account]
    exact wants
  rw [State.recomputeAndFire_compareOf, State.writeCompare_of_unwanted wants', State.setCompare_compareOf_self]
  rfl

/-- The estimate after a cut (R35 to R37). -/
theorem Account.countCut_cycle {a : Account} {g : Program} {c : CurrentBar} {now : Time} {cyc : Nat}
    (cycle : a.cycle = some cyc) :
    let sample := min (now - a.tLast.read now).toNat 16777215
    (a.countCut g c now).cycle = some
      (if a.sampleValid = false ∨ 4 * cyc < sample ∨ sample < cyc / 4 then cyc
        else max 1 (min ((7 * cyc + sample + 4) / 8) 16777215)) := by
  intro sample
  change (if a.sampleValid then a.cycle.map fun x => smooth x sample else a.cycle) = _
  rw [cycle]
  cases a.sampleValid with
  | false => simp
  | true =>
    simp only [if_true, Option.map_some, smooth, heldOut, Bool.true_eq_false, false_or, Bool.or_eq_true,
      decide_eq_true_eq]
    rfl

theorem State.fireIf_busy {s : State} {n : Lathe} {fired : Bool} (busy : s.shuttleFree = false) :
    (s.fireIf n fired).shuttleFree = false := by
  unfold State.fireIf State.deliverOnFire
  split
  · split
    · exact busy
    · rw [State.request_dispatch_of_busy busy, State.request_shuttleFree, busy]
  · exact busy

theorem posts_checkThreshold {K : EventKind → Prop} (s : State) (noStock : K .noStock) (n : Lathe) :
    Posts K s (s.checkThreshold n) := by
  unfold State.checkThreshold
  split
  · split
    · exact posts_request_dispatch s noStock n _
    · exact .refl s
  · exact .refl s

/-- Where R45 wants a compare armed. -/
theorem wantsCompare_of_running {a : Account} (state : a.state = .running ∨ a.state = .lost)
    (current : a.current.isSome = true) (cradle : a.cradle = none) : a.wantsCompare = true := by
  rcases state with h | h <;> simp [Account.wantsCompare, h, current, cradle]

theorem wantsCompare_eq_false {a : Account} (h : ¬(a.state ≠ .stopped ∧ a.cradle = none)) : a.wantsCompare = false := by
  unfold Account.wantsCompare
  by_cases stopped : a.state = .stopped
  · simp [stopped]
  · have cradle : a.cradle.isNone = false := by
      rw [Option.isNone_eq_false_iff, Option.isSome_iff_ne_none]
      exact fun empty => h ⟨stopped, empty⟩
    rw [cradle, Bool.and_false]

/-- The account after a cut counted to the bar and the tray (R30 to R41). -/
theorem Account.countCut_eq {a : Account} {g : Program} {c : CurrentBar} {now : Time} {est : Option Nat}
    (cycle : (a.countCut g c now).cycle = est) :
    (a.countCut g c now).countTray =
      { a with
        cycle := est
        sampleValid := true
        tLast := ⟨now, 0⟩
        current := some
          { c with
            remaining := c.remaining - g.pitch
            made := min (c.made + 1) Config.partsMadeMax
            overrun := c.overrun || a.partsLeft.getD 0 == 0 }
        partsLeft := some (g.partsLeft (c.remaining - g.pitch))
        tray := min (a.tray + 1) Config.trayMax } := by
  subst cycle
  rfl

/-- Settles O16: the counted account's predictions, compare and deadlines. -/
theorem cutCountedToBar : Obligations.CutCountedToBar := by
  intro n e s g c cyc program edge old current cycle state room a sample est rem left tray
  have counts : (s.account n).state.countsToBar = true := by
    rcases state with h | h | h <;> rw [h] <;> rfl
  obtain ⟨v, seen, run⟩ : ∃ v, CutSeen n s v ∧ exec (.cutEdge n e) s = .next (v.takeCut n) :=
    ⟨_, cutSeen s n e, exec_cutEdge_of_accepted program edge old⟩
  have own := seen.account n
  obtain ⟨u, counted⟩ := State.cutToBar_counted (s := v) (n := n) (by rw [own]; exact program)
    (by rw [own]; exact current) (by rw [own]; exact counts) (by rw [seen.events]; exact room)
  have told := cutTold u n
  rw [← counted.taken] at told
  have beside := counted.beside
  have now : u.now = s.now := beside.now.trans seen.now
  have account := counted.account
  rw [own, seen.now, Account.countCut_eq (Account.countCut_cycle cycle)] at account
  have cycle' : (u.account n).cycle = some est := by rw [account]
  have current' : (u.account n).current = some
      { c with remaining := rem, made := min (c.made + 1) 1023, overrun := c.overrun || a.partsLeft.getD 0 == 0 } := by
    rw [account]
    rfl
  have program' : (u.account n).program = some g := by rw [account]; exact program
  have predicted := Account.predicted_eq (now := u.now) program' current' cycle'
  have read : (u.account n).tLast.read u.now = s.now := by rw [account]; rfl
  rw [read] at predicted
  have busy' (busy : s.shuttleFree = false) : u.shuttleFree = false :=
    beside.shuttleFree.trans (seen.shuttleFree.trans busy)
  have fires (busy : s.shuttleFree = false) {i : Slot} {x : Job} (h : (u.recompute n).1.job i = some x) :
      (v.takeCut n).job i = some x := by
    have fired := State.recomputeAndFire_job (busy' busy) h
    have free := State.fireIf_busy (n := n) (fired := (u.recompute n).2)
      ((u.recompute_shuttleFree n).trans (busy' busy))
    rw [counted.taken, State.evalHold_job]
    exact State.checkThreshold_job_of_some free fired
  have found (k : JobKind) : u.findJob n k = s.findJob n k := (beside.findJob n k).trans (seen.findJob n k)
  have slot (i : Slot) : u.job i = s.job i := (beside.job i).trans (seen.job i)
  refine ⟨_, _, run, rfl, ?_, fun m other => ?_, ?_, fun m other => ?_, ?_, ?_, ?_, ⟨fun m => ?_, fun busy => ⟨
    fun i j has hj => ?_, fun i j has hj => ?_, fun i j hj other => ?_⟩⟩, ?_⟩
  · rw [told.account, predicted, account]
    rfl
  · rw [told.accounts m other, beside.accounts m other, seen.account]
  · rw [told.kept.capture, beside.kept.capture, seen.captured]
  · rw [told.kept.capture, beside.kept.capture, seen.others m other]
  · rw [told.debounce, counted.line, seen.debounce]
  · rw [told.kept.now, now]
  · rw [told.kept.params, beside.kept.params, seen.params]
  · rw [told.compares]
    by_cases other : m = n
    · subst other
      rw [if_neg (fun h => h rfl)]
      by_cases armed : a.state ≠ .stopped ∧ a.cradle = none
      · have wants : (u.account m).wantsCompare = true := by
          rw [account]
          exact wantsCompare_of_running (state.imp_right (fun h => h.resolve_left armed.1)) rfl armed.2
        have compare := State.recomputeAndFire_armed program' current' cycle' wants
        rw [read, now, beside.kept.params, seen.params] at compare
        rw [if_pos armed, compare]
        rfl
      · have wants : (u.account m).wantsCompare = false := by
          rw [account]
          exact wantsCompare_eq_false fun h => armed ⟨h.1, h.2⟩
        rw [if_neg armed, State.recomputeAndFire_disarmed wants, counted.compare, seen.compare]
    · rw [if_pos other, State.recomputeAndFire_compareOf_ne _ other, beside.compares m other, seen.compare]
  · exact fires busy (State.recompute_job_deliver ((found _).trans has) ((slot i).trans hj) current'
      (by rw [predicted]; rfl))
  · exact fires busy (State.recompute_job_collect ((found _).trans has) ((slot i).trans hj)
      (by rw [predicted, account]; rfl))
  · exact fires busy (State.recompute_job_other ((slot i).trans hj) other)
  · have posts : Posts (fun _ => True) u (v.takeCut n) := by
      rw [counted.taken]
      exact ((posts_recomputeAndFire u trivial n).trans (posts_checkThreshold _ trivial n)).trans
        (posts_of_events (State.evalHold_events _ _))
    obtain ⟨more, grown, -⟩ := posts
    refine ⟨more, ?_⟩
    rw [grown, counted.records, seen.events, own, seen.now]

/-! ### A cut counted to the tray only (R40, R41, R49) -/

section Tray
variable {s : State} {n : Lathe} {g : Program}

/-- A cut outside RUNNING, STOPPED and LOST is stray (R40). -/
theorem State.stray_counted (program : (s.account n).program = some g)
    (state : (s.account n).state.countsToBar = false) (room : s.events.records.length < 64) :
    ∃ u, CutCounted n s u (s.account n).countTray
      [⟨.strayCut, s.now, some n, none, none, none,
        halves (s.account n).state.code (min ((s.account n).tray + 1) 1023)⟩] := by
  have tray : ((s.setAccount n (s.account n).countTray).account n).tray = min ((s.account n).tray + 1) 1023 := by
    rw [State.setAccount_account_self]
    rfl
  refine ⟨(s.setAccount n (s.account n).countTray).post
    (event .strayCut (halves (s.account n).state.code ((s.setAccount n (s.account n).countTray).account n).tray)
      (lathe := some n)), (beside_setAccount n s _).trans (beside_post n _ _), ?_, ?_, ?_, ?_, ?_⟩
  · rw [State.post_account, State.setAccount_account_self]
  · rw [State.post_compareOf]
    rfl
  · rw [State.post_line]
    rfl
  · rw [State.post_records (s := s.setAccount n _) _ room, tray]
    rfl
  · unfold State.takeCut
    simp only [program, state, Bool.false_eq_true, if_false]

/-- With no current bar RUNNING, STOPPED and LOST count to the tray without an event (R40). -/
theorem State.barless_counted (program : (s.account n).program = some g)
    (state : (s.account n).state.countsToBar = true) (current : (s.account n).current = none) :
    ∃ u, CutCounted n s u (s.account n).countTray [] := by
  refine ⟨s.setAccount n (s.account n).countTray, beside_setAccount n s _, State.setAccount_account_self _ _ _, rfl, rfl,
    (List.append_nil _).symm, ?_⟩
  unfold State.takeCut
  simp only [program, state, current, if_true]

theorem State.recomputeAndFire_of_unwanted (wants : (s.account n).wantsCompare = false) :
    s.recomputeAndFire n = (s.recompute n).1 := by
  have wants' : ((s.predicts n).account n).wantsCompare = false := by
    rw [s.predicts_account]
    exact wants
  have quiet : (s.recompute n).2 = false := congrArg Prod.snd (State.writeCompare_of_unwanted wants')
  rw [State.recomputeAndFire, quiet]
  rfl

/-- No event comes of a request for a COLLECT job (R93). -/
theorem State.request_collect_events (s : State) (n : Lathe) : (s.request n .collect).events = s.events := by
  have made (i : Slot) : (s.createIn i n .collect).events = s.events := by
    unfold State.createIn
    dsimp only
    split
    · rfl
    · exact State.evalBinBlock_events _ i
  unfold State.request
  split
  · rfl
  · split
    · exact s.defer_events n _
    · split
      · exact made _
      · exact s.defer_events n _

theorem State.checkThreshold_events (s : State) (n : Lathe) : (s.checkThreshold n).events = s.events := by
  unfold State.checkThreshold
  split
  · split
    · exact (State.dispatch_events _).trans (s.request_collect_events n)
    · rfl
  · rfl

theorem State.checkThreshold_of_below (program : (s.account n).program = some g) (below : (s.account n).tray < g.threshold) :
    s.checkThreshold n = s := by
  have under : ¬g.threshold ≤ (s.account n).tray := Nat.not_le.2 below
  simp [State.checkThreshold, program, under]

theorem State.checkThreshold_of_has (has : s.hasJob n .collect = true) : s.checkThreshold n = s := by
  unfold State.checkThreshold
  split
  · simp [has]
  · rfl

theorem State.checkThreshold_of_busy (program : (s.account n).program = some g)
    (reached : g.threshold ≤ (s.account n).tray) (lacks : s.hasJob n .collect = false) (busy : s.shuttleFree = false) :
    s.checkThreshold n = s.request n .collect := by
  unfold State.checkThreshold
  rw [program]
  simp only [reached, lacks, decide_true, Bool.not_false, Bool.and_self, if_true]
  exact State.request_dispatch_of_busy busy n _

theorem Bin.gate_eq (x : Bin) (capacity : Nat) : x.gate capacity = gateOf x capacity := by
  unfold Bin.gate gateOf Bin.free
  cases x.isOpen <;> simp

/-- A COLLECT job made with its gate's block (R93, R100). -/
theorem State.createIn_collect_sched {full : Time} (i : Slot) (program : (s.account n).program = some g)
    (due : ((s.account n).fullAt s.now).getD s.now = full) :
    (s.createIn i n .collect).sched =
      { s.sched with
        slots := s.sched.slots.write i (some
          { madeJob s.nextJobId .collect n s.now full with
            bin := some g.bin, block := gateOf (s.bin g.bin) g.capacity })
        lastJobId := s.nextJobId } := by
  simp only [State.createIn, program, due]
  unfold State.evalBinBlock
  rw [State.setSched_job, Bank.read_write_self]
  simp only [newJob, bne_self_eq_false, Bool.false_eq_true, if_false]
  simp [State.gate, State.setSlot, Bank.write_write, madeJob, program, Bin.gate_eq]

theorem State.request_collect_sched {i : Slot} {full : Time} (program : (s.account n).program = some g)
    (lacks : s.hasJob n .collect = false) (slot : s.emptySlot = some i) (deferred : s.sched.deferred = [])
    (due : ((s.account n).fullAt s.now).getD s.now = full) :
    (s.request n .collect).sched =
      { s.sched with
        slots := s.sched.slots.write i (some
          { madeJob s.nextJobId .collect n s.now full with
            bin := some g.bin, block := gateOf (s.bin g.bin) g.capacity })
        lastJobId := s.nextJobId } := by
  rw [State.request_of_room lacks slot deferred, State.createIn_collect_sched i program due]

end Tray

theorem State.rewriteDeliver_of_empty {s : State} {n : Lathe} (h : (s.account n).current = none) :
    s.rewriteDeliver n = s := by
  unfold State.rewriteDeliver
  rw [h]
  split
  · next current _ => cases current
  · rfl

theorem State.rewriteCollect_of_none {s : State} {n : Lathe} (h : s.findJob n .collect = none) :
    s.rewriteCollect n = s := by
  simp only [State.rewriteCollect, h]

theorem State.defer_sched (s : State) (n : Lathe) (k : JobKind) :
    (s.defer n k).sched =
      { s.sched with
        deferred := if (n, k) ∈ s.sched.deferred then s.sched.deferred else s.sched.deferred ++ [(n, k)] } := by
  unfold State.defer
  split <;> rfl

/-- T_full formed now is used as it was formed, whatever the age of t_last (R39). -/
theorem Account.predicted_fullAt {a : Account} {now : Time} {g : Program} (program : a.program = some g) :
    (a.predicted now).fullAt now = some (predict (a.tLast.read now) (g.capacity - a.tray) (a.cycle.getD 0)) := by
  unfold Account.fullAt Account.useTime Account.predicted
  simp only [program, Stamp.read_read, Option.map_some, Option.getD_some]
  split <;> rfl

/-- Settles O17: what is passed over changes the pin alone; the rest is a recomputation and a threshold check. -/
theorem cutCountedToTrayOnly : Obligations.CutCountedToTrayOnly := by
  intro n e s
  refine ⟨fun h => exec_cutEdge_of_passed h, ?_⟩
  intro g program edge old room a stray how tray full
  obtain ⟨v, seen, run⟩ : ∃ v, CutSeen n s v ∧ exec (.cutEdge n e) s = .next (v.takeCut n) :=
    ⟨_, cutSeen s n e, exec_cutEdge_of_accepted program edge old⟩
  have own := seen.account n
  obtain ⟨u, counted⟩ : ∃ u, CutCounted n v u a.countTray
      (if stray then [⟨.strayCut, s.now, some n, none, none, none, halves a.state.code tray⟩] else []) := by
    rw [← own] at program
    by_cases strays : stray
    · have state : (v.account n).state.countsToBar = false := by
        rw [own]
        rcases strays with h | h | h <;> rw [show (s.account n).state = _ from h] <;> rfl
      have u := State.stray_counted program state (by rw [seen.events]; exact room)
      rw [own, seen.now] at u
      rw [if_pos strays]
      exact u
    · obtain ⟨state, current⟩ := how.resolve_left strays
      have state' : (v.account n).state.countsToBar = true := by
        rw [own]
        rcases state with h | h | h <;> rw [show (s.account n).state = _ from h] <;> rfl
      have u := State.barless_counted program state' (by rw [own]; exact current)
      rw [own] at u
      rw [if_neg strays]
      exact u
  have account := counted.account
  have beside := counted.beside
  have now : u.now = s.now := beside.now.trans seen.now
  have told := cutTold u n
  rw [← counted.taken] at told
  have wants : (u.account n).wantsCompare = false := by
    rw [account]
    unfold Account.wantsCompare
    rcases how with (h | h | h) | ⟨-, h⟩
    · rw [show a.countTray.state = _ from h]; rfl
    · rw [show a.countTray.state = _ from h]; rfl
    · rw [show a.countTray.state = _ from h]; rfl
    · rw [show a.countTray.current = none from h, Option.isSome_none, Bool.and_false, Bool.false_and]
  have same := State.recomputeAndFire_of_unwanted wants
  have taken := counted.taken
  rw [same] at taken
  obtain ⟨x, recomputed, beside', account'⟩ := u.recompute_state n
  have final := told.account
  rw [account, now] at account' final
  have tFull : (a.countTray.predicted s.now).tFull = some full := by
    change a.program.map _ = _
    rw [show a.program = some g from program]
    rfl
  refine ⟨_, run, ?_, ?_, ?_, ?_, ?_, ?_, ?_, fun m other => ?_, ?_, ?_, ?_, fun current busy => ?_⟩
  · rw [final]; rfl
  · rw [final]; rfl
  · rw [final]; rfl
  · rw [final]; rfl
  · rw [final]; rfl
  · rw [final]; rfl
  · rw [final]; exact tFull
  · rw [told.accounts m other, beside.accounts m other, seen.account]
  · rw [told.kept.capture, beside.kept.capture, seen.captured]
  · rw [told.debounce, counted.line, seen.debounce]
  · rw [taken, State.evalHold_events, State.checkThreshold_events, State.recompute_events, counted.records, seen.events]
  · have sched : x.sched = s.sched := beside'.sched.trans (beside.sched.trans seen.sched)
    have found (k : JobKind) : x.findJob n k = s.findJob n k :=
      (beside'.findJob n k).trans ((beside.findJob n k).trans (seen.findJob n k))
    have job (i : Slot) : x.job i = s.job i := by rw [State.job, sched, State.job]
    have busy : x.shuttleFree = false :=
      beside'.shuttleFree.trans (beside.shuttleFree.trans (seen.shuttleFree.trans busy))
    have tray' : (x.account n).tray = tray := by rw [account']; rfl
    have program' : (x.account n).program = some g := by rw [account']; exact program
    rw [State.rewriteDeliver_of_empty (by rw [account']; exact current)] at recomputed
    rw [taken, State.evalHold_sched, recomputed]
    refine ⟨fun i has => ?_, fun lacks below => ?_, fun lacks reached => ?_⟩
    · have has' : x.findJob n .collect = some i := (found _).trans has
      rw [State.rewriteCollect_of_has has' (by rw [account']; exact tFull), State.checkThreshold_of_has,
        State.setDeadline_sched, sched, job]
      rw [State.hasJob, State.setDeadline_findJob, has']
      rfl
    · have lacks' : x.findJob n .collect = none := (found _).trans lacks
      rw [State.rewriteCollect_of_none lacks', State.checkThreshold_of_below program' (by rw [tray']; exact below), sched]
    · have lacks' : x.findJob n .collect = none := (found _).trans lacks
      have lacks'' := State.hasJob_of_findJob lacks'
      rw [State.rewriteCollect_of_none lacks',
        State.checkThreshold_of_busy program' (by rw [tray']; exact reached) lacks'' busy]
      have emptySlot : x.emptySlot = s.emptySlot := by
        unfold State.emptySlot
        simp only [job]
      refine ⟨fun full => ?_, fun i slot deferred => ?_⟩
      · rw [State.request_of_full lacks'' (emptySlot.trans full), State.defer_sched, sched]
      · have nextJobId : x.nextJobId = s.nextJobId :=
          beside'.nextJobId.trans (beside.nextJobId.trans (by unfold State.nextJobId State.jobIds State.job; rw [seen.sched]))
        have clock : x.now = s.now := beside'.now.trans now
        have bins (b : BinNo) : x.bin b = s.bin b := by
          rw [State.bin, beside'.bins, beside.bins, seen.bins, State.bin]
        have due : ((x.account n).fullAt x.now).getD x.now = full := by
          rw [account', clock, Account.predicted_fullAt (a := a.countTray) program]
          rfl
        rw [State.request_collect_sched program' lacks'' (emptySlot.trans slot) (by rw [sched]; exact deferred) due,
          sched, nextJobId, clock, bins]

end Sys2Proof.Machine

/-! PROOFS. The link break (R21, R172). -/
namespace Sys2Proof.Machine

open Sys2Proof

/-! ### LOST with a resume state (R21) -/

section Lose
variable (s : State) (n : Lathe) (r : ResumeState)

theorem beside_loseLathe : Beside n s (s.loseLathe n r) := (beside_setAccount n s _).trans (beside_goTo n _ _)

theorem State.loseLathe_account : (s.loseLathe n r).account n = { s.account n with state := .lost, resume := r } := by
  rw [State.loseLathe, State.goTo_account_self, State.setAccount_account_self]

theorem State.loseLathe_compareOf : (s.loseLathe n r).compareOf n = s.compareOf n := State.goTo_compareOf _ _ _ _
theorem State.loseLathe_line (m : Lathe) : (s.loseLathe n r).line m = s.line m := State.goTo_line _ _ _ _
theorem State.loseLathe_port (p : PortNo) : (s.loseLathe n r).port p = s.port p := State.goTo_port _ _ _ _

theorem State.loseLathe_records (other : (s.account n).state ≠ .lost) (room : s.events.records.length < 64) :
    (s.loseLathe n r).events.records = s.events.records ++
      [⟨.latheState, s.now, some n, none, none, none, latheStateValue .lost r (s.account n).state⟩] := by
  rw [State.loseLathe, State.goTo_records (s.setAccount n _) n .lost (by rw [State.setAccount_account_self]; exact other) room,
    State.setAccount_account_self]
  rfl

theorem posts_goTo {K : EventKind → Prop} (told : K .latheState) (new : AcctState) : Posts K s (s.goTo n new) := by
  unfold State.goTo
  dsimp only
  split
  · exact .refl s
  · exact (posts_of_events rfl).trans (posts_post told)

theorem posts_loseLathe {K : EventKind → Prop} (told : K .latheState) : Posts K s (s.loseLathe n r) :=
  (posts_of_events rfl).trans (posts_goTo _ n told _)

end Lose

/-! ### The compare written from the T_out that stands (R26, R45) -/

section Rearm
variable {s : State} {n : Lathe}

theorem sched_rearm (s : State) (n : Lathe) : SchedReach (s.writeCompare n).1 (s.rearm n) := sched_fireIf _ n _

theorem State.rearm_account (m : Lathe) : (s.rearm n).account m = s.account m := by
  rw [(sched_rearm s n).keeps.account, State.account, State.writeCompare_accounts, State.account]

theorem State.rearm_port (p : PortNo) : (s.rearm n).port p = s.port p := by
  rw [(sched_rearm s n).keeps.port, State.port, State.writeCompare_ports, State.port]

theorem State.writeCompare_line (m : Lathe) : (s.writeCompare n).1.line m = s.line m := by
  unfold State.writeCompare State.settleCompare
  dsimp only
  split
  · rfl
  · split <;> rfl

theorem State.rearm_line (m : Lathe) : (s.rearm n).line m = s.line m := by
  rw [(sched_rearm s n).keeps.line, State.writeCompare_line]

theorem State.recomputeAndFire_line (m : Lathe) : (s.recomputeAndFire n).line m = s.line m := by
  rw [(sched_recomputeAndFire s n).keeps.line, State.writeCompare_line]
  rfl

theorem State.rearm_bars (k : LaneNo) : ((s.rearm n).lane k).bars = (s.lane k).bars := by
  rw [(sched_rearm s n).keeps.bars, (beside_writeCompare n s).lane]

theorem kept_rearm (s : State) (n : Lathe) : Kept s (s.rearm n) :=
  (beside_writeCompare n s).kept.trans (sched_rearm s n).keeps.kept

theorem posts_rearm {K : EventKind → Prop} (noStock : K .noStock) : Posts K s (s.rearm n) :=
  (posts_of_events (s.writeCompare_events n)).trans (posts_fireIf _ noStock n _)

section Wanted
variable {t : Time} (wants : (s.account n).wantsCompare = true) (out : (s.account n).outAt s.now = some t)
include wants out

/-- The compare written, its firing not yet taken. -/
theorem State.rearm_of_wanted :
    s.rearm n =
      (s.setCompare n (.written (t - BitVec.ofNat 32 s.params.lookahead) s.now)).fireIf n
        (atOrBefore (t - BitVec.ofNat 32 s.params.lookahead) s.now) := by
  rw [State.rearm, State.writeCompare_of_wanted wants out]

theorem State.rearm_compareOf :
    (s.rearm n).compareOf n = .written (t - BitVec.ofNat 32 s.params.lookahead) s.now := by
  rw [State.rearm_of_wanted wants out, (SchedReach.keeps (sched_fireIf _ n _)).compares, State.setCompare_compareOf_self]

/-- A firing asks for nothing that the lathe has or may not have (R46). -/
theorem State.rearm_of_quiet
    (quiet : atOrBefore (t - BitVec.ofNat 32 s.params.lookahead) s.now = false ∨ s.hasJob n .deliver = true ∨
      (s.account n).stockShort = true) :
    s.rearm n = s.setCompare n (.written (t - BitVec.ofNat 32 s.params.lookahead) s.now) := by
  rw [State.rearm_of_wanted wants out, State.fireIf]
  rcases quiet with early | has
  · rw [early]
    rfl
  · split
    · exact State.deliverOnFire_of_has (s := s.setCompare n _) has
    · rfl

theorem State.rearm_of_fired (reached : atOrBefore (t - BitVec.ofNat 32 s.params.lookahead) s.now = true)
    (lacks : s.hasJob n .deliver = false) (stock : (s.account n).stockShort = false) (busy : s.shuttleFree = false) :
    s.rearm n = (s.setCompare n (.written (t - BitVec.ofNat 32 s.params.lookahead) s.now)).request n .deliver := by
  rw [State.rearm_of_wanted wants out, State.fireIf, if_pos reached]
  exact State.deliverOnFire_of_busy (s := s.setCompare n _) lacks stock busy

end Wanted

/-- The compare after a recomputation that wants it armed, whatever the account's cycle. -/
theorem State.recomputeAndFire_written {t : Time} (wants : (s.account n).wantsCompare = true)
    (out : ((s.account n).predicted s.now).outAt s.now = some t) :
    (s.recomputeAndFire n).compareOf n = .written (t - BitVec.ofNat 32 s.params.lookahead) s.now := by
  have wants' : ((s.predicts n).account n).wantsCompare = true := by
    rw [s.predicts_account]
    exact wants
  have out' : ((s.predicts n).account n).outAt (s.predicts n).now = some t := by
    rw [s.predicts_account]
    exact out
  rw [s.recomputeAndFire_compareOf, State.writeCompare_of_wanted wants' out', State.setCompare_compareOf_self]
  rfl

end Rearm

/-! ### The account's break (R21) -/

/-- The resume state that a break leaves (R21). -/
def Account.brokenResume (a : Account) : ResumeState :=
  match a.state with
  | .idle => .idle
  | .await => .await
  | .loading => .running
  | .running => .running
  | _ => a.resume

/-- What every break of lathe `n` keeps and posts, from the state `v` in which LINK_BREAK has been posted. -/
structure Broken (n : Lathe) (v w : State) : Prop where
  port : w.port (lathePort n) = v.port (lathePort n)
  line : w.line n = v.line n
  accounts : ∀ m, m ≠ n → w.account m = v.account m
  bars : ∀ k, (w.lane k).bars = (v.lane k).bars
  state : (w.account n).state = if (v.account n).state = .noProg then .noProg else .lost
  resume : (w.account n).resume = (v.account n).brokenResume
  loadFault : (w.account n).loadFault = (v.account n).loadFault
  tray : (w.account n).tray = (v.account n).tray
  holdSet : (w.account n).holdSet = (v.account n).holdSet
  posts : Posts (fun _ => True) v w
  silent : (v.account n).state = .noProg ∨ (v.account n).state = .lost → w = v
  told : (v.account n).state ≠ .noProg → (v.account n).state ≠ .lost → v.events.records.length < 64 →
    ∃ rest, w.events.records = v.events.records ++
      (⟨.latheState, v.now, some n, none, none, none,
        latheStateValue .lost (v.account n).brokenResume (v.account n).state⟩ :: rest) ∧
      ∀ e ∈ rest, e.kind = .noStock

section Break
variable {v w : State} {n : Lathe}

/-- The account is lost first; what follows keeps what the break's rule says of the account, and asks for a bar at
most. -/
theorem broken_of_lost {u : State} (open_ : (v.account n).state ≠ .noProg ∧ (v.account n).state ≠ .lost)
    (beside : Beside n v u) (port : u.port (lathePort n) = v.port (lathePort n)) (line : u.line n = v.line n)
    (kinds : Posts (fun _ => True) v u)
    (records : v.events.records.length < 64 → u.events.records = v.events.records ++
      [⟨.latheState, v.now, some n, none, none, none,
        latheStateValue .lost (v.account n).brokenResume (v.account n).state⟩])
    (port' : w.port (lathePort n) = u.port (lathePort n)) (line' : w.line n = u.line n)
    (accounts' : ∀ m, m ≠ n → w.account m = u.account m) (bars' : ∀ k, (w.lane k).bars = (u.lane k).bars)
    (own : (w.account n).state = .lost ∧ (w.account n).resume = (v.account n).brokenResume ∧
      (w.account n).loadFault = (v.account n).loadFault ∧ (w.account n).tray = (v.account n).tray ∧
      (w.account n).holdSet = (v.account n).holdSet)
    (posts : Posts (· = .noStock) u w) : Broken n v w := by
  obtain ⟨state, resume, loadFault, tray, holdSet⟩ := own
  refine ⟨port'.trans port, line'.trans line, fun m other => (accounts' m other).trans (beside.accounts m other),
    fun k => ?_, ?_, resume, loadFault, tray, holdSet, kinds.trans ?_, fun h => ?_, fun _ _ room => ?_⟩
  · rw [bars', beside.lane]
  · rw [state, if_neg open_.1]
  · obtain ⟨more, grown, -⟩ := posts
    exact ⟨more, grown, fun _ _ => trivial⟩
  · exact absurd h (not_or.2 open_)
  · obtain ⟨more, grown, kinds⟩ := posts
    exact ⟨more, by rw [grown, records room, List.append_assoc]; rfl, kinds⟩

/-- A break that only loses the lathe (R21). -/
theorem broken_loseLathe (open_ : (v.account n).state ≠ .noProg ∧ (v.account n).state ≠ .lost) {r : ResumeState}
    (resume : r = (v.account n).brokenResume) : Broken n v (v.loseLathe n r) := by
  refine broken_of_lost open_ (beside_loseLathe v n r) (v.loseLathe_port n r _) (v.loseLathe_line n r n)
    (posts_loseLathe v n r trivial) (fun room => ?_) rfl rfl (fun _ _ => rfl) (fun _ => rfl) ?_ (.refl _)
  · rw [v.loseLathe_records n r open_.2 room, resume]
  · rw [v.loseLathe_account]
    exact ⟨rfl, resume, rfl, rfl, rfl⟩

/-- A break in STOPPED, with the compare it may arm (R21, R45). -/
theorem State.breakByState_of_stopped (state : (v.account n).state = .stopped) :
    v.breakByState n =
      if ((v.loseLathe n (v.account n).resume).account n).wantsCompare then
        (v.loseLathe n (v.account n).resume).rearm n
      else v.loseLathe n (v.account n).resume := by
  simp only [State.breakByState, state]

theorem State.breakByState_of_loading (state : (v.account n).state = .loading) :
    v.breakByState n = v.breakLoading n := by
  simp only [State.breakByState, state]

/-- A break outside LOADING and STOPPED. -/
theorem State.breakByState_of_plain (loading : (v.account n).state ≠ .loading) (stopped : (v.account n).state ≠ .stopped) :
    v.breakByState n =
      if (v.account n).state = .noProg ∨ (v.account n).state = .lost then v
      else v.loseLathe n (v.account n).brokenResume := by
  cases state : (v.account n).state with
  | loading => exact absurd state loading
  | stopped => exact absurd state stopped
  | noProg | lost => simp [State.breakByState, state]
  | idle | await | running => simp [State.breakByState, Account.brokenResume, state]

/-- The account with the pushed bar, its lathe lost (R21). -/
theorem State.breakLoading_account {g : Program} {c : CradleBar} (program : (v.account n).program = some g)
    (cradle : (v.account n).cradle = some c) :
    (v.breakLoading n).account n =
      ({ v.account n with
        state := .lost
        resume := .running
        loadTimer := .stopped
        current := some ⟨c.bar.id, c.bar.length, c.bar.lot, c.bar.length - g.face, 0, false⟩
        cradle := none
        tLast := ⟨v.now, 0⟩
        sampleValid := false } : Account).predicted v.now := by
  rw [State.breakLoading, State.recomputeAndFire_account, State.loseLathe_account, State.setAccount_account_self]
  simp only [Account.loadBar, cradle, program, (beside_loseLathe _ n _).now]
  rfl

/-- The compare and the deadlines after the pushed bar's recomputation (R42, R45; log 34). -/
theorem State.breakLoading_written {g : Program} {c : CradleBar} (program : (v.account n).program = some g)
    (cradle : (v.account n).cradle = some c) :
    ∃ out full, ((v.breakLoading n).account n).tOut = some out ∧ ((v.breakLoading n).account n).tFull = some full ∧
      (v.breakLoading n).compareOf n = .written (out - BitVec.ofNat 32 v.params.lookahead) v.now ∧
      (v.shuttleFree = false →
        (∀ i j, v.findJob n .deliver = some i → v.job i = some j →
          (v.breakLoading n).job i = some { j with deadline := out }) ∧
        (∀ i j, v.findJob n .collect = some i → v.job i = some j →
          (v.breakLoading n).job i = some { j with deadline := full }) ∧
        ∀ i j, v.job i = some j → j.lathe ≠ n → (v.breakLoading n).job i = some j) := by
  obtain ⟨u, pushed, beside, own⟩ : ∃ u, v.breakLoading n = u.recomputeAndFire n ∧ Beside n v u ∧
      u.account n =
        { v.account n with
          state := .lost
          resume := .running
          loadTimer := .stopped
          current := some ⟨c.bar.id, c.bar.length, c.bar.lot, c.bar.length - g.face, 0, false⟩
          cradle := none
          tLast := ⟨v.now, 0⟩
          sampleValid := false } := by
    refine ⟨_, rfl, (beside_setAccount n v _).trans (beside_loseLathe _ n _), ?_⟩
    rw [State.loseLathe_account, State.setAccount_account_self]
    simp only [Account.loadBar, cradle, program]
    rfl
  have out : ((u.account n).predicted u.now).tOut =
      some (predict ((u.account n).tLast.read u.now) (g.partsLeft (c.bar.length - g.face)) ((v.account n).cycle.getD 0)) := by
    rw [own]
    simp only [Account.predicted, program, Option.map_some]
  have full : ((u.account n).predicted u.now).tFull =
      some (predict ((u.account n).tLast.read u.now) (g.capacity - (v.account n).tray) ((v.account n).cycle.getD 0)) := by
    rw [own]
    simp only [Account.predicted, program, Option.map_some]
  have wants : (u.account n).wantsCompare = true := by
    rw [own]
    rfl
  have outAt : ((u.account n).predicted u.now).outAt u.now = ((u.account n).predicted u.now).tOut :=
    Account.useTime_young _ _ _ _ (by rw [own]; exact (by decide : 0 < Config.horizon))
  have current : (u.account n).current = some ⟨c.bar.id, c.bar.length, c.bar.lot, c.bar.length - g.face, 0, false⟩ := by
    rw [own]
  have account : (v.breakLoading n).account n = (u.account n).predicted u.now := by
    rw [pushed, State.recomputeAndFire_account]
  refine ⟨_, _, (congrArg Account.tOut account).trans out, (congrArg Account.tFull account).trans full, ?_, fun busy => ⟨fun i j has hj => ?_, fun i j has hj => ?_,
    fun i j hj other => ?_⟩⟩
  · rw [pushed, State.recomputeAndFire_written wants (outAt.trans out), beside.now, beside.kept.params]
  · rw [pushed]
    exact State.recomputeAndFire_job (beside.shuttleFree.trans busy)
      (State.recompute_job_deliver ((beside.findJob n _).trans has) ((beside.job i).trans hj) current out)
  · rw [pushed]
    exact State.recomputeAndFire_job (beside.shuttleFree.trans busy)
      (State.recompute_job_collect ((beside.findJob n _).trans has) ((beside.job i).trans hj) full)
  · rw [pushed]
    exact State.recomputeAndFire_job (beside.shuttleFree.trans busy)
      (State.recompute_job_other ((beside.job i).trans hj) other)

theorem Account.loadBar_keeps (a : Account) (now : Time) :
    (a.loadBar now).state = a.state ∧ (a.loadBar now).loadFault = a.loadFault ∧ (a.loadBar now).tray = a.tray ∧
      (a.loadBar now).holdSet = a.holdSet ∧ (a.loadBar now).resume = a.resume := by
  unfold Account.loadBar
  split <;> exact ⟨rfl, rfl, rfl, rfl, rfl⟩

theorem broken_breakLoading (state : (v.account n).state = .loading) : Broken n v (v.breakLoading n) := by
  obtain ⟨u, pushed, own⟩ : ∃ u, u = v.setAccount n { (v.account n).loadBar v.now with loadTimer := .stopped } ∧
      u.account n = { (v.account n).loadBar v.now with loadTimer := .stopped } :=
    ⟨_, rfl, State.setAccount_account_self _ _ _⟩
  have beside : Beside n v u := pushed ▸ beside_setAccount n v _
  have loading : v.breakLoading n = (u.loseLathe n .running).recomputeAndFire n := by rw [pushed]; rfl
  obtain ⟨state', loadFault, tray, holdSet, -⟩ := (v.account n).loadBar_keeps v.now
  have resume : (v.account n).brokenResume = .running := by rw [Account.brokenResume, state]
  have lost := beside.trans (beside_loseLathe u n .running)
  have events : u.events = v.events := by rw [pushed]; rfl
  rw [loading]
  refine broken_of_lost (u := u.loseLathe n .running) (by rw [state]; decide) lost ?_ ?_ ?_ (fun room => ?_) ?_ ?_
    (fun m other => ?_) (fun k => ?_) ?_ (posts_recomputeAndFire (K := (· = .noStock)) _ rfl n)
  · rw [State.loseLathe_port, pushed]
    rfl
  · rw [State.loseLathe_line, pushed]
    rfl
  · exact (posts_of_events events).trans (posts_loseLathe u n _ trivial)
  · rw [State.loseLathe_records _ _ _ (by rw [own]; exact state'.trans_ne (by rw [state]; decide))
      (by rw [events]; exact room), own, events, beside.now, resume]
    simp only [state']
  · rw [State.recomputeAndFire_port]
  · rw [State.recomputeAndFire_line]
  · rw [State.recomputeAndFire_account_ne _ other]
  · rw [State.recomputeAndFire_bars]
  · rw [State.recomputeAndFire_account, State.loseLathe_account, own, resume]
    exact ⟨rfl, rfl, loadFault, tray, holdSet⟩

theorem broken_breakByState (v : State) (n : Lathe) : Broken n v (v.breakByState n) := by
  by_cases loading : (v.account n).state = .loading
  · rw [State.breakByState_of_loading loading]
    exact broken_breakLoading loading
  by_cases stopped : (v.account n).state = .stopped
  · have open_ : (v.account n).state ≠ .noProg ∧ (v.account n).state ≠ .lost := by
      rw [stopped]
      decide
    have resume : (v.account n).resume = (v.account n).brokenResume := by rw [Account.brokenResume, stopped]
    rw [State.breakByState_of_stopped stopped]
    split
    · have own := (v.loseLathe n (v.account n).resume).rearm_account (n := n) n
      rw [v.loseLathe_account] at own
      refine broken_of_lost open_ (beside_loseLathe v n _) (v.loseLathe_port n _ _) (v.loseLathe_line n _ n)
        (posts_loseLathe v n _ trivial) (fun room => ?_) (State.rearm_port _) (State.rearm_line _)
        (fun m _ => State.rearm_account m) State.rearm_bars ?_ (posts_rearm (K := (· = .noStock)) rfl)
      · rw [v.loseLathe_records n _ open_.2 room, ← resume]
      · rw [own]
        exact ⟨rfl, resume, rfl, rfl, rfl⟩
    · exact broken_loseLathe open_ resume
  rw [State.breakByState_of_plain loading stopped]
  split
  · next rest =>
    refine ⟨rfl, rfl, fun _ _ => rfl, fun _ => rfl, ?_, ?_, rfl, rfl, rfl, .refl v, fun _ => rfl,
      fun h k => absurd rest (not_or.2 ⟨h, k⟩)⟩
    · rcases rest with h | h <;> rw [h] <;> rfl
    · rw [Account.brokenResume]
      rcases rest with h | h <;> rw [h]
  · next open_ => exact broken_loseLathe (not_or.1 open_) rfl

/-- Outside LOADING a break changes the state and the resume state alone. -/
theorem State.breakByState_account (loading : (v.account n).state ≠ .loading) :
    (v.breakByState n).account n =
      { v.account n with
        state := if (v.account n).state = .noProg then .noProg else .lost
        resume := (v.account n).brokenResume } := by
  by_cases stopped : (v.account n).state = .stopped
  · have own : (v.breakByState n).account n = (v.loseLathe n (v.account n).resume).account n := by
      rw [State.breakByState_of_stopped stopped]
      split
      · exact State.rearm_account n
      · rfl
    rw [own, v.loseLathe_account, stopped, Account.brokenResume, stopped]
    rfl
  · rw [State.breakByState_of_plain loading stopped]
    split
    · next rest =>
      unfold Account.brokenResume
      rcases rest with h | h
      · simp only [h, if_true]
        rw [← h]
      · simp only [h, reduceCtorEq, if_false]
        rw [← h]
    · next open_ => rw [v.loseLathe_account, if_neg (not_or.1 open_).1]

end Break

/-- An evaluation of the reasons changes a port's queue alone. -/
theorem State.evalHold_port_eq (s : State) (n : Lathe) (p : PortNo) :
    (s.evalHold n).port p = { s.port p with queue := ((s.evalHold n).port p).queue } := by
  rw [State.evalHold_port]
  split
  · rfl
  · by_cases e : lathePort n = p
    · subst e
      rw [State.notice_port_self]
    · rw [State.notice_port_ne _ _ _ _ e]

theorem Account.brokenResume_eq (a : Account) :
    a.brokenResume = match a.state with
      | .idle => .idle
      | .await => .await
      | .loading => .running
      | .running => .running
      | .noProg => a.resume
      | .stopped => a.resume
      | .lost => a.resume := by
  unfold Account.brokenResume
  cases a.state <;> rfl

theorem Account.brokenResume_of_loaded {a : Account} (h : a.state ≠ .loading) :
    a.brokenResume = match a.state with
      | .idle => .idle
      | .await => .await
      | .running => .running
      | _ => a.resume := by
  unfold Account.brokenResume
  cases state : a.state with
  | loading => exact absurd state h
  | idle | await | running | noProg | stopped | lost => rfl

/-- T_out as it is used between recomputations (R39). -/
theorem Account.outAt_used {a : Account} {now held : Time} {left cyc : Nat} (out : a.tOut = some held)
    (parts : a.partsLeft = some left) (cycle : a.cycle = some cyc) : a.outAt now = some (a.used now held left cyc) := by
  rw [Account.outAt, out, parts]
  exact a.useTime_used now held left cyc cycle

/-! ### LINK_BREAK -/

section Row
variable {s : State} {n : Lathe}

/-- The part once the port has gone to BROKEN and LINK_BREAK has been posted. -/
def State.breakSeen (s : State) (n : Lathe) : State :=
  (s.setPort (lathePort n) { s.port (lathePort n) with rx := .broken }).post
    (event .linkBreak (BitVec.ofNat 32 (s.account n).state.code) (lathe := some n))

theorem exec_linkBreak_of_lathe (rx : (s.port (lathePort n)).rx ≠ .broken) :
    exec (.linkBreak (lathePort n)) s = .next (((s.breakSeen n).breakByState n).evalHold n) := by
  change Host.Outcome.next _ = _
  cases h : (s.port (lathePort n)).rx with
  | broken => exact absurd h rx
  | lineIdle | discarding | inMessage =>
    simp only [latheOf_lathePort]
    rfl

theorem beside_setPort (n : Lathe) (s : State) (p : PortNo) (q : Port) : Beside n s (s.setPort p q) :=
  ⟨fun _ _ => rfl, fun _ _ => rfl, rfl, rfl, rfl, rfl, rfl, ⟨rfl, rfl, rfl, rfl, rfl, rfl, rfl, rfl, rfl, rfl⟩⟩

theorem beside_breakSeen (s : State) (n : Lathe) : Beside n s (s.breakSeen n) :=
  (beside_setPort n s _ _).trans (beside_post n _ _)

/-- What has happened once LINK_BREAK has been posted. -/
theorem exec_linkBreak_seen (rx : (s.port (lathePort n)).rx ≠ .broken) (room : s.events.records.length < 64) :
    ∃ v, exec (.linkBreak (lathePort n)) s = .next ((v.breakByState n).evalHold n) ∧ Beside n s v ∧
      v.account n = s.account n ∧ v.compareOf n = s.compareOf n ∧ v.line n = s.line n ∧
      v.port (lathePort n) = { s.port (lathePort n) with rx := .broken } ∧
      v.events.records = s.events.records ++
        [⟨.linkBreak, s.now, some n, none, none, none, BitVec.ofNat 32 (s.account n).state.code⟩] := by
  refine ⟨s.breakSeen n, exec_linkBreak_of_lathe rx, beside_breakSeen s n, ?_, ?_, ?_, ?_, ?_⟩
  · rw [State.breakSeen, State.post_account]
    rfl
  · rw [State.breakSeen, State.post_compareOf]
    rfl
  · rw [State.breakSeen, State.post_line]
    rfl
  · rw [State.breakSeen, State.post_port]
    exact Bank.read_write_self _ _ _
  · exact State.post_records (s := s.setPort _ _) _ room

end Row

/-- Settles O21: the port, the event, the account's break by its state, and the evaluation of its reasons. -/
theorem linkBreakLosesLathe : Obligations.LinkBreakLosesLathe := by
  intro p s
  refine ⟨fun rx => ?_, fun rx last => ?_, fun n lathe rx room => ?_⟩
  · change Host.Outcome.next _ = _
    simp only [rx]
  · have isLast : p = supervisorPort := Fin.ext last
    subst isLast
    change Host.Outcome.next _ = _
    cases h : (s.port supervisorPort).rx with
    | broken => exact absurd h rx
    | lineIdle | discarding | inMessage => simp only [latheOf_supervisorPort]
  · subst lathe
    intro a
    obtain ⟨v, run, beside, own, compare, line, port, records⟩ := exec_linkBreak_seen rx room
    have broken := broken_breakByState v n
    obtain ⟨port', line', accounts, bars, state, resume, loadFault, tray, holdSet, posts, silent, told⟩ := broken
    obtain ⟨more, grown, -⟩ := posts
    rw [own] at state resume loadFault tray holdSet silent told
    have account := (v.breakByState n).evalHold_account_self n
    have held : ((v.breakByState n).account n).reasons = (((v.breakByState n).evalHold n).account n).holdSet := by
      rw [account]
    have queue := (v.breakByState n).evalHold_queue n
    rw [port', port, holdSet, held] at queue
    have kept := (v.breakByState n).evalHold_port_eq n (lathePort n)
    rw [port', port] at kept
    refine ⟨_, more, run, ?_, ?_, ?_, ?_, ?_, ?_, ?_, ?_, ?_, fun rest => ?_, fun open_ found room' => ?_, ?_, ?_, queue, ?_,
      fun g c loading program cradle => ?_, fun loading => ?_, fun stopped unwanted => ?_,
      fun cur held left cyc stopped current cradle out parts cycle program => ?_, fun loading stopped => ?_,
      fun m other => ?_, fun k => ?_⟩
    · rw [kept]
    · rw [kept]
    · rw [kept]
    · rw [kept]
    · rw [State.evalHold_events, grown, records, List.append_assoc]
      rfl
    · rw [account]; exact state
    · rw [account]
      exact resume.trans (Account.brokenResume_eq _)
    · rw [account]; exact loadFault
    · rw [account]; exact tray
    · have same := silent rest
      rw [same] at grown
      simpa using grown
    · obtain ⟨rest, eq, kinds⟩ := told open_ found (by rw [records, List.length_append]; exact room')
      refine ⟨rest, List.append_cancel_left (grown.symm.trans eq) |>.trans ?_, kinds⟩
      rw [account, beside.now]
      simp only [resume]
      rfl
    · rw [account]; rfl
    · rw [account]
      change (decide (((v.breakByState n).account n).state = .lost)) = true ↔ _
      rw [state, decide_eq_true_iff]
      by_cases h : (s.account n).state = .noProg <;> simp [h, a]
    · rw [State.evalHold_line_self, holdSet, held, line', line]
      split
      · rfl
      · exact Line.command_holdCmd _ _
    · have pushed := State.breakLoading_account (v := v) (n := n) (by rw [own]; exact program) (by rw [own]; exact cradle)
      rw [own, beside.now] at pushed
      obtain ⟨due, full, out, full', written, deadlines⟩ :=
        State.breakLoading_written (v := v) (n := n) (by rw [own]; exact program) (by rw [own]; exact cradle)
      have loads := State.breakByState_of_loading (v := v) (n := n) (by rw [own]; exact loading)
      rw [loads] at account
      rw [← loads] at out full' written deadlines
      have final := account.trans (by rw [pushed])
      have tOut : (((v.breakByState n).evalHold n).account n).tOut = some due := by
        rw [loads, account, ← loads]
        exact out
      have tFull : (((v.breakByState n).evalHold n).account n).tFull = some full := by
        rw [loads, account, ← loads]
        exact full'
      rw [tOut, tFull, State.evalHold_compareOf, written, beside.kept.params]
      rw [loads, final]
      refine ⟨rfl, rfl, rfl, rfl, rfl, rfl, rfl, fun busy => ?_⟩
      obtain ⟨deliver, collect, others⟩ := deadlines (beside.shuttleFree.trans busy)
      refine ⟨fun i j has hj => ?_, fun i j has hj => ?_, fun i j hj other => ?_⟩
      · rw [State.evalHold_job, ← loads, deliver i j ((beside.findJob n _).trans has) ((beside.job i).trans hj)]
        rfl
      · rw [State.evalHold_job, ← loads, collect i j ((beside.findJob n _).trans has) ((beside.job i).trans hj)]
        rfl
      · rw [State.evalHold_job, ← loads, others i j ((beside.job i).trans hj) other]
    · rw [account, State.breakByState_account (by rw [own]; exact loading), own]
      refine ⟨rfl, rfl, rfl, ?_⟩
      rw [Account.brokenResume_of_loaded loading] <;> rfl
    · have unwanted' : (({ a with state := .lost, resume := a.resume } : Account)).wantsCompare = false := by
        unfold Account.wantsCompare
        rcases unwanted with none | some
        · simp [none]
        · have empty : a.cradle.isNone = false := by rw [Option.isNone_eq_false_iff, some]
          rw [empty, Bool.and_false]
      have loses : v.breakByState n = v.loseLathe n a.resume := by
        rw [State.breakByState_of_stopped (by rw [own]; exact stopped), v.loseLathe_account, own, unwanted']
        rfl
      rw [State.evalHold_sched, State.evalHold_compareOf, loses]
      exact ⟨(beside_loseLathe v n _).sched.trans beside.sched, (v.loseLathe_compareOf n _).trans compare⟩
    · obtain ⟨u, rearms, beside', account'⟩ : ∃ u, v.breakByState n =
          (if (u.account n).wantsCompare then u.rearm n else u) ∧ Beside n s u ∧
            u.account n = { a with state := .lost } := by
        refine ⟨v.loseLathe n a.resume, ?_, beside.trans (beside_loseLathe v n _), by rw [v.loseLathe_account, own]⟩
        rw [State.breakByState_of_stopped (by rw [own]; exact stopped), own]
      have wants : (u.account n).wantsCompare = true := by
        rw [account']
        simp [Account.wantsCompare, current, cradle]
      have used : (u.account n).outAt u.now = some (a.used s.now held left cyc) := by
        rw [account', beside'.now]
        exact Account.outAt_used (a := { a with state := .lost }) out parts cycle
      rw [if_pos wants] at rearms
      intro due value
      have written := State.rearm_compareOf wants used
      rw [beside'.kept.params, beside'.now] at written
      rw [State.evalHold_compareOf, State.evalHold_sched, State.evalHold_rack, rearms]
      refine ⟨written, fun quiet => ?_, fun reached lacks stock busy deferred i slot => ?_⟩
      · rw [State.rearm_of_quiet wants used (by
          rw [beside'.kept.params, beside'.now, beside'.hasJob, account']
          exact quiet)]
        exact ⟨beside'.sched, beside'.rack⟩
      · obtain ⟨g, program⟩ := Option.isSome_iff_exists.1 program
        rw [State.evalHold_job, State.rearm_of_fired wants used (by
          rw [beside'.kept.params, beside'.now]; exact reached) ((beside'.hasJob n _).trans lacks)
          (by rw [account']; exact stock) (beside'.shuttleFree.trans busy)]
        let w := u.setCompare n (.written (a.used s.now held left cyc - BitVec.ofNat 32 u.params.lookahead) u.now)
        have besides : Beside n s w := beside'.trans (beside_setCompare n u _)
        obtain ⟨made, -⟩ := State.request_deliver_made (s := w) (n := n) (g := g)
          (show (u.account n).program = some g by rw [account']; exact program) ((besides.hasJob n _).trans lacks)
          (besides.emptySlot.trans slot) (by rw [besides.sched]; exact deferred)
        refine ⟨_, made, rfl, rfl, rfl, rfl, ?_, besides.now⟩
        exact Account.deliverDeadline_of_out (show (u.account n).current = some cur by rw [account']; exact current) used
    · have plain := State.breakByState_of_plain (v := v) (n := n) (by rw [own]; exact loading) (by rw [own]; exact stopped)
      rw [State.evalHold_sched, State.evalHold_compareOf, plain]
      split
      · exact ⟨beside.sched, compare⟩
      · exact ⟨(beside_loseLathe v n _).sched.trans beside.sched, (v.loseLathe_compareOf n _).trans compare⟩
    · rw [State.evalHold_account_ne _ _ _ (Ne.symm other), accounts m other, beside.accounts m other]
    · rw [State.evalHold_lane, bars, beside.lane]

end Sys2Proof.Machine

/-! PROOFS. SETUP accepted: the program installed and the jobs that follow it (R10, R11). -/
namespace Sys2Proof.Machine

open Sys2Proof

/-! ### The events of a cancellation (R80, R95, R97, R109, R110) -/

section Posts
variable {K : EventKind → Prop} {s : State} {n : Lathe} {i : Slot} {j : Job}

theorem posts_serveFrom (noStock : K .noStock) (s : State) (l : List (Lathe × JobKind)) : Posts K s (s.serveFrom l) := by
  induction l with
  | nil => exact posts_of_events rfl
  | cons entry l ih =>
    obtain ⟨n, k⟩ := entry
    unfold State.serveFrom
    split
    · split
      · exact (posts_of_events rfl).trans (posts_createIn _ noStock _ n k)
      · exact .refl s
    · exact ih

theorem State.present_events (k : LaneNo) (fuel : Nat) (s : State) : (State.present k fuel s).events = s.events := by
  induction fuel generalizing s with
  | zero => rfl
  | succ fuel ih =>
    unfold State.present
    split
    · split
      · exact (ih _).trans rfl
      · rfl
    · rfl

theorem State.stockGain_events (s : State) (k : LaneNo) : (s.stockGain k).events = s.events := by
  unfold State.stockGain
  split
  · exact State.present_events k 32 s
  · rfl

theorem State.gainOfRelease_events (s : State) (j : Job) : (s.gainOfRelease j).events = s.events := by
  unfold State.gainOfRelease
  split
  · exact s.stockGain_events _
  · rfl

theorem State.releaseClaim_events (s : State) (j : Job) : (s.releaseClaim j).events = s.events := by
  rw [State.releaseClaim_frame]

theorem posts_cancelIdle (noStock : K .noStock) (hj : s.job i = some j) (kind : j.kind ≠ .ret) :
    Posts K s (s.cancelIdle i) := by
  unfold State.cancelIdle
  simp only [hj, State.departed_of_not_ret _ kind]
  have left : Posts K s ((s.releaseClaim j).vacate i).serveDeferred :=
    (posts_of_events (s.releaseClaim_events j)).trans (posts_serveFrom noStock _ _)
  exact ((left.trans (posts_of_events (State.dispatch_events _))).trans
    (posts_of_events (State.gainOfRelease_events _ j))).trans (posts_of_events (State.dispatch_events _))

theorem State.removedFrom_events (s : State) (i : Slot) (j : Job) : (s.removedFrom i j).events = s.events := by
  rw [State.removedFrom_frame]

theorem posts_removeActive (noStock : K .noStock) (hj : s.job i = some j) (kind : j.kind ≠ .ret) :
    Posts K s (s.removeActive i) := by
  unfold State.removeActive
  simp only [hj, State.departed_of_not_ret _ kind]
  exact (((posts_of_events (s.removedFrom_events i j)).trans (posts_serveFrom noStock _ _)).trans
    (posts_of_events (State.gainOfRelease_events _ j))).trans (posts_of_events (State.dispatch_events _))

theorem posts_cancelDeliver (noStock : K .noStock) (mark : CancelMark) : Posts K s (s.cancelDeliver n mark) := by
  unfold State.cancelDeliver
  split
  · exact .refl s
  · next i has =>
    obtain ⟨j, hj, -, kind⟩ := State.findJob_spec has
    have kind : j.kind ≠ .ret := by rw [kind]; decide
    simp only [hj]
    split
    · split
      · split
        · exact posts_of_events rfl
        · exact posts_removeActive noStock hj kind
      · split
        · exact posts_of_events rfl
        · exact .refl s
    · exact posts_cancelIdle noStock hj kind

theorem posts_checkCradle (noStock : K .noStock) (g : Program) : Posts K s (s.checkCradle n g) := by
  unfold State.checkCradle
  split
  · split
    · exact posts_request_dispatch s noStock n _
    · exact .refl s
  · exact .refl s

theorem posts_checkTray (noStock : K .noStock) : Posts K s (s.checkTray n) := by
  unfold State.checkTray
  dsimp only
  split
  · exact (posts_of_events ((State.dispatch_events _).trans (s.evalBinBlock_events _))).trans
      (posts_checkThreshold _ noStock n)
  · exact posts_checkThreshold s noStock n

end Posts

/-! ### Jobs that keep their slots -/

/-- Every job keeps its slot with its kind and its lathe, and every deferral stands. -/
structure JobsStay (s t : State) : Prop where
  job : ∀ i j, s.job i = some j → ∃ j', t.job i = some j' ∧ j'.kind = j.kind ∧ j'.lathe = j.lathe
  deferred : ∀ e ∈ s.sched.deferred, e ∈ t.sched.deferred

section JobsStay
variable {s t u : State} {n : Lathe} {i : Slot} {j : Job}

theorem jobsStay_of_slots (slots : ∀ i, t.job i = s.job i) (deferred : t.sched.deferred = s.sched.deferred) :
    JobsStay s t := ⟨fun i j hj => ⟨j, (slots i).trans hj, rfl, rfl⟩, fun _ h => deferred ▸ h⟩

theorem jobsStay_of_sched (h : t.sched = s.sched) : JobsStay s t :=
  jobsStay_of_slots (fun i => congrArg (fun x => x.slots.read i) h) (congrArg (·.deferred) h)

theorem JobsStay.trans (h : JobsStay s t) (k : JobsStay t u) : JobsStay s u where
  job i j hj := by
    obtain ⟨j', hj', kind, lathe⟩ := h.job i j hj
    obtain ⟨j'', hj'', kind', lathe'⟩ := k.job i j' hj'
    exact ⟨j'', hj'', kind'.trans kind, lathe'.trans lathe⟩
  deferred e he := k.deferred e (h.deferred e he)

theorem jobsStay_write {x : Job} {sched : Schedule} (same : ∀ j, s.job i = some j → x.kind = j.kind ∧ x.lathe = j.lathe)
    (slots : sched.slots = s.sched.slots.write i (some x)) (deferred : sched.deferred = s.sched.deferred) :
    JobsStay s (s.setSched sched) where
  job k j hj := by
    have job : (s.setSched sched).job k = if i = k then some x else s.job k := by
      change sched.slots.read k = _
      rw [slots, Bank.read_write]
      rfl
    by_cases own : i = k
    · subst own
      exact ⟨x, job.trans (if_pos rfl), same j hj⟩
    · exact ⟨j, (job.trans (if_neg own)).trans hj, rfl, rfl⟩
  deferred e he := by
    change e ∈ sched.deferred
    exact deferred ▸ he

theorem jobsStay_setSlot {x : Job} (hj : s.job i = some j) (kind : x.kind = j.kind) (lathe : x.lathe = j.lathe) :
    JobsStay s (s.setSlot i (some x)) :=
  jobsStay_write (fun k hk => by rw [hj] at hk; cases hk; exact ⟨kind, lathe⟩) rfl rfl

theorem jobsStay_updateJob (f : Job → Job) (kind : ∀ j, (f j).kind = j.kind) (lathe : ∀ j, (f j).lathe = j.lathe) :
    JobsStay s (s.updateJob i f) := by
  cases hj : s.job i with
  | none =>
    refine jobsStay_of_slots (fun k => ?_) rfl
    rw [State.updateJob, State.setSlot_job, hj]
    split
    · next own => rw [← own, hj]; rfl
    · rfl
  | some j =>
    rw [State.updateJob, hj]
    exact jobsStay_setSlot hj (kind j) (lathe j)

theorem State.checkAndIssue_sched (s : State) : s.checkAndIssue.sched = s.sched := by
  have issued (j : Job) (o : Order) : (s.issueStep j o).sched = s.sched := by
    unfold State.issueStep State.holdInFlight
    split <;> rfl
  unfold State.checkAndIssue
  split
  · rfl
  · split
    · rfl
    · split
      · rfl
      · split
        · split
          · exact issued _ _
          · exact State.post_sched _ _
        · split
          · exact issued _ _
          · exact State.post_sched _ _
        · exact issued _ _

theorem jobsStay_dispatch (s : State) : JobsStay s s.dispatch := by
  have started (s : State) (i : Slot) : JobsStay s (s.startJob i) :=
    (jobsStay_updateJob (fun j => { j with state := .active, block := .none, step := .one, short := false })
      (fun _ => rfl) fun _ => rfl).trans (jobsStay_of_sched (State.checkAndIssue_sched _))
  unfold State.dispatch
  split
  · split
    · next i rest _ =>
      have popped : JobsStay s (s.setSched { s.sched with stack := rest }) := jobsStay_of_slots (fun _ => rfl) rfl
      exact popped.trans (started _ i)
    · split
      · exact started s _
      · exact .trans (jobsStay_of_sched rfl) (jobsStay_of_sched rfl)
  · exact jobsStay_of_sched rfl

theorem jobsStay_takeClaim (i : Slot) (k : LaneNo) : JobsStay s (s.takeClaim i k) := by
  have claimed : JobsStay s (s.setLane k { s.lane k with claimed := (s.lane k).claimed + 1 }) := jobsStay_of_sched rfl
  exact claimed.trans (jobsStay_updateJob (fun j => { j with lane := some k, claim := true, block := .none }) (fun _ => rfl) fun _ => rfl)

theorem jobsStay_enterNoStock (i : Slot) : JobsStay s (s.enterNoStock i) := by
  unfold State.enterNoStock
  split
  · exact jobsStay_of_sched rfl
  · next j hj =>
    exact .trans (jobsStay_setSlot hj (by rfl) (by rfl)) (jobsStay_of_sched (State.post_sched _ _))

theorem jobsStay_evalBinBlock (i : Slot) : JobsStay s (s.evalBinBlock i) := by
  unfold State.evalBinBlock
  split
  · exact jobsStay_of_sched rfl
  · next j hj =>
    split
    · exact jobsStay_of_sched rfl
    · split
      · exact jobsStay_of_sched rfl
      · split
        · split
          · exact jobsStay_of_sched rfl
          · exact jobsStay_setSlot hj rfl rfl
        · split
          · exact jobsStay_of_sched rfl
          · exact jobsStay_write (fun k hk => by rw [hj] at hk; cases hk; exact ⟨rfl, rfl⟩) rfl rfl
        · exact jobsStay_of_sched rfl

theorem jobsStay_createIn (empty : s.job i = none) (n : Lathe) (k : JobKind) : JobsStay s (s.createIn i n k) := by
  have placed (x : Job) (id : Nat) :
      JobsStay s (s.setSched { s.sched with slots := s.sched.slots.write i (some x), lastJobId := id }) :=
    jobsStay_write (fun j hj => by rw [empty] at hj; cases hj) rfl rfl
  unfold State.createIn
  dsimp only
  split
  · exact jobsStay_of_sched rfl
  · split
    · split
      · exact (placed _ _).trans (jobsStay_takeClaim _ _)
      · exact (placed _ _).trans (jobsStay_enterNoStock _)
    · exact (placed _ _).trans (jobsStay_evalBinBlock _)
    · exact placed _ _

theorem jobsStay_request (n : Lathe) (k : JobKind) : JobsStay s (s.request n k) := by
  have deferred : JobsStay s (s.defer n k) := by
    unfold State.defer
    split
    · exact jobsStay_of_sched rfl
    · exact ⟨fun i j hj => ⟨j, hj, rfl, rfl⟩, fun e he => List.mem_append_left _ he⟩
  unfold State.request
  split
  · exact jobsStay_of_sched rfl
  · split
    · exact deferred
    · next i slot =>
      split
      · exact jobsStay_createIn (State.emptySlot_spec slot) n k
      · exact deferred

theorem jobsStay_checkCradle (g : Program) : JobsStay s (s.checkCradle n g) := by
  unfold State.checkCradle
  split
  · split
    · exact (jobsStay_request _ _).trans (jobsStay_dispatch _)
    · exact jobsStay_of_sched rfl
  · exact jobsStay_of_sched rfl

theorem jobsStay_checkThreshold (n : Lathe) : JobsStay s (s.checkThreshold n) := by
  unfold State.checkThreshold
  split
  · split
    · exact (jobsStay_request _ _).trans (jobsStay_dispatch _)
    · exact jobsStay_of_sched rfl
  · exact jobsStay_of_sched rfl

theorem jobsStay_checkTray (n : Lathe) : JobsStay s (s.checkTray n) := by
  unfold State.checkTray
  dsimp only
  split
  · exact ((jobsStay_evalBinBlock _).trans (jobsStay_dispatch _)).trans (jobsStay_checkThreshold n)
  · exact jobsStay_checkThreshold n

theorem JobsStay.hasJob {k : JobKind} (h : JobsStay s t) (has : s.hasJob n k = true) : t.hasJob n k = true := by
  obtain ⟨i, found⟩ := Option.isSome_iff_exists.1 has
  obtain ⟨j, hj, lathe, kind⟩ := State.findJob_spec found
  obtain ⟨j', hj', kind', lathe'⟩ := h.job i j hj
  rw [State.hasJob, State.findJob, List.find?_isSome]
  refine ⟨i, List.mem_finRange i, ?_⟩
  simp [State.isJobOf, hj', kind', lathe', kind, lathe]

/-- A lathe that has a job, or a deferred request for one, keeps it. -/
theorem JobsStay.asked {k : JobKind} (h : JobsStay s t)
    (asked : s.hasJob n k = true ∨ (n, k) ∈ s.sched.deferred) : t.hasJob n k = true ∨ (n, k) ∈ t.sched.deferred := by
  rcases asked with has | waits
  · exact .inl (h.hasJob has)
  · exact .inr (h.deferred _ waits)

end JobsStay

/-! ### The checks of the cradle and the tray (R11) -/

section Checks
variable {s u : State} {n : Lathe} {i : Slot} {j : Job} {g : Program}

theorem State.checkCradle_of_kept
    (h : ∀ c, (s.account n).cradle = some c → g.unsuitable c.bar = false ∨ s.hasJob n .ret = true)
    (busy : s.shuttleFree = false) : s.checkCradle n g = s := by
  unfold State.checkCradle
  split
  · next c cradle =>
    rcases h c cradle with suits | has
    · simp [suits]
    · rw [State.request_of_has has, State.dispatch_of_busy busy, ite_self]
  · rfl

theorem State.checkCradle_of_unsuitable {c : CradleBar} (cradle : (s.account n).cradle = some c)
    (unsuitable : g.unsuitable c.bar = true) (busy : s.shuttleFree = false) :
    s.checkCradle n g = s.request n .ret := by
  simp only [State.checkCradle, cradle, unsuitable, if_true]
  exact State.request_dispatch_of_busy busy n _

theorem State.request_ret_eq {p : Program} (program : (s.account n).program = some p)
    (lacks : s.hasJob n .ret = false) (slot : s.emptySlot = some i) (deferred : s.sched.deferred = []) :
    s.request n .ret = s.setSched
      { s.sched with
        slots := s.sched.slots.write i
          (some (madeJob s.nextJobId .ret n s.now (s.now + BitVec.ofNat 32 s.params.preemptMargin)))
        lastJobId := s.nextJobId } := by
  rw [State.request_of_room lacks slot deferred]
  simp only [State.createIn, program]
  rfl

theorem State.checkTray_of_none (lacks : s.findJob n .collect = none) : s.checkTray n = s.checkThreshold n := by
  simp only [State.checkTray, lacks]

theorem State.checkTray_of_has (has : s.findJob n .collect = some i) (busy : s.shuttleFree = false) :
    s.checkTray n = s.evalBinBlock i := by
  have keeps := PlanReach.keeps (plan_evalBinBlock s i)
  have stays : (s.evalBinBlock i).hasJob n .collect = true :=
    (jobsStay_evalBinBlock i).hasJob (by rw [State.hasJob, has]; rfl)
  simp only [State.checkTray, has]
  rw [State.dispatch_of_busy (keeps.shuttleFree.trans busy), State.checkThreshold_of_has stays]

/-- The block of a WAITING COLLECT job evaluated (R100). -/
theorem State.evalBinBlock_sched {k : BinNo} {p : Program} (hj : s.job i = some j) (bin : j.bin = some k)
    (kind : j.kind = .collect) (waits : j.state = .waiting)
    (block : j.block = .none ∨ j.block = .binFull ∨ j.block = .binClosed)
    (lathe : j.lathe = n) (program : (s.account n).program = some p) :
    (s.evalBinBlock i).sched =
      { s.sched with slots := s.sched.slots.write i (some { j with block := gateOf (s.bin k) p.capacity }) } := by
  have other : (j.block == .guardParked || j.block == .noStock) = false := by
    rcases block with h | h | h <;> rw [h] <;> rfl
  have collects : (j.kind != .collect) = false := by rw [kind]; rfl
  unfold State.evalBinBlock
  simp only [hj, bin, waits]
  have gate : s.gate j.lathe k = gateOf (s.bin k) p.capacity := by
    rw [State.gate, lathe, program]
    exact (s.bin k).gate_eq p.capacity
  rw [if_neg (by rw [collects]; decide), if_neg (by rw [other]; decide), gate]
  simp only [← bin, ← waits]
  rfl

/-- Jobs of a kind are found where they were, when a slot without one takes another that is none. -/
theorem State.findJob_of_written {x : Option Job} {sched : Schedule} {k : JobKind} (m : Lathe)
    (old : ∀ j, s.job i = some j → j.kind ≠ k) (new : ∀ j, x = some j → j.kind ≠ k)
    (slots : sched.slots = s.sched.slots.write i x) : (s.setSched sched).findJob m k = s.findJob m k := by
  have misses (y : Option Job) : (∀ j, y = some j → j.kind ≠ k) →
      (match y with | some j => j.lathe == m && j.kind == k | none => false) = false := by
    intro h
    cases y with
    | none => rfl
    | some j => simp [h j rfl]
  have same (i' : Slot) : (s.setSched sched).isJobOf m k i' = s.isJobOf m k i' := by
    have job : (s.setSched sched).job i' = if i = i' then x else s.job i' := by
      change sched.slots.read i' = _
      rw [slots, Bank.read_write]
      rfl
    unfold State.isJobOf
    rw [job]
    by_cases own : i = i'
    · subst own
      rw [if_pos rfl]
      exact (misses _ new).trans (misses _ old).symm
    · rw [if_neg own]
  unfold State.findJob
  congr 1
  funext i'
  exact same i'

/-- Without a current bar a recomputation leaves the compare disarmed, and of the jobs' deadlines moves the COLLECT
job's alone (R43 to R48). -/
theorem State.recompute_of_barless (barless : (u.account n).current = none) :
    ∃ x, u.recompute n = (x.rewriteCollect n, false) ∧ Beside n u x ∧ x.account n = (u.account n).predicted u.now := by
  have unwanted : ((u.predicts n).account n).wantsCompare = false := by
    rw [u.predicts_account]
    simp [Account.wantsCompare, Account.predicted, barless]
  have written := State.writeCompare_of_unwanted unwanted
  have account : (((u.predicts n).writeCompare n).1).account n = (u.account n).predicted u.now := by
    rw [State.account, State.writeCompare_accounts]
    exact u.predicts_account n
  refine ⟨((u.predicts n).writeCompare n).1, ?_, (beside_setAccount n u _).trans (beside_writeCompare n _), account⟩
  have stays : ((u.predicts n).writeCompare n).1.rewriteDeliver n = ((u.predicts n).writeCompare n).1 :=
    State.rewriteDeliver_of_empty (by rw [account]; exact barless)
  change (_, _) = _
  rw [show ((u.setAccount n ((u.account n).predicted u.now)).writeCompare n) = (u.predicts n).writeCompare n from rfl,
    stays, written]

theorem State.setDeadline_job_isSome (i k : Slot) (t : Time) : ((s.setDeadline i t).job k).isSome = (s.job k).isSome := by
  by_cases own : i = k
  · subst own
    rw [State.setDeadline, State.updateJob, State.setSlot_job_self, Option.isSome_map]
  · rw [State.setDeadline_job_ne own]

theorem State.setDeadline_emptySlot (i : Slot) (t : Time) : (s.setDeadline i t).emptySlot = s.emptySlot := by
  unfold State.emptySlot
  congr 1
  funext k
  rw [← Option.not_isSome, ← Option.not_isSome, State.setDeadline_job_isSome]

theorem State.setDeadline_nextJobId (i : Slot) (t : Time) : (s.setDeadline i t).nextJobId = s.nextJobId := by
  have ids : (s.setDeadline i t).jobIds = s.jobIds := by
    unfold State.jobIds
    congr 1
    funext k
    by_cases own : i = k
    · subst own
      rw [State.setDeadline, State.updateJob, State.setSlot_job_self]
      cases s.job i <;> rfl
    · rw [State.setDeadline_job_ne own]
  rw [State.nextJobId, ids]
  rfl

/-- What a rewritten COLLECT deadline leaves for a creation. -/
theorem State.rewriteCollect_frame (s : State) (n : Lathe) :
    (∀ m k, (s.rewriteCollect n).findJob m k = s.findJob m k) ∧ (s.rewriteCollect n).emptySlot = s.emptySlot ∧
      (s.rewriteCollect n).nextJobId = s.nextJobId ∧ (s.rewriteCollect n).sched.deferred = s.sched.deferred ∧
      (s.rewriteCollect n).rack = s.rack := by
  unfold State.rewriteCollect
  split
  · next i t _ _ =>
    exact ⟨fun m k => State.setDeadline_findJob i t m k, State.setDeadline_emptySlot i t, State.setDeadline_nextJobId i t,
      rfl, rfl⟩
  · exact ⟨fun _ _ => rfl, rfl, rfl, rfl, rfl⟩

end Checks

/-! ### SETUP up to the lathe's jobs (R10) -/

section Setup
variable {s : State} {n : Lathe} {m : SetupMsg}

/-- The account with the program installed and its new state. -/
def State.setupAccount (s : State) (n : Lathe) (m : SetupMsg) : Account :=
  { (s.account n).install m s.timer.sel s.now with state := (s.account n).state.afterSetup m.remaining.isSome }

/-- What a SETUP has done before the predictions are formed. -/
structure SetupBefore (n : Lathe) (m : SetupMsg) (s u : State) : Prop where
  beside : Beside n s u
  account : u.account n = s.setupAccount n m
  compare : u.compareOf n = s.compareOf n
  queue : (u.port (lathePort n)).queue = (s.port (lathePort n)).queue ++ [⟨0x41, [0x21]⟩]
  records : s.events.records.length < 64 → u.events.records = s.events.records ++
    (if (s.setupAccount n m).state = (s.account n).state then [] else
      [⟨.latheState, s.now, some n, none, none, none,
        latheStateValue (s.setupAccount n m).state (s.setupAccount n m).resume (s.account n).state⟩])

/-- The jobs after the predictions and before the evaluation of the reasons (R10 step 6, R11). -/
def State.setupJobs (u : State) (n : Lathe) (g : Program) : State :=
  ((((u.recompute n).1.cancelDeliver n .setup).fireIf n (u.recompute n).2).checkCradle n g).checkTray n

theorem State.acceptSetup_eq (u : State) :
    u.acceptSetup n m =
      (((u.setAccount n ((u.account n).install m u.timer.sel u.now)).goTo n
        ((u.account n).state.afterSetup m.remaining.isSome)).setupJobs n (heldProgram m)).evalHold n := rfl

theorem State.handleSetup_of_ok (ok : s.setupRefusal n m = none) :
    s.handleSetup n m = (s.ack (lathePort n) 0x21).acceptSetup n m := by
  unfold State.handleSetup
  split
  · next c refused => rw [ok] at refused; contradiction
  · rfl

theorem exec_setup_of_ok (free : (s.port (lathePort n)).replyPending = false) (ok : s.setupRefusal n m = none) :
    exec (.setup n m) s = .next ((s.ack (lathePort n) 0x21).acceptSetup n m) := by
  rw [exec_setup, State.taken_of_not_replyPending _ free, State.handleSetup_of_ok ok]

theorem exec_setup_accepted (free : (s.port (lathePort n)).replyPending = false) (ok : s.setupRefusal n m = none) :
    ∃ u, exec (.setup n m) s = .next ((u.setupJobs n (heldProgram m)).evalHold n) ∧ SetupBefore n m s u := by
  have run := exec_setup_of_ok free ok
  rw [State.acceptSetup_eq] at run
  obtain ⟨installed, is, beside, own, compare, port, records⟩ : ∃ u,
      u = (s.ack (lathePort n) 0x21).setAccount n ((s.account n).install m s.timer.sel s.now) ∧ Beside n s u ∧
      u.account n = (s.account n).install m s.timer.sel s.now ∧ u.compareOf n = s.compareOf n ∧
      (u.port (lathePort n)).queue = (s.port (lathePort n)).queue ++ [⟨0x41, [0x21]⟩] ∧ u.events = s.events := by
    refine ⟨_, rfl, (beside_ack n s _ _).trans (beside_setAccount n _ _), State.setAccount_account_self _ _ _, rfl, ?_,
      rfl⟩
    rw [State.setAccount_port, State.ack_lathePort, State.reply_port_self]
  have state : (installed.account n).state = (s.account n).state := by rw [own]; rfl
  refine ⟨installed.goTo n ((s.account n).state.afterSetup m.remaining.isSome), ?_, beside.trans (beside_goTo n _ _),
    ?_, ?_, ?_, fun room => ?_⟩
  · rw [run, is]
    rfl
  · rw [State.goTo_account_self, own, State.setupAccount]
  · rw [State.goTo_compareOf, compare]
  · rw [State.goTo_port, port]
  · by_cases same : (s.setupAccount n m).state = (s.account n).state
    · have stays : installed.goTo n ((s.account n).state.afterSetup m.remaining.isSome) = installed := by
        unfold State.goTo
        exact if_pos (state.trans same.symm)
      rw [if_pos same, stays, List.append_nil, records]
    · rw [if_neg same, State.goTo_records installed n _ (by rw [state]; exact Ne.symm same)
        (by rw [records]; exact room), records, own, beside.now]
      rfl

theorem sched_setupJobs (u : State) (n : Lathe) (g : Program) :
    SchedReach ((u.predicts n).writeCompare n).1 (u.setupJobs n g) :=
  (((((PlanReach.toSched ((plan_rewriteDeliver _ n).trans (plan_rewriteCollect _ n))).trans
    (sched_cancelDeliver _ n _)).trans (sched_fireIf _ n _)).trans (sched_checkCradle _ n g)).trans (sched_checkTray _ n))

theorem posts_setupJobs (u : State) (n : Lathe) (g : Program) : Posts (· = .noStock) u (u.setupJobs n g) :=
  let k : (· = EventKind.noStock) .noStock := rfl
  ((((posts_of_events (u.recompute_events n)).trans (posts_cancelDeliver (K := (· = .noStock)) k .setup)).trans
    (posts_fireIf (K := (· = .noStock)) _ k n _)).trans (posts_checkCradle (K := (· = .noStock)) k g)).trans
      (posts_checkTray (K := (· = .noStock)) k)

end Setup

/-! ### The lathe's jobs after SETUP (R10 step 6, R11) -/

section SetupJobs
variable {s u : State} {n : Lathe} {i : Slot} {j : Job} {g p : Program} {c : CurrentBar} {cyc : Nat}

theorem State.hasJob_of_job {k : JobKind} (hj : s.job i = some j) (lathe : j.lathe = n) (kind : j.kind = k) :
    s.hasJob n k = true := by
  rw [State.hasJob, State.findJob, List.find?_isSome]
  refine ⟨i, List.mem_finRange i, ?_⟩
  simp [State.isJobOf, hj, lathe, kind]

theorem State.defer_asked (s : State) (n : Lathe) (k : JobKind) : (n, k) ∈ (s.defer n k).sched.deferred := by
  unfold State.defer
  split
  · next waits => exact waits
  · exact List.mem_append_right _ (List.mem_singleton_self _)

theorem State.request_asked (program : (s.account n).program = some p) :
    (s.request n .deliver).hasJob n .deliver = true ∨ (n, JobKind.deliver) ∈ (s.request n .deliver).sched.deferred := by
  cases has : s.hasJob n .deliver with
  | true => exact .inl (by rw [State.request_of_has has, has])
  | false =>
    cases slot : s.emptySlot with
    | none => exact .inr (by rw [State.request_of_full has slot]; exact s.defer_asked n _)
    | some i =>
      cases deferred : s.sched.deferred with
      | nil =>
        obtain ⟨made, -⟩ := State.request_deliver_made program has slot deferred
        exact .inl (State.hasJob_of_job made rfl rfl)
      | cons e l =>
        have waits : s.request n .deliver = s.defer n .deliver := by simp [State.request, has, slot, deferred]
        exact .inr (by rw [waits]; exact s.defer_asked n _)

/-- A compare that fired leaves its lathe with a DELIVER job or a deferred request for one (R46, R92). -/
theorem State.deliverOnFire_asked (stock : (s.account n).stockShort = false) (program : (s.account n).program = some p) :
    (s.deliverOnFire n).hasJob n .deliver = true ∨ (n, JobKind.deliver) ∈ (s.deliverOnFire n).sched.deferred := by
  cases has : s.hasJob n .deliver with
  | true => exact .inl (by rw [State.deliverOnFire_of_has (.inl has), has])
  | false =>
    rw [State.deliverOnFire_of_none has stock]
    exact (jobsStay_dispatch _).asked (State.request_asked program)

theorem State.recompute_account (u : State) (n : Lathe) :
    (u.recompute n).1.account n = (u.account n).predicted u.now := by
  obtain ⟨x, eq, -, account⟩ := u.recompute_state n
  rw [eq, (PlanReach.keeps ((plan_rewriteDeliver x n).trans (plan_rewriteCollect _ n))).account, account]

theorem setupJobs_asked (fired : (u.recompute n).2 = true) (stock : (u.account n).stockShort = false)
    (program : (u.account n).program = some p) :
    (u.setupJobs n g).hasJob n .deliver = true ∨ (n, JobKind.deliver) ∈ (u.setupJobs n g).sched.deferred := by
  have account := u.recompute_account n
  unfold State.setupJobs
  rw [fired]
  generalize (u.recompute n).1 = y at account
  have account := (SchedReach.keeps (sched_cancelDeliver y n .setup)).account n |>.trans account
  generalize y.cancelDeliver n .setup = z at account
  exact ((jobsStay_checkCradle g).trans (jobsStay_checkTray n)).asked
    (State.deliverOnFire_asked (by rw [account]; exact stock) (by rw [account]; exact program))

/-- The checks of the cradle and the tray leave a DELIVER job as it is. -/
theorem State.checks_job_deliver (busy : s.shuttleFree = false) (hj : s.job i = some j) (kind : j.kind = .deliver) :
    ((s.checkCradle n g).checkTray n).job i = some j := by
  have cradle : (s.checkCradle n g).job i = some j ∧ (s.checkCradle n g).shuttleFree = false := by
    unfold State.checkCradle
    split
    · split
      · rw [State.request_dispatch_of_busy busy]
        exact ⟨State.request_job_of_some _ hj, (State.request_shuttleFree s n _).trans busy⟩
      · exact ⟨hj, busy⟩
    · exact ⟨hj, busy⟩
  generalize s.checkCradle n g = w at cradle
  obtain ⟨stays, busy'⟩ := cradle
  cases collect : w.findJob n .collect with
  | none =>
    rw [State.checkTray_of_none collect]
    exact State.checkThreshold_job_of_some busy' stays
  | some k =>
    rw [State.checkTray_of_has collect busy', State.evalBinBlock_job_ne]
    · exact stays
    · intro own
      obtain ⟨j', hj', -, kind'⟩ := State.findJob_spec collect
      rw [own, stays] at hj'
      cases hj'
      rw [kind] at kind'
      cases kind'

/-- The DELIVER job that the compare asks for at SETUP stays as it was made (R46, R93). -/
theorem setupJobs_made (program : (u.account n).program = some g) (current : (u.account n).current = some c)
    (cycle : (u.account n).cycle = some cyc) (stock : (u.account n).stockShort = false)
    (fired : (u.recompute n).2 = true) (lacks : u.findJob n .deliver = none) (slot : u.emptySlot = some i)
    (deferred : u.sched.deferred = []) (busy : u.shuttleFree = false) :
    (u.setupJobs n g).job i = some
      { madeJob u.nextJobId .deliver n u.now (predict ((u.account n).tLast.read u.now) (g.partsLeft c.remaining) cyc) with
        lane := u.claimLane g, claim := (u.claimLane g).isSome
        block := if u.claimLane g = none then .noStock else .none } := by
  obtain ⟨x, eq, beside, account⟩ := u.recompute_state n
  have same : x.rewriteDeliver n = x := by
    simp only [State.rewriteDeliver, (beside.findJob n .deliver).trans lacks]
  rw [same] at eq
  obtain ⟨finds, slots, ids, defers, rack⟩ := x.rewriteCollect_frame n
  have keeps := PlanReach.keeps (plan_rewriteCollect x n)
  generalize x.rewriteCollect n = y at eq finds slots ids defers rack keeps
  have lacks' : y.findJob n .deliver = none := (finds n _).trans ((beside.findJob n _).trans lacks)
  have own : y.account n = (u.account n).predicted u.now := (keeps.account n).trans account
  have busy' : y.shuttleFree = false := keeps.shuttleFree.trans (beside.shuttleFree.trans busy)
  have hasNot := State.hasJob_of_findJob lacks'
  have clock : y.now = u.now := (keeps.kept.now).trans beside.now
  obtain ⟨made, -⟩ := State.request_deliver_made (s := y) (n := n) (by rw [own]; exact program) hasNot
    (slots.trans (beside.emptySlot.trans slot)) (defers.trans (by rw [beside.sched]; exact deferred))
  have claim : y.claimLane g = u.claimLane g := by
    rw [← beside.claimLane g]
    unfold State.claimLane State.lane
    rw [rack]
  have due : (y.account n).deliverDeadline y.now =
      predict ((u.account n).tLast.read u.now) (g.partsLeft c.remaining) cyc := by
    rw [own, clock]
    exact Account.deliverDeadline_of_out current (Account.predicted_outAt program current cycle)
  rw [State.madeDeliver, due, claim, clock, ids, beside.nextJobId] at made
  have fires : ((u.recompute n).1.cancelDeliver n .setup).fireIf n (u.recompute n).2 = y.request n .deliver := by
    rw [fired, eq, State.cancelDeliver_of_none lacks']
    exact State.deliverOnFire_of_busy hasNot (by rw [own]; exact stock) busy'
  have busy'' : (y.request n .deliver).shuttleFree = false := (State.request_shuttleFree y n _).trans busy'
  unfold State.setupJobs
  rw [fires]
  exact State.checks_job_deliver busy'' made rfl

end SetupJobs

/-! ### The schedule after a SETUP that declares no bar (R10, R11) -/

section Barless
variable {u x : State} {n : Lathe} {i : Slot} {j : Job} {g : Program}

/-- The cradle needs no RETURN job: it is empty, holds a suitable bar, or the lathe has one (R11). -/
def State.cradleStands (s : State) (n : Lathe) (g : Program) : Prop :=
  ∀ c, (s.account n).cradle = some c → g.unsuitable c.bar = false ∨ s.hasJob n .ret = true

/-- A SETUP without a bar in the spindle, told from the state `x` after the predictions. -/
structure BarlessSetup (n : Lathe) (g : Program) (u x : State) : Prop where
  beside : Beside n u x
  account : x.account n = (u.account n).predicted u.now
  jobs : u.setupJobs n g = (((x.rewriteCollect n).cancelDeliver n .setup).checkCradle n g).checkTray n

theorem barlessSetup (barless : (u.account n).current = none) (g : Program) : ∃ x, BarlessSetup n g u x := by
  obtain ⟨x, eq, beside, account⟩ := State.recompute_of_barless barless
  refine ⟨x, beside, account, ?_⟩
  unfold State.setupJobs
  rw [eq]
  rfl

variable (h : BarlessSetup n g u x)
include h

theorem BarlessSetup.cradleStands (stands : u.cradleStands n g) : x.cradleStands n g := by
  intro c cradle
  rw [h.account] at cradle
  rw [h.beside.hasJob]
  exact stands c cradle

/-- With nothing to return or to collect the schedule is as the cancellation leaves it. -/
theorem BarlessSetup.sched_of_cancelled {sched : Schedule} (program : (u.account n).program = some g)
    (stands : u.cradleStands n g) (busy : u.shuttleFree = false) (lacks : u.findJob n .collect = none)
    (below : (u.account n).tray < g.threshold) (cancels : x.cancelDeliver n .setup = x.setSched sched)
    (ret : (x.setSched sched).findJob n .ret = x.findJob n .ret)
    (collect : (x.setSched sched).findJob n .collect = x.findJob n .collect) :
    (u.setupJobs n g).sched = sched := by
  have lacks' : x.findJob n .collect = none := (h.beside.findJob n _).trans lacks
  have busy' : (x.setSched sched).shuttleFree = false := h.beside.shuttleFree.trans busy
  have stands' : (x.setSched sched).cradleStands n g := fun c cradle => by
    rw [State.hasJob, ret]
    exact h.cradleStands stands c cradle
  have own : (x.setSched sched).account n = (u.account n).predicted u.now := h.account
  rw [h.jobs, State.rewriteCollect_of_none lacks', cancels, State.checkCradle_of_kept stands' busy',
    State.checkTray_of_none (collect.trans lacks'),
    State.checkThreshold_of_below (by rw [own]; exact program) (by rw [own]; exact below)]
  rfl

theorem BarlessSetup.sched_of_none (program : (u.account n).program = some g) (stands : u.cradleStands n g)
    (busy : u.shuttleFree = false) (lacks : u.findJob n .collect = none) (below : (u.account n).tray < g.threshold)
    (lacks' : u.findJob n .deliver = none) : (u.setupJobs n g).sched = u.sched := by
  rw [h.sched_of_cancelled program stands busy lacks below
    (State.cancelDeliver_of_none ((h.beside.findJob n _).trans lacks')) rfl rfl, h.beside.sched]

theorem BarlessSetup.sched_of_idle (program : (u.account n).program = some g) (stands : u.cradleStands n g)
    (busy : u.shuttleFree = false) (lacks : u.findJob n .collect = none) (below : (u.account n).tray < g.threshold)
    (has : u.findJob n .deliver = some i) (hj : u.job i = some j) (idle : j.state ≠ .active) (claim : j.claim = false)
    (deferred : u.sched.deferred = []) :
    (u.setupJobs n g).sched = { u.sched with slots := u.sched.slots.write i none, stack := u.sched.stack.erase i } := by
  have hj' := (h.beside.job i).trans hj
  have has' := (h.beside.findJob n .deliver).trans has
  obtain ⟨_, found, -, kind⟩ := State.findJob_spec has
  rw [hj] at found
  cases found
  have cancels : x.cancelDeliver n .setup =
      x.setSched { x.sched with slots := x.sched.slots.write i none, stack := x.sched.stack.erase i } := by
    rw [State.cancelDeliver_of_idle has' hj' idle, State.cancelIdle_eq hj' (by rw [kind]; decide)
      (h.beside.shuttleFree.trans busy) (by rw [h.beside.sched]; exact deferred)
      (fun k claimed => by rw [claim] at claimed; cases claimed), State.releaseClaim_of_none claim]
    rfl
  have delivers {k : JobKind} (other : .deliver ≠ k) : ∀ j', x.job i = some j' → j'.kind ≠ k := fun j' e => by
    rw [hj'] at e
    cases e
    rw [kind]
    exact other
  rw [h.sched_of_cancelled program stands busy lacks below cancels
    (State.findJob_of_written (x := none) n (delivers (by decide)) (fun _ e => by cases e) rfl)
    (State.findJob_of_written (x := none) n (delivers (by decide)) (fun _ e => by cases e) rfl), h.beside.sched]

theorem BarlessSetup.sched_of_under_way (program : (u.account n).program = some g) (stands : u.cradleStands n g)
    (busy : u.shuttleFree = false) (lacks : u.findJob n .collect = none) (below : (u.account n).tray < g.threshold)
    (has : u.findJob n .deliver = some i) (hj : u.job i = some j) (active : j.state = .active)
    (load : u.shuttle.load = .none) (phase : u.seq.phase = .outstanding) :
    (u.setupJobs n g).sched = { u.sched with slots := u.sched.slots.write i (some { j with cancel := .setup }) } := by
  have hj' := (h.beside.job i).trans hj
  have has' := (h.beside.findJob n .deliver).trans has
  obtain ⟨_, found, -, kind⟩ := State.findJob_spec has
  rw [hj] at found
  cases found
  have cancels : x.cancelDeliver n .setup =
      x.setSched { x.sched with slots := x.sched.slots.write i (some { j with cancel := .setup }) } :=
    State.cancelDeliver_of_under_way has' hj' active (by rw [h.beside.shuttle]; exact load)
      (by rw [h.beside.seq]; exact phase)
  have delivers {k : JobKind} {y : Option Job} (other : .deliver ≠ k) (is : ∀ j', y = some j' → j'.kind = .deliver) :
      ∀ j', y = some j' → j'.kind ≠ k := fun j' e => by
    rw [is j' e]
    exact other
  have old : ∀ j', x.job i = some j' → j'.kind = .deliver := fun j' e => by
    rw [hj'] at e
    cases e
    exact kind
  have new : ∀ j', some { j with cancel := .setup } = some j' → j'.kind = .deliver := fun _ e => by cases e; exact kind
  rw [h.sched_of_cancelled program stands busy lacks below cancels
    (State.findJob_of_written n (delivers (by decide) old) (delivers (by decide) new) rfl)
    (State.findJob_of_written n (delivers (by decide) old) (delivers (by decide) new) rfl), h.beside.sched]

/-- An unsuitable cradle bar gets its RETURN job (R11, R93). -/
theorem BarlessSetup.sched_of_return {c : CradleBar} (program : (u.account n).program = some g)
    (busy : u.shuttleFree = false) (deferred : u.sched.deferred = []) (lacks : u.findJob n .collect = none)
    (below : (u.account n).tray < g.threshold) (lacks' : u.findJob n .deliver = none)
    (cradle : (u.account n).cradle = some c) (unsuitable : g.unsuitable c.bar = true)
    (free : u.hasJob n .ret = false) (slot : u.emptySlot = some i) :
    (u.setupJobs n g).sched = { u.sched with
      slots := u.sched.slots.write i
        (some (madeJob u.nextJobId .ret n u.now (u.now + BitVec.ofNat 32 u.params.preemptMargin)))
      lastJobId := u.nextJobId } := by
  have lacks'' : x.findJob n .collect = none := (h.beside.findJob n _).trans lacks
  have busy' := h.beside.shuttleFree.trans busy
  have made := State.request_ret_eq (s := x) (n := n) (by rw [h.account]; exact program)
    ((h.beside.hasJob n _).trans free) (h.beside.emptySlot.trans slot) (by rw [h.beside.sched]; exact deferred)
  have lacksAfter : (x.request n .ret).findJob n .collect = none := by
    rw [made, State.findJob_of_written n (fun j e => ?_) (fun j e => ?_) rfl]
    · exact lacks''
    · rw [State.emptySlot_spec (h.beside.emptySlot.trans slot)] at e
      cases e
    · cases e
      exact show JobKind.ret ≠ JobKind.collect by decide
  have own : (x.request n .ret).account n = (u.account n).predicted u.now := by
    rw [made]
    exact h.account
  rw [h.jobs, State.rewriteCollect_of_none lacks'', State.cancelDeliver_of_none ((h.beside.findJob n _).trans lacks'),
    State.checkCradle_of_unsuitable (by rw [h.account]; exact cradle) unsuitable busy',
    State.checkTray_of_none lacksAfter,
    State.checkThreshold_of_below (by rw [own]; exact program) (by rw [own]; exact below), made, h.beside.sched,
    h.beside.nextJobId, h.beside.now, h.beside.kept.params]
  rfl

/-- A tray at the new threshold gets its COLLECT job (R11, R93). -/
theorem BarlessSetup.sched_of_collect (program : (u.account n).program = some g) (stands : u.cradleStands n g)
    (busy : u.shuttleFree = false) (deferred : u.sched.deferred = []) (lacks : u.findJob n .collect = none)
    (reached : g.threshold ≤ (u.account n).tray) (lacks' : u.findJob n .deliver = none) (slot : u.emptySlot = some i) :
    (u.setupJobs n g).sched = { u.sched with
      slots := u.sched.slots.write i (some
        { madeJob u.nextJobId .collect n u.now
            (predict ((u.account n).tLast.read u.now) (g.capacity - (u.account n).tray) ((u.account n).cycle.getD 0)) with
          bin := some g.bin, block := gateOf (u.bin g.bin) g.capacity })
      lastJobId := u.nextJobId } := by
  have lacks'' : x.findJob n .collect = none := (h.beside.findJob n _).trans lacks
  have busy' := h.beside.shuttleFree.trans busy
  have program' : (x.account n).program = some g := by rw [h.account]; exact program
  have due : ((x.account n).fullAt x.now).getD x.now =
      predict ((u.account n).tLast.read u.now) (g.capacity - (u.account n).tray) ((u.account n).cycle.getD 0) := by
    rw [h.account, h.beside.now, Account.predicted_fullAt program]
    rfl
  rw [h.jobs, State.rewriteCollect_of_none lacks'', State.cancelDeliver_of_none ((h.beside.findJob n _).trans lacks'),
    State.checkCradle_of_kept (h.cradleStands stands) busy', State.checkTray_of_none lacks'',
    State.checkThreshold_of_busy program' (by rw [h.account]; exact reached) (State.hasJob_of_findJob lacks'') busy',
    State.request_collect_sched program' (State.hasJob_of_findJob lacks'') (h.beside.emptySlot.trans slot)
      (by rw [h.beside.sched]; exact deferred) due, h.beside.sched, h.beside.nextJobId, h.beside.now, State.bin,
    h.beside.bins]
  rfl

/-- A COLLECT job that exists takes its deadline and its block from the new program (R48, R100; log 24). -/
theorem BarlessSetup.sched_of_has {k : BinNo} (program : (u.account n).program = some g) (stands : u.cradleStands n g)
    (busy : u.shuttleFree = false) (has : u.findJob n .collect = some i) (hj : u.job i = some j) (bin : j.bin = some k)
    (waits : j.state = .waiting) (block : j.block = .none ∨ j.block = .binFull ∨ j.block = .binClosed)
    (lacks' : u.findJob n .deliver = none) :
    (u.setupJobs n g).sched = { u.sched with
      slots := u.sched.slots.write i (some
        { j with
          deadline :=
            predict ((u.account n).tLast.read u.now) (g.capacity - (u.account n).tray) ((u.account n).cycle.getD 0)
          block := gateOf (u.bin k) g.capacity }) } := by
  obtain ⟨_, found, lathe, kind⟩ := State.findJob_spec has
  rw [hj] at found
  cases found
  have has' : x.findJob n .collect = some i := (h.beside.findJob n _).trans has
  have full : (x.account n).tFull = some
      (predict ((u.account n).tLast.read u.now) (g.capacity - (u.account n).tray) ((u.account n).cycle.getD 0)) := by
    rw [h.account, Account.predicted, program]
    rfl
  generalize predict ((u.account n).tLast.read u.now) (g.capacity - (u.account n).tray) ((u.account n).cycle.getD 0) = due
    at full
  have rewritten := State.rewriteCollect_of_has has' full
  have frame := x.setDeadline_findJob i due
  have job := State.setDeadline_job_self (t := due) ((h.beside.job i).trans hj)
  have keeps := PlanReach.keeps (plan_setDeadline x i due)
  have busy' := keeps.shuttleFree.trans (h.beside.shuttleFree.trans busy)
  have own := (keeps.account n).trans h.account
  have sched : (x.setDeadline i due).sched =
      { u.sched with slots := u.sched.slots.write i (some { j with deadline := due }) } := by
    rw [State.setDeadline_sched, h.beside.job, hj, h.beside.sched]
    rfl
  rw [h.jobs, rewritten]
  generalize x.setDeadline i due = z at frame job keeps busy' own sched
  have stands' : z.cradleStands n g := fun c cradle => by
    rw [State.hasJob, frame]
    exact h.cradleStands stands c (by rw [h.account, ← own]; exact cradle)
  have bins : z.bin k = u.bin k := by rw [State.bin, keeps.bins, h.beside.bins, State.bin]
  rw [State.cancelDeliver_of_none ((frame n _).trans ((h.beside.findJob n _).trans lacks')),
    State.checkCradle_of_kept stands' busy', State.checkTray_of_has ((frame n _).trans has') busy',
    State.evalBinBlock_sched (n := n) (p := g) job bin kind waits block lathe (by rw [own]; exact program), bins, sched,
    Bank.write_write]

end Barless

/-! ### SETUP accepted (R10, R11) -/

section Outcome
variable {s u : State} {n : Lathe} {m : SetupMsg}

theorem State.setupAccount_program (s : State) (n : Lathe) (m : SetupMsg) :
    (s.setupAccount n m).program = some (heldProgram m) := rfl

theorem State.setupAccount_current (s : State) (n : Lathe) (m : SetupMsg) :
    (s.setupAccount n m).current = m.remaining.map fun r => ⟨0, r.toNat + (heldProgram m).face, 0, r.toNat, 0, false⟩ := rfl

theorem State.setupAccount_state (s : State) (n : Lathe) (m : SetupMsg) :
    (s.setupAccount n m).state =
      if (s.account n).state = .stopped then .stopped else if m.remaining = none then .idle else .running := by
  change (s.account n).state.afterSetup m.remaining.isSome = _
  unfold AcctState.afterSetup
  cases m.remaining <;> simp

/-- The compare after a SETUP that wants none (R45, R58). -/
theorem setupJobs_compareOf_of_unwanted {g : Program} (h : (u.account n).wantsCompare = false) :
    (u.setupJobs n g).compareOf n = (u.compareOf n).disarm := by
  have unwanted : ((u.predicts n).account n).wantsCompare = false := by
    rw [u.predicts_account]
    exact h
  rw [(SchedReach.keeps (sched_setupJobs u n g)).compares, State.writeCompare_of_unwanted unwanted,
    State.setCompare_compareOf_self]
  rfl

/-- The write of the compare at a SETUP with a bar, and its firing (R45, R58). -/
theorem State.recompute_of_wanted {g : Program} {c : CurrentBar} {cyc : Nat} (program : (u.account n).program = some g)
    (current : (u.account n).current = some c) (cycle : (u.account n).cycle = some cyc)
    (wants : (u.account n).wantsCompare = true) :
    let value := predict ((u.account n).tLast.read u.now) (g.partsLeft c.remaining) cyc - BitVec.ofNat 32 u.params.lookahead
    ((u.predicts n).writeCompare n).1.compareOf n = ⟨true, value, atOrBefore value u.now⟩ ∧
      (u.recompute n).2 = atOrBefore value u.now := by
  intro value
  have wants' : ((u.predicts n).account n).wantsCompare = true := by
    rw [u.predicts_account]
    exact wants
  have out : ((u.predicts n).account n).outAt (u.predicts n).now =
      some (predict ((u.account n).tLast.read u.now) (g.partsLeft c.remaining) cyc) := by
    rw [u.predicts_account]
    exact Account.predicted_outAt program current cycle
  have written := State.writeCompare_of_wanted wants' out
  refine ⟨?_, ?_⟩
  · rw [written, State.setCompare_compareOf_self]
    rfl
  · change ((u.predicts n).writeCompare n).2 = _
    rw [written]
    rfl

end Outcome

/-- The account after a SETUP with its predictions formed (R10, R31, R42 to R44). -/
theorem State.setupAccount_predicted (s : State) (n : Lathe) (m : SetupMsg) :
    let a := s.account n
    let g := heldProgram m
    let base := if m.remaining = none then a.tLast.read s.now else s.now
    let left := m.remaining.map fun r =>
      if g.remnant ≤ r.toNat then (r.toNat - g.remnant) / (g.part + g.kerf) else 0
    let c0 := g.nominal * (100 / s.timer.sel.ms)
    (s.setupAccount n m).predicted s.now = { a with
      state := if a.state = .stopped then .stopped else if m.remaining = none then .idle else .running
      resume := if a.state = .stopped then (if m.remaining = none then .idle else .running) else a.resume
      program := some g
      current := m.remaining.map fun r => ⟨0, r.toNat + g.face, 0, r.toNat, 0, false⟩
      cycle := some c0
      tLast := if m.remaining = none then { a.tLast with time := base } else ⟨s.now, 0⟩
      sampleValid := if m.remaining = none then a.sampleValid else false
      partsLeft := left
      tOut := left.map fun x => base + BitVec.ofNat 32 (min (x * c0) 1073741824)
      tFull := some (base + BitVec.ofNat 32 (min ((g.capacity - a.tray) * c0) 1073741824))
      loadFault := false
      stockShort := false } := by
  intro a g base left c0
  unfold Account.predicted State.setupAccount Account.install AcctState.afterSetup
  cases bar : m.remaining with
  | none =>
    simp only [declaredBar, bar, base, left, Option.isSome_none, Bool.false_eq_true, if_false, if_true, Option.map_none]
    rfl
  | some r =>
    simp only [declaredBar, bar, base, left, Option.isSome_some, if_false, if_true, Option.map_some, reduceCtorEq]
    rfl

/-- Settles O25: the account is installed and predicted, and the cancellation, the firing and the two checks follow. -/
theorem setupInstallsProgram : Obligations.SetupInstallsProgram := by
  intro n m s free ok a cl cap g c0 base left
  obtain ⟨u, run, before⟩ := exec_setup_accepted free ok
  have beside := before.beside
  have account := before.account
  have clock := beside.now
  have keeps := SchedReach.keeps (sched_setupJobs u n g)
  have own : (u.setupJobs n g).account n = (s.setupAccount n m).predicted s.now := by
    rw [keeps.account, State.account, State.writeCompare_accounts]
    exact (u.predicts_account n).trans (by rw [account, clock])
  have others (k : Lathe) (h : k ≠ n) : (u.setupJobs n g).account k = s.account k := by
    rw [keeps.account, State.account, State.writeCompare_accounts]
    exact (u.setAccount_account_ne n _ k (Ne.symm h)).trans (beside.accounts k h)
  have port (p : PortNo) : (u.setupJobs n g).port p = u.port p := by
    rw [keeps.port, State.port, State.writeCompare_ports]
    rfl
  have middle : Beside n s ((u.predicts n).writeCompare n).1 :=
    beside.trans ((beside_setAccount n u _).trans (beside_writeCompare n _))
  obtain ⟨more, grown, noStock⟩ := posts_setupJobs u n g
  have program : (u.account n).program = some g := by
    rw [account]
    rfl
  have cycle : (u.account n).cycle = some c0 := by
    rw [account]
    rfl
  have current : (u.account n).current =
      m.remaining.map fun r => ⟨0, r.toNat + g.face, 0, r.toNat, 0, false⟩ := by
    rw [account]
    rfl
  have stock : (u.account n).stockShort = false := by
    rw [account]
    rfl
  have cradle : (u.account n).cradle = a.cradle := by
    rw [account]
    rfl
  have tray : (u.account n).tray = a.tray := by
    rw [account]
    rfl
  have state : (u.account n).state =
      if a.state = .stopped then .stopped else if m.remaining = none then .idle else .running := by
    rw [account, s.setupAccount_state n m]
  refine ⟨(u.setupJobs n g).evalHold n, _, run, s.setupAccount_predicted n m, ?_, fun k other => ?_, ?_, fun k => ?_, ?_,
    fun room => ?_, fun k other => ?_, fun quiet => ?_, fun out running empty due => ?_, ?_⟩
  · rw [State.evalHold_account_self, own]
  · rw [State.evalHold_account_ne _ _ _ (Ne.symm other), others k other]
  · rw [State.evalHold_queue, own, port, before.queue]
    rfl
  · rw [State.evalHold_lane, keeps.bars, middle.lane]
  · exact (middle.kept.trans keeps.kept).trans (kept_evalHold _ n)
  · refine ⟨more, ?_, noStock⟩
    rw [State.evalHold_events, grown, before.records room, List.append_assoc]
    rfl
  · rw [State.evalHold_compareOf, keeps.compares, middle.compares k other]
  · have unwanted : (u.account n).wantsCompare = false := by
      unfold Account.wantsCompare
      rw [cradle, current, state]
      rcases quiet with notRunning | held
      · rw [s.setupAccount_predicted n m] at notRunning
        by_cases stopped : a.state = .stopped
        · rw [if_pos stopped]
          rfl
        · by_cases barless : m.remaining = none
          · rw [barless, Option.map_none, Option.isSome_none, Bool.and_false, Bool.false_and]
          · exact absurd ((if_neg stopped).trans (if_neg barless)) notRunning
      · rw [Option.isNone_eq_false_iff.2 held, Bool.and_false]
    rw [State.evalHold_compareOf, setupJobs_compareOf_of_unwanted unwanted, before.compare]
    rfl
  · rw [s.setupAccount_predicted n m] at running
    have starts : a.state ≠ .stopped := fun stopped => by
      rw [show (_ : AcctState) = .stopped from if_pos stopped] at running
      cases running
    obtain ⟨r, bar⟩ : ∃ r, m.remaining = some r := by
      refine Option.ne_none_iff_exists'.1 fun barless => ?_
      rw [show (_ : AcctState) = .idle from (if_neg starts).trans (if_pos barless)] at running
      cases running
    have current' : (u.account n).current = some ⟨0, r.toNat + g.face, 0, r.toNat, 0, false⟩ := by
      rw [current, bar]
      rfl
    have wants : (u.account n).wantsCompare = true :=
      wantsCompare_of_running (.inl (state.trans running)) (by rw [current']; rfl) (cradle.trans empty)
    have out' : out = predict ((u.account n).tLast.read u.now) (g.partsLeft r.toNat) c0 := by
      rw [← account, ← clock, Account.predicted_eq program current' cycle] at due
      exact (Option.some.inj due).symm
    obtain ⟨written, fires⟩ := State.recompute_of_wanted program current' cycle wants
    rw [← out', beside.kept.params, clock] at written fires
    intro value
    rw [State.evalHold_compareOf, keeps.compares, written]
    refine ⟨rfl, fun reached => ⟨?_, fun i lacks slot deferred busy => ?_⟩⟩
    · exact (jobsStay_of_sched (State.evalHold_sched _ n)).asked (setupJobs_asked (fires.trans reached) stock program)
    · rw [State.evalHold_job, setupJobs_made program current' cycle stock (fires.trans reached)
        ((beside.findJob n _).trans lacks) (beside.emptySlot.trans slot) (by rw [beside.sched]; exact deferred)
        (beside.shuttleFree.trans busy), beside.nextJobId, beside.claimLane, ← out', clock]
  · intro full suits noReturn noCollect barless busy deferred
    have barless' : (u.account n).current = none := by
      rw [current, barless]
      rfl
    obtain ⟨x, told⟩ := barlessSetup barless' g
    have busy' := beside.shuttleFree.trans busy
    have deferred' : u.sched.deferred = [] := by rw [beside.sched]; exact deferred
    have due : predict ((u.account n).tLast.read u.now) (g.capacity - (u.account n).tray) ((u.account n).cycle.getD 0) =
        full := by
      have stamp : (s.setupAccount n m).tLast = a.tLast := by
        change (if m.remaining.isSome then _ else _) = _
        rw [barless]
        rfl
      have base' : base = a.tLast.read s.now := if_pos barless
      rw [cycle, tray, clock, account, stamp, ← base']
      rfl
    have fits (y : BarRecord) : g.unsuitable y = false ↔ suits y := by
      simp only [Program.unsuitable, Program.isShort, Bool.or_eq_false_iff, bne_eq_false_iff_eq, decide_eq_false_iff_not,
        not_lt, suits, and_assoc]
      rfl
    have stands (h : noReturn) : u.cradleStands n g := fun y is => by
      rw [beside.hasJob]
      exact (h y (cradle.symm.trans is)).imp_left (fits y.bar).2
    have collects (h : s.hasJob n .collect = false) : u.findJob n .collect = none := by
      rw [beside.findJob]
      exact Option.isNone_iff_eq_none.1 (by rw [← Option.not_isSome]; exact congrArg (!·) h)
    refine ⟨fun returns ⟨lacks, below⟩ => ⟨fun lacks' => ?_, fun i j has hj => ⟨fun waits claim => ?_, fun active load phase => ?_⟩⟩,
      fun lacks' => ⟨fun i y ⟨lacks, below⟩ held unsuited free slot => ?_, fun i returns lacks reached slot => ?_,
        fun i j k returns has hj bin waits block => ?_⟩⟩
    · rw [State.evalHold_sched, told.sched_of_none program (stands returns) busy' (collects lacks) (tray.symm ▸ below)
        ((beside.findJob n _).trans lacks'), beside.sched]
    · rw [State.evalHold_sched, told.sched_of_idle program (stands returns) busy' (collects lacks) (tray.symm ▸ below)
        ((beside.findJob n _).trans has) ((beside.job i).trans hj) (by rw [waits]; decide) claim deferred', beside.sched]
    · rw [State.evalHold_sched, told.sched_of_under_way program (stands returns) busy' (collects lacks)
        (tray.symm ▸ below) ((beside.findJob n _).trans has) ((beside.job i).trans hj) active
        (by rw [beside.shuttle]; exact load) (by rw [beside.seq]; exact phase), beside.sched]
    · rw [State.evalHold_sched, told.sched_of_return program busy' deferred' (collects lacks) (tray.symm ▸ below)
        ((beside.findJob n _).trans lacks') (cradle.trans held) (Bool.eq_true_of_not_eq_false fun e => unsuited ((fits _).1 e))
        ((beside.hasJob n _).trans free) (beside.emptySlot.trans slot), beside.sched, beside.nextJobId, clock,
        beside.kept.params]
    · rw [State.evalHold_sched, told.sched_of_collect program (stands returns) busy' deferred' (collects lacks)
        (tray.symm ▸ reached) ((beside.findJob n _).trans lacks') (beside.emptySlot.trans slot), due, beside.sched,
        beside.nextJobId, clock, State.bin, beside.bins]
      rfl
    · rw [State.evalHold_sched, told.sched_of_has program (stands returns) busy' ((beside.findJob n _).trans has)
        ((beside.job i).trans hj) bin waits block ((beside.findJob n _).trans lacks'), due, beside.sched, State.bin,
        beside.bins]
      rfl

end Sys2Proof.Machine

/-! PROOFS. The choice among jobs (R99, R103), the stock gain (R79, R99), and the supervisor's requests on lanes and
bins. -/
namespace Sys2Proof.Machine

open Sys2Proof

/-! ### Times and the order of jobs (R53, R99) -/

theorem isBefore_self (a : Time) : isBefore a a = false := by simp [isBefore]

theorem isBefore_asymm {a b : Time} (h : isBefore a b = true) : isBefore b a = false := by
  unfold isBefore atOrBefore at *
  simp only [Bool.and_eq_true, decide_eq_true_eq, bne_iff_ne, Bool.and_eq_false_iff, decide_eq_false_iff_not] at *
  obtain ⟨near, other⟩ := h
  left
  bv_omega

theorem ne_of_isBefore {a b : Time} (h : isBefore a b = true) : a ≠ b := by
  intro e
  rw [e, isBefore_self] at h
  cases h

/-- A job that goes before another beats it from a higher slot, and is not beaten by it from there (R99). -/
theorem earlier_of_goesBefore {i i' : Slot} {j j' : Job} (h : goesBefore i j i' j') :
    (i' < i → Job.earlier j j' = true) ∧ (i < i' → Job.earlier j' j = false) := by
  unfold Job.earlier
  rcases h with due | ⟨due, made | ⟨made, slot⟩⟩
  · have other := ne_of_isBefore due
    rw [if_neg other, if_neg (Ne.symm other)]
    exact ⟨fun _ => due, fun _ => isBefore_asymm due⟩
  · rw [if_pos due, if_pos due.symm]
    exact ⟨fun _ => made, fun _ => isBefore_asymm made⟩
  · rw [if_pos due, if_pos due.symm, made, isBefore_self]
    exact ⟨fun above => absurd slot (Fin.lt_asymm above), fun _ => rfl⟩

section Best
variable {s : State} {ok : Job → Bool} {beats : Job → Job → Bool} {i : Slot} {j : Job}

/-- The job that goes before every other that counts is the best one. -/
theorem State.bestJob_of_goesBefore (hj : s.job i = some j) (counts : ok j = true)
    (first : ∀ i' j', i' ≠ i → s.job i' = some j' → ok j' = true → goesBefore i j i' j') :
    s.bestJob ok Job.earlier = some (i, j) :=
  State.bestJob_of_first hj counts
    (fun i' j' below hj' counts' => (earlier_of_goesBefore (first i' j' (Fin.ne_of_lt below) hj' counts')).1 below)
    (fun i' j' above hj' counts' =>
      (earlier_of_goesBefore (first i' j' (Ne.symm (Fin.ne_of_lt above)) hj' counts')).2 above)

theorem State.better_isSome {best : Option (Slot × Job)} (h : best.isSome = true) (i : Slot) :
    (s.better ok beats best i).isSome = true := by
  unfold State.better
  split
  · split
    · split
      · split
        · rfl
        · exact h
      · rfl
    · exact h
  · exact h

theorem State.foldl_better_isSome {best : Option (Slot × Job)} (h : best.isSome = true) (l : List Slot) :
    (l.foldl (s.better ok beats) best).isSome = true := by
  induction l generalizing best with
  | nil => exact h
  | cons i l ih => exact ih (State.better_isSome h i)

/-- A search that finds nothing has met no job that counts. -/
theorem State.bestJob_eq_none_spec (h : s.bestJob ok beats = none) (hj : s.job i = some j) : ok j = false := by
  refine Bool.eq_false_iff.2 fun counts => ?_
  obtain ⟨front, back, slots⟩ := List.append_of_mem (show i ∈ allSlots from List.mem_finRange i)
  have found (best : Option (Slot × Job)) : (s.better ok beats best i).isSome = true := by
    unfold State.better
    simp only [hj, counts, if_true]
    cases best with
    | none => rfl
    | some b => exact (apply_ite Option.isSome _ _ _).trans (ite_self _)
  rw [State.bestJob_eq, slots, List.foldl_append, List.foldl_cons] at h
  have isSome := State.foldl_better_isSome (s := s) (ok := ok) (beats := beats) (found (front.foldl (s.better ok beats) none)) back
  rw [h] at isSome
  cases isSome

end Best

/-! ### Lanes after an update of the schedule -/

/-- Lanes that differ in their claimed counts alone. -/
def SameLanes (s t : State) : Prop := ∀ k, ∃ c, t.lane k = { s.lane k with claimed := c }

theorem SameLanes.refl (s : State) : SameLanes s s := fun k => ⟨(s.lane k).claimed, rfl⟩

theorem SameLanes.trans {s t u : State} (h : SameLanes s t) (k : SameLanes t u) : SameLanes s u := fun l => by
  obtain ⟨_, first⟩ := h l
  obtain ⟨c, second⟩ := k l
  exact ⟨c, by rw [second, first]⟩

theorem SameLanes.of_claim (s : State) (k : LaneNo) (c : Nat) :
    SameLanes s (s.setLane k { s.lane k with claimed := c }) := fun l => by
  by_cases own : k = l
  · subst own
    exact ⟨c, State.setLane_lane_self _ _ _⟩
  · exact ⟨_, State.setLane_lane_ne _ _ _ _ own⟩

theorem PlanPrim.lanes {s t : State} (h : PlanPrim s t) : SameLanes s t := by
  cases h with
  | sched => exact .refl s
  | claim k c => exact .of_claim s k c
  | post e => exact fun k => ⟨(s.lane k).claimed, State.post_lane s e k⟩

theorem SchedPrim.lanes {s t : State} (h : SchedPrim s t) : SameLanes s t := by
  cases h with
  | plan h => exact h.lanes
  | seq | shuttle | guardWait | stepTimer | inFlight => exact .refl s

theorem SchedReach.lanes {s t : State} (h : SchedReach s t) : SameLanes s t := by
  induction h with
  | refl => exact .refl s
  | tail _ p ih => exact ih.trans p.lanes

/-! ### The presentation of a stock gain (R99) -/

section Present
variable {s : State} {k : LaneNo} {i : Slot} {j : Job}

/-- The job of slot `i` waits for stock that lane `k` could give. -/
def State.wantsAt (s : State) (k : LaneNo) (i : Slot) : Bool := (s.job i).any (s.wantsLane k)

theorem State.wantsLane_congr {t : State} (accounts : t.accounts = s.accounts) (lanes : SameLanes s t) :
    t.wantsLane k j = s.wantsLane k j := by
  obtain ⟨c, lane⟩ := lanes k
  unfold State.wantsLane State.account
  rw [accounts, lane]
  rfl

theorem sameLanes_takeClaim (s : State) (i : Slot) (k : LaneNo) : SameLanes s (s.takeClaim i k) :=
  SchedReach.lanes (PlanReach.toSched (plan_takeClaim s i k))

theorem State.takeClaim_wantsAt (s : State) (i i' : Slot) (k : LaneNo) :
    (s.takeClaim i k).wantsAt k i' = (if i = i' then false else s.wantsAt k i') := by
  have keeps := PlanReach.keeps (plan_takeClaim s i k)
  have same (j : Job) : (s.takeClaim i k).wantsLane k j = s.wantsLane k j :=
    State.wantsLane_congr keeps.accounts (sameLanes_takeClaim s i k)
  unfold State.wantsAt
  split
  · next own =>
    subst own
    rw [State.takeClaim, State.updateJob, State.setSlot_job_self, Option.any_map]
    cases (s.setLane k { s.lane k with claimed := (s.lane k).claimed + 1 }).job i with
    | none => rfl
    | some j => simp [State.wantsLane]
  · next other =>
    rw [State.takeClaim_job_ne k other]
    cases s.job i' with
    | none => rfl
    | some j => exact same j

theorem State.wantsLane_iff : s.wantsLane k j = true ↔ j.kind = .deliver ∧ j.state = .waiting ∧ j.block = .noStock ∧
    ∃ g, (s.account j.lathe).program = some g ∧ (s.lane k).material = g.material ∧ (s.lane k).diameter = g.diameter := by
  unfold State.wantsLane LaneRecord.matchesProgram
  cases (s.account j.lathe).program <;> simp [and_assoc]

/-- The number of jobs that wait for the lane's stock. -/
def State.wanting (s : State) (k : LaneNo) : Nat := allSlots.countP (s.wantsAt k)

theorem State.takeClaim_wanting (wants : s.wantsAt k i = true) : (s.takeClaim i k).wanting k < s.wanting k := by
  unfold State.wanting
  have fewer (i' : Slot) : (s.takeClaim i k).wantsAt k i' = true → s.wantsAt k i' = true := by
    rw [State.takeClaim_wantsAt]
    split
    · exact fun h => by cases h
    · exact id
  obtain ⟨front, back, slots⟩ := List.append_of_mem (show i ∈ allSlots from List.mem_finRange i)
  have before := List.countP_mono_left (l := front) fun i' _ => fewer i'
  have after := List.countP_mono_left (l := back) fun i' _ => fewer i'
  have gone : (s.takeClaim i k).wantsAt k i = false := by rw [State.takeClaim_wantsAt, if_pos rfl]
  rw [slots, List.countP_append, List.countP_append, List.countP_cons_of_pos wants,
    List.countP_cons_of_neg (by rw [gone]; decide)]
  omega

/-- With rounds enough a presentation ends when the stock or the jobs that want it are used up (R99). -/
theorem State.present_exhausts (fuel : Nat) (s : State) (rounds : s.wanting k ≤ fuel) :
    ((State.present k fuel s).lane k).available = 0 ∨ ∀ i, (State.present k fuel s).wantsAt k i = false := by
  induction fuel generalizing s with
  | zero =>
    refine .inr fun i => ?_
    have none' := List.countP_eq_zero.1 (Nat.le_zero.1 rounds) i (List.mem_finRange i)
    exact Bool.eq_false_iff.2 none'
  | succ fuel ih =>
    unfold State.present
    split
    · split
      · next i j best =>
        obtain ⟨hj, wants⟩ := State.bestJob_spec best
        have wantsAt : s.wantsAt k i = true := by
          rw [State.wantsAt, hj]
          exact wants
        exact ih _ (Nat.le_of_lt_succ (Nat.lt_of_lt_of_le (State.takeClaim_wanting wantsAt) rounds))
      · next best =>
        refine .inr fun i => ?_
        unfold State.wantsAt
        cases hj : s.job i with
        | none => rfl
        | some j => exact State.bestJob_eq_none_spec best hj
    · next dry => exact .inl (by omega)

/-- One claim's worth of stock goes to the job that goes before every other (R99). -/
theorem State.present_of_one (one : (s.lane k).available = 1) (hj : s.job i = some j) (wants : s.wantsLane k j = true)
    (first : ∀ i' j', i' ≠ i → s.job i' = some j' → s.wantsLane k j' = true → goesBefore i j i' j') (fuel : Nat) :
    State.present k (fuel + 1) s = s.takeClaim i k := by
  have best := State.bestJob_of_goesBefore hj wants first
  have dry : ¬1 ≤ ((s.takeClaim i k).lane k).available := by
    have lane : (s.takeClaim i k).lane k = { s.lane k with claimed := (s.lane k).claimed + 1 } :=
      State.setLane_lane_self _ _ _
    rw [lane]
    unfold LaneRecord.available at *
    dsimp only
    omega
  unfold State.present
  rw [if_pos (Nat.le_of_eq one.symm), best]
  dsimp only
  cases fuel with
  | zero => rfl
  | succ fuel =>
    unfold State.present
    rw [if_neg dry]

theorem State.stockGain_exhausts (isOpen : (s.lane k).isOpen = true) (assigned : (s.lane k).assigned = true) :
    ((s.stockGain k).lane k).available = 0 ∨ ∀ i, (s.stockGain k).wantsAt k i = false := by
  unfold State.stockGain
  rw [isOpen, assigned]
  exact State.present_exhausts 32 s (List.countP_le_length.trans (Nat.le_of_eq (List.length_finRange)))

end Present

theorem State.startJob_job_of_idle {s : State} {i k : Slot} {j : Job} (hj : (s.startJob k).job i = some j)
    (idle : j.state ≠ .active) : s.job i = some j := by
  have sched : (s.startJob k).sched = (s.activate k).sched := (State.checkAndIssue_sched _).trans rfl
  rw [State.job, sched, State.activate, State.setSeq_sched] at hj
  by_cases own : k = i
  · subst own
    rw [State.updateJob] at hj
    obtain ⟨j', -, is⟩ := Option.map_eq_some_iff.1 ((State.setSlot_job_self _ _ _).symm.trans hj)
    exact absurd (by rw [← is]) idle
  · exact (State.setSlot_job_ne _ _ _ _ own).symm.trans hj

/-- A job that is WAITING or SUSPENDED after a dispatch was so before it (R103). -/
theorem State.dispatch_job_of_idle {s : State} {i : Slot} {j : Job} (hj : s.dispatch.job i = some j)
    (idle : j.state ≠ .active) : s.job i = some j := by
  revert hj
  unfold State.dispatch
  split
  · split
    · next i' rest _ =>
      intro hj
      have popped := State.startJob_job_of_idle hj idle
      exact popped
    · split
      · exact fun hj => State.startJob_job_of_idle hj idle
      · exact id
  · exact id

theorem State.checkAndIssue_rack (s : State) : s.checkAndIssue.rack = s.rack := by
  have issued (j : Job) (o : Order) : (s.issueStep j o).rack = s.rack := by
    unfold State.issueStep State.holdInFlight
    split <;> rfl
  unfold State.checkAndIssue
  split
  · rfl
  · split
    · rfl
    · split
      · rfl
      · split
        · split
          · exact issued _ _
          · exact State.post_rack _ _
        · split
          · exact issued _ _
          · exact State.post_rack _ _
        · exact issued _ _

theorem State.startJob_rack (s : State) (i : Slot) : (s.startJob i).rack = s.rack :=
  (State.checkAndIssue_rack _).trans rfl

theorem State.dispatch_rack (s : State) : s.dispatch.rack = s.rack := by
  unfold State.dispatch
  split
  · split
    · exact (State.startJob_rack _ _).trans rfl
    · split
      · exact s.startJob_rack _
      · rfl
  · rfl

/-! ### LANE OPEN and LANE CLOSE (R72) -/

section LaneOpen
variable {s : State}

theorem exec_laneOpen {x : Byte} (free : (s.port supervisorPort).replyPending = false) :
    exec (.laneOpen x) s = .next (s.handleLaneOpen x) :=
  congrArg Host.Outcome.next (State.taken_of_not_replyPending _ free)

theorem exec_laneClose {x : Byte} (free : (s.port supervisorPort).replyPending = false) :
    exec (.laneClose x) s = .next (s.handleLaneClose x) :=
  congrArg Host.Outcome.next (State.taken_of_not_replyPending _ free)

/-- Lane `k` opened and the request acknowledged, the stock gain still to come. -/
structure Opened (k : LaneNo) (s u : State) : Prop where
  run : ((s.setLane k { s.lane k with isOpen := true }).ackSup 0x66) = u
  lane : ∀ l, u.lane l = if k = l then { s.lane k with isOpen := true } else s.lane l
  accounts : u.accounts = s.accounts
  sched : u.sched = s.sched
  free : u.shuttleFree = s.shuttleFree
  queue : (u.port supervisorPort).queue = (s.port supervisorPort).queue ++ [⟨0x50, [0x66]⟩]
  kept : Kept s u

theorem opened (k : LaneNo) (s : State) : ∃ u, Opened k s u := by
  refine ⟨_, rfl, fun l => State.setLane_lane _ _ _ _, rfl, rfl, rfl, ?_, ?_⟩
  · rw [State.ackSup_eq_reply, State.reply_port_self]
    rfl
  · rw [State.ackSup_eq_reply]
    exact ⟨rfl, rfl, rfl, rfl, rfl, rfl, rfl, rfl, rfl, rfl⟩

theorem Opened.wantsLane_iff {k : LaneNo} {s u : State} {j : Job} (o : Opened k s u) :
    u.wantsLane k j = true ↔ j.kind = .deliver ∧ j.state = .waiting ∧ j.block = .noStock ∧
      ∃ g, (s.account j.lathe).program = some g ∧ (s.lane k).material = g.material ∧ (s.lane k).diameter = g.diameter := by
  have lane : u.lane k = { s.lane k with isOpen := true } := (o.lane k).trans (if_pos rfl)
  rw [State.wantsLane_iff, lane, State.account, o.accounts]
  rfl

end LaneOpen

/-- Settles O37: LANE OPEN is the lane opened, its stock presented, and a dispatch. -/
theorem laneOpenAndClose : Obligations.LaneOpenAndClose := by
  intro x s free
  rw [exec_laneOpen free, exec_laneClose free, State.handleLaneOpen, State.handleLaneClose]
  refine ⟨fun beyond => ?_, fun k named => ?_⟩
  · rw [s.numbered_of_le _ _ _ beyond, s.numbered_of_le _ _ _ beyond]
    exact ⟨rfl, rfl⟩
  rw [s.numbered_of_val_eq _ _ _ named, s.numbered_of_val_eq _ _ _ named]
  refine ⟨by rw [State.ackSup_eq_reply], fun isOpen => by rw [if_pos isOpen, State.ackSup_eq_reply], fun closed => ?_⟩
  obtain ⟨u, o⟩ := opened k s
  rw [if_neg (by rw [closed]; decide), o.run]
  have lane : u.lane k = { s.lane k with isOpen := true } := (o.lane k).trans (if_pos rfl)
  have isOpen : (u.lane k).isOpen = true := by rw [lane]
  have path : SchedReach u (u.stockGain k).dispatch :=
    .trans (PlanReach.toSched (plan_stockGain u k)) (sched_dispatch _)
  have keeps := SchedReach.keeps path
  obtain ⟨c, after⟩ := SchedReach.lanes path k
  refine ⟨_, rfl, by rw [after]; exact isOpen, by rw [keeps.port, o.queue], fun k' => ?_, keeps.accounts.trans o.accounts,
    o.kept.trans keeps.kept, fun codes => ?_, fun codes one busy => ?_⟩
  · rw [keeps.bars, o.lane]
    split
    · next own => rw [← own]
    · rfl
  · have assigned : (u.lane k).assigned = true := by
      rw [lane]
      exact bne_iff_ne.2 codes
    have gained := PlanReach.keeps (plan_stockGain u k)
    have sameLanes := SchedReach.lanes (PlanReach.toSched (plan_stockGain u k))
    have dispatched := State.dispatch_rack (u.stockGain k)
    refine (State.stockGain_exhausts isOpen assigned).imp (fun dry => ?_) fun none' => ?_
    · rw [State.lane, dispatched]
      exact dry
    · intro i j g hj kind waits block program
      refine not_and_or.1 fun same => ?_
      have hj' := State.dispatch_job_of_idle hj (by rw [waits]; decide)
      have no := none' i
      rw [State.wantsAt, hj', Option.any_some, State.wantsLane_congr gained.accounts sameLanes] at no
      exact Bool.eq_false_iff.1 no (o.wantsLane_iff.2 ⟨kind, waits, block, g, program, same⟩)
  · have assigned : (u.lane k).assigned = true := by
      rw [lane]
      exact bne_iff_ne.2 codes
    intro wants i j hj wanted first
    have available : (u.lane k).available = 1 := by
      rw [lane, LaneRecord.available, one]
      exact Nat.add_sub_cancel_left _ _
    have job (i : Slot) : u.job i = s.job i := by rw [State.job, o.sched, State.job]
    have takes : u.stockGain k = u.takeClaim i k := by
      unfold State.stockGain
      rw [isOpen, assigned]
      exact State.present_of_one available ((job i).trans hj) (o.wantsLane_iff.2 wanted)
        (fun i' j' other hj' counts => first i' j' other ((job i').symm.trans hj') (o.wantsLane_iff.1 counts)) 31
    rw [takes, State.dispatch_of_busy
      ((PlanReach.keeps (plan_takeClaim u i k)).shuttleFree.trans (o.free.trans busy))]
    refine ⟨?_, fun i' other => ?_, ?_, fun k' other => ?_⟩
    · rw [State.takeClaim, State.updateJob, State.setSlot_job_self, State.setLane_job, job, hj]
      rfl
    · rw [State.takeClaim_job_ne k (Ne.symm other), job]
    · rw [State.takeClaim, State.updateJob, State.setSlot_lane, State.setLane_lane_self, lane]
    · rw [State.takeClaim, State.updateJob, State.setSlot_lane, State.setLane_lane_ne _ _ _ _ (Ne.symm other), o.lane,
        if_neg (Ne.symm other)]

end Sys2Proof.Machine

/-! PROOFS. The supervisor's requests on the bins: the record, the blocks of its COLLECT jobs, and a dump that waits
for it (R100, R132, R143 to R147). -/
namespace Sys2Proof.Machine

open Sys2Proof

/-! ### The blocks of a bin's COLLECT jobs (R100) -/

section Blocks
variable {s : State} {b : BinNo} {i : Slot} {j : Job}

/-- A COLLECT job for bin `b`, as the evaluation of its block leaves it (R100). -/
def State.binJob (s : State) (b : BinNo) (j : Job) : Job :=
  if j.kind = .collect ∧ j.bin = some b then
    match j.state with
    | .waiting => if j.block = .guardParked ∨ j.block = .noStock then j else { j with block := s.gate j.lathe b }
    | .suspended =>
      if s.gate j.lathe b = .none then j else { j with state := .waiting, block := s.gate j.lathe b, step := .one }
    | .active => j
  else j

/-- The job leaves the suspension stack at the evaluation of its block (R100). -/
def State.leavesStack (s : State) (b : BinNo) (j : Job) : Bool :=
  j.kind == .collect && j.bin == some b && j.state == .suspended && s.gate j.lathe b != .none

/-- One slot's turn in the evaluation of a bin's blocks (R100). -/
def State.binTurn (s : State) (b : BinNo) (i : Slot) : State :=
  match s.job i with
  | some j => if j.bin = some b then s.evalBinBlock i else s
  | none => s

theorem State.evalBins_eq (s : State) (b : BinNo) : s.evalBins b = allSlots.foldl (fun s i => s.binTurn b i) s := rfl

/-- What an evaluation over the slots `l` has done. -/
structure BinTurns (b : BinNo) (l : List Slot) (s u : State) : Prop where
  frame : u = s.setSched u.sched
  job : ∀ i, u.job i = if i ∈ l then (s.job i).map (s.binJob b) else s.job i
  stack : s.sched.stack.Nodup →
    u.sched.stack = s.sched.stack.filter fun i => !(decide (i ∈ l) && (s.job i).any (s.leavesStack b))

theorem binTurns_of_same (bare : ∀ j, s.job i = some j → s.binJob b j = j)
    (stays : ∀ j, s.job i = some j → s.leavesStack b j = false) : BinTurns b [i] s s where
  frame := s.setSched_sched_self.symm
  job i' := by
    split
    · next mem =>
      rw [List.mem_singleton.1 mem]
      cases hj : s.job i with
      | none => rfl
      | some j => exact congrArg some (bare j hj).symm
    · rfl
  stack _ := by
    refine (List.filter_eq_self.2 fun i' _ => ?_).symm
    by_cases own : i' = i
    · subst own
      cases hj : s.job i' with
      | none => simp
      | some j => simp [stays j hj]
    · simp [own]

theorem binTurns_of_written {x : Job} {stack : List Slot} (hj : s.job i = some j) (job : s.binJob b j = x)
    (left : stack = if s.leavesStack b j then s.sched.stack.erase i else s.sched.stack) :
    BinTurns b [i] s (s.setSched { s.sched with slots := s.sched.slots.write i (some x), stack := stack }) where
  frame := rfl
  job i' := by
    have read : (s.setSched { s.sched with slots := s.sched.slots.write i (some x), stack := stack }).job i' =
        if i = i' then some x else s.job i' := Bank.read_write _ _ _ _
    rw [read]
    by_cases own : i = i'
    · subst own
      rw [if_pos rfl, if_pos (List.mem_singleton_self i), hj, Option.map_some, job]
    · rw [if_neg own, if_neg fun mem => own (List.mem_singleton.1 mem).symm]
  stack nodup := by
    change stack = _
    rw [left]
    cases leaves : s.leavesStack b j with
    | true =>
      rw [if_pos rfl, nodup.erase_eq_filter]
      refine List.filter_congr fun i' _ => ?_
      by_cases own : i' = i
      · subst own
        simp [hj, leaves]
      · simp [own]
    | false =>
      refine (List.filter_eq_self.2 fun i' _ => ?_).symm
      by_cases own : i' = i
      · subst own
        simp [hj, leaves]
      · simp [own]

theorem binTurn_turns (s : State) (b : BinNo) (i : Slot) : BinTurns b [i] s (s.binTurn b i) := by
  have same {j : Job} (hj : s.job i = some j) (bare : s.binJob b j = j) (stays : s.leavesStack b j = false) :
      BinTurns b [i] s s :=
    binTurns_of_same (fun j' hj' => by rw [hj] at hj'; cases hj'; exact bare)
      fun j' hj' => by rw [hj] at hj'; cases hj'; exact stays
  unfold State.binTurn
  split
  · next j hj =>
    split
    · next bin =>
      unfold State.evalBinBlock
      simp only [hj, bin]
      split
      · next other =>
        have other : j.kind ≠ .collect := by simpa using other
        exact same hj (by simp [State.binJob, other]) (by simp [State.leavesStack, other])
      · next collects =>
        have collects : j.kind = .collect := by simpa using collects
        split
        · next waits =>
          split
          · next held => exact same hj (by simp_all [State.binJob]) (by simp [State.leavesStack, waits])
          · next free =>
            have free : ¬(j.block = .guardParked ∨ j.block = .noStock) := by simpa using free
            exact binTurns_of_written hj (by simp [State.binJob, collects, bin, waits, free])
              (by simp [State.leavesStack, waits])
        · next suspended =>
          split
          · next clear => exact same hj (by simp [State.binJob, suspended, clear]) (by simp [State.leavesStack, clear])
          · next blocked =>
            exact binTurns_of_written hj (by simp [State.binJob, collects, bin, suspended, blocked])
              (by simp [State.leavesStack, collects, bin, suspended, blocked])
        · next active => exact same hj (by simp [State.binJob, active]) (by simp [State.leavesStack, active])
    · next other => exact same hj (by simp [State.binJob, other]) (by simp [State.leavesStack, other])
  · next hj =>
    exact binTurns_of_same (fun j hj' => by rw [hj] at hj'; cases hj') fun j hj' => by rw [hj] at hj'; cases hj'

theorem BinTurns.cons {l : List Slot} {t u : State} (h : BinTurns b [i] s t) (k : BinTurns b l t u) (new : i ∉ l) :
    BinTurns b (i :: l) s u where
  frame := k.frame.trans (by rw [h.frame]; rfl)
  job i' := by
    have bare : t.binJob b = s.binJob b := by rw [h.frame]; rfl
    rw [k.job, h.job, bare]
    by_cases own : i' = i
    · subst own
      rw [if_neg new, if_pos (List.mem_singleton_self _), if_pos List.mem_cons_self]
    · simp [own]
  stack nodup := by
    have leaves : t.leavesStack b = s.leavesStack b := by rw [h.frame]; rfl
    have first := h.stack nodup
    rw [k.stack (first ▸ nodup.filter _), first, List.filter_filter, leaves]
    refine List.filter_congr fun i' _ => ?_
    rw [h.job]
    by_cases own : i' = i
    · subst own
      simp [new]
    · simp [own]

theorem evalBins_turns (s : State) (b : BinNo) : BinTurns b allSlots s (s.evalBins b) := by
  have turns (l : List Slot) (nodup : l.Nodup) (s : State) :
      BinTurns b l s (l.foldl (fun s i => s.binTurn b i) s) := by
    induction l generalizing s with
    | nil =>
      exact ⟨s.setSched_sched_self.symm, fun _ => rfl, fun _ => (List.filter_eq_self.2 fun _ _ => rfl).symm⟩
    | cons i l ih =>
      obtain ⟨new, nodup⟩ := List.nodup_cons.1 nodup
      exact (binTurn_turns s b i).cons (ih nodup _) new
  exact turns allSlots (List.nodup_finRange 32) s

end Blocks

/-! ### A bin's record changed (R143) -/

section Change
variable {s : State} {b : BinNo} {y : Bin}

/-- Bin `b` holds the record `y`, and BIN carries it. -/
structure BinChanged (b : BinNo) (y : Bin) (s u : State) : Prop where
  bin : ∀ k, u.bin k = if k = b then y else s.bin k
  port : u.port supervisorPort =
    { s.port supervisorPort with queue := (s.port supervisorPort).queue ++ [binMsg b y] }
  frame : u = { s with bins := u.bins, ports := u.ports }

theorem binChanged (s : State) (b : BinNo) (y : Bin) : BinChanged b y s ((s.setBin b y).answer (binMsg b y)) where
  bin k := by
    rw [State.answer, State.reply_bin, State.setBin_bin]
    by_cases own : b = k
    · rw [if_pos own, if_pos own.symm]
    · rw [if_neg own, if_neg (Ne.symm own)]
  port := State.reply_port_self _ _ _
  frame := rfl

theorem BinChanged.gate {u : State} (h : BinChanged b y s u) (n : Lathe) :
    u.gate n b = match (s.account n).program with
      | some g => gateOf y g.capacity
      | none => .none := by
  have account : u.account n = s.account n := by rw [h.frame]; rfl
  have bin : u.bin b = y := (h.bin b).trans (if_pos rfl)
  rw [State.gate, account, bin]
  cases (s.account n).program with
  | none => rfl
  | some g => exact y.gate_eq g.capacity

/-- The DUMP of a step issued (R117, R148, R155). -/
structure DumpIssued (b : BinNo) (j : Job) (u v : State) : Prop where
  events : v.events = u.events
  job : v.seq.job = u.seq.job
  phase : v.seq.phase = .outstanding
  sched : v.sched = u.sched
  bin : v.bin b = { u.bin b with inFlight := j.parts }
  shuttle : v.shuttle = u.shuttle.issued .dump (.bin b) u.shuttle.load.speed
  timer : v.timer.stepTimer = .running u.params.stepLimitHandle

theorem dumpIssued (u : State) (j : Job) (b : BinNo) : DumpIssued b j u (u.beginStep.issueStep j ⟨.dump, .bin b⟩) where
  events := rfl
  job := rfl
  phase := rfl
  sched := rfl
  bin := State.setBin_bin_self _ _ _
  shuttle := rfl
  timer := rfl

/-- A dump that waits for its bin is issued when its parts fit (R132, R143). -/
theorem State.recheckDump_of_fits {u : State} {i : Slot} {j : Job} (active : u.active = some (i, j))
    (waits : u.seq.phase = .dumpWait) (kind : j.kind = .collect) (bin : j.bin = some b)
    (order : j.order = some ⟨.dump, .bin b⟩) (fits : (u.bin b).fits j.parts = true) :
    u.recheckDump b = u.beginStep.issueStep j ⟨.dump, .bin b⟩ := by
  have begun : u.beginStep.active = some (i, j) := (u.beginStep_active).trans active
  have taken : u.recheckDump b = u.takeUp := by
    unfold State.recheckDump
    rw [active]
    simp [waits, bin, fits]
  have place : ¬u.beginStep.noPlace ⟨.dump, .bin b⟩ := fun h => by cases h.1
  have room : ¬u.beginStep.noRoom j ⟨.dump, .bin b⟩ := fun ⟨b', is, full⟩ => by
    cases is
    rw [show u.beginStep.bin b = u.bin b from rfl, fits] at full
    cases full
  rw [taken, State.takeUp_of_active active (State.nothingToPick_eq_false (.inl (by rw [kind]; decide))),
    State.checkAndIssue_of_clear begun order rfl place room]

end Change

/-- Settles O42: the record is changed, the fit checked again where a dump waits, and the blocks evaluated. -/
theorem binRequestsChangeBin : Obligations.BinRequestsChangeBin := by
  intro x value s unanswered
  have rset : exec (.binSet x value) s = .next (s.handleBinSet x value) :=
    congrArg Host.Outcome.next (State.taken_of_not_replyPending _ unanswered)
  have rclose : exec (.binClose x) s = .next (s.handleBinClose x) :=
    congrArg Host.Outcome.next (State.taken_of_not_replyPending _ unanswered)
  have remptied : exec (.binEmptied x) s = .next (s.handleBinEmptied x) :=
    congrArg Host.Outcome.next (State.taken_of_not_replyPending _ unanswered)
  refine ⟨fun beyond => ?_, ?_⟩
  · rw [rset, rclose, remptied, State.handleBinSet, State.handleBinClose, State.handleBinEmptied,
      s.numbered_of_le _ _ _ beyond, s.numbered_of_le _ _ _ beyond, s.numbered_of_le _ _ _ beyond]
    exact ⟨rfl, rfl, rfl⟩
  intro b named old free gate blocked after waits both
  rw [State.handleBinSet, s.numbered_of_val_eq _ _ _ named] at rset
  rw [State.handleBinClose, s.numbered_of_val_eq _ _ _ named] at rclose
  rw [State.handleBinEmptied, s.numbered_of_val_eq _ _ _ named] at remptied
  have named' : b1 b.val = x := b1_of_val_eq named
  have mem (i : Slot) : i ∈ allSlots := List.mem_finRange i
  have settles (c : Instr) (y : Bin) (run : exec c s = .next (s.changeBin b y)) : both c y := by
    have changed := binChanged s b y
    rw [State.changeBin] at run
    generalize (s.setBin b y).answer (binMsg b y) = u at changed run
    refine ⟨fun undumped busy => ?_, fun dumps i j active state kind step bin => ?_⟩
    · have keeps : u.recheckDump b = u := by
        unfold State.recheckDump
        split
        · have undumped' : u.seq.phase ≠ .dumpWait := by rw [changed.frame]; exact undumped
          simp [undumped']
        · rfl
      rw [keeps] at run
      have turns := evalBins_turns u b
      generalize u.evalBins b = t at run turns
      have busy' : t.shuttleFree = false := by rw [turns.frame, changed.frame]; exact busy
      rw [State.dispatch_of_busy busy'] at run
      have sched : u.sched = s.sched := by rw [changed.frame]
      have old (i : Slot) : u.job i = s.job i := by rw [State.job, sched, State.job]
      have job (i : Slot) : t.job i = (s.job i).map (u.binJob b) := by
        rw [turns.job, if_pos (mem i), old]
      have gates (j : Job) : u.gate j.lathe b = gate y j := (changed.gate j.lathe).trans rfl
      refine ⟨t, run, fun k => ?_, ?_, fun i j g hj kind bin waits unparked stocked program => ?_,
        fun i j hj kind bin suspended => ?_, fun nodup => ?_, fun i j hj other => ?_, ?_, ?_, ?_, ?_, ?_, ?_⟩
      · rw [turns.frame]
        exact changed.bin k
      · rw [turns.frame, ← named']
        exact changed.port
      · rw [job, hj, Option.map_some]
        have is : gate y j = gateOf y g.capacity := by
          simp only [gate, program]
        simp only [State.binJob, kind, bin, waits, unparked, stocked, and_self, or_self, if_true, if_false, gates, is]
        rfl
      · rw [job, hj, Option.map_some]
        simp only [State.binJob, kind, bin, suspended, and_self, if_true, gates]
      · rw [turns.stack (sched ▸ nodup), sched]
        refine List.filter_congr fun i _ => ?_
        rw [old, decide_eq_true (mem i), Bool.true_and]
        simp only [blocked]
        congr 2
        funext j
        rw [State.leavesStack, gates]
      · rw [job, hj, Option.map_some, State.binJob, if_neg (not_and_or.2 other)]
      · rw [turns.frame, changed.frame]
        rfl
      · rw [turns.frame, changed.frame]
        rfl
      · rw [turns.frame, changed.frame]
        rfl
      · rw [turns.frame, changed.frame]
        rfl
      · rw [turns.frame, changed.frame]
        rfl
      · rw [turns.frame, changed.frame]
        exact ⟨rfl, rfl, rfl, rfl, rfl, rfl, rfl, rfl, rfl, rfl⟩
    · have active' : u.active = some (i, j) := by rw [changed.frame]; exact active
      have own : u.job i = some j := (State.active_eq_some.1 active').2
      have bin' : u.bin b = y := (changed.bin b).trans (if_pos rfl)
      have order : j.order = some ⟨.dump, .bin b⟩ := by simp [Job.order, kind, step, bin]
      have dumps' : u.seq.phase = .dumpWait := by rw [changed.frame]; exact dumps
      have stays {v t : State} (turns : BinTurns b allSlots v t) (hj : v.job i = some j) : t.job i = some j := by
        rw [turns.job, if_pos (mem i), hj, Option.map_some, State.binJob, state]
        simp only [ite_self]
      have events : u.events = s.events := by rw [changed.frame]
      have seq : u.seq = s.seq := by rw [changed.frame]
      have seqJob : s.seq.job = some i := (State.active_eq_some.1 active).1
      cases fits : y.fits j.parts with
      | true =>
        have issues := State.recheckDump_of_fits active' dumps' kind bin order (bin'.symm ▸ fits)
        rw [issues] at run
        have issued := dumpIssued u j b
        generalize u.beginStep.issueStep j ⟨.dump, .bin b⟩ = v at run issued
        have turns := evalBins_turns v b
        have own' : v.job i = some j := by rw [State.job, issued.sched]; exact own
        generalize v.evalBins b = t at run turns
        have busy : t.shuttleFree = false := by
          rw [turns.frame]
          change (_ && v.seq.job.isNone) = false
          rw [issued.job, seq, seqJob, Option.isNone_some, Bool.and_false]
        rw [State.dispatch_of_busy busy] at run
        refine ⟨t, run, ?_, ?_, stays turns own', fun _ _ => ⟨?_, ?_, ?_, ?_⟩, fun full => ?_⟩
        · rw [turns.frame]
          exact issued.events.trans events
        · rw [turns.frame]
          exact issued.job.trans ((congrArg (·.job) seq).trans seqJob)
        · rw [turns.frame]
          exact issued.bin.trans (by rw [bin'])
        · rw [turns.frame]
          exact issued.phase
        · rw [turns.frame]
          exact issued.shuttle.trans (by rw [changed.frame])
        · rw [turns.frame]
          exact issued.timer.trans (by rw [changed.frame])
        · exact absurd ((y.fits_eq_false_iff j.parts).2 full) (by rw [fits]; decide)
      | false =>
        have keeps : u.recheckDump b = u := by
          unfold State.recheckDump
          rw [active', bin']
          simp only [fits, Bool.and_false, Bool.false_eq_true, if_false]
        rw [keeps] at run
        have turns := evalBins_turns u b
        generalize u.evalBins b = t at run turns
        have busy : t.shuttleFree = false := by
          rw [turns.frame]
          change (_ && u.seq.job.isNone) = false
          rw [seq, seqJob, Option.isNone_some, Bool.and_false]
        rw [State.dispatch_of_busy busy] at run
        refine ⟨t, run, ?_, ?_, stays turns own, fun isOpen room => ?_, fun _ => ⟨?_, ?_, ?_, ?_⟩⟩
        · rw [turns.frame]
          exact events
        · rw [turns.frame]
          exact (congrArg (·.job) seq).trans seqJob
        · exact absurd ((y.fits_eq_false_iff j.parts).1 fits) (by rw [not_or]; exact ⟨by rw [isOpen]; decide, Nat.not_lt.2 room⟩)
        · rw [turns.frame]
          exact bin'
        · rw [turns.frame]
          exact seq
        · rw [turns.frame, changed.frame]
          rfl
        · rw [turns.frame, changed.frame]
          rfl
  exact ⟨settles _ _ rset, settles _ _ rclose, settles _ _ remptied⟩

end Sys2Proof.Machine

/-! PROOFS. Taking up a step (R104, R119), a job that gives up or completes (R106, R107, R137), and the requests and
completions that lead there: CLEAR_COMPLETE (R166) and SHUTTLE RUN (R163). -/
namespace Sys2Proof.Machine

open Sys2Proof

/-! ### How a step is taken up (R119, R123, R125, R130, R132) -/

/-- State `u`, whose active job is `j`, stands as `s` in all that the taking up of a step reads or leaves; its shuttle
record is `sh` but for the state. -/
structure TakesUp (s u : State) (sh : Shuttle) (i : Slot) (j : Job) : Prop where
  active : u.active = some (i, j)
  shuttle : { u.shuttle with state := sh.state } = sh
  job : u.seq.job = s.seq.job
  tIssue : u.seq.tIssue = s.seq.tIssue
  lines : u.lines = s.lines
  reject : u.rack.reject = s.rack.reject
  bins : u.bins = s.bins
  guardWait : u.timer.guardWait = s.timer.guardWait
  params : u.params = s.params
  events : u.events = s.events
  now : u.now = s.now
  tray : (u.account j.lathe).tray = (s.account j.lathe).tray

section TakesUp
variable {s u : State} {sh : Shuttle} {i : Slot} {j : Job} {o : Order}

theorem State.guardPasses_eq_false_iff (s : State) (st : Station) :
    s.guardPasses st = false ↔ ∃ n, st = .lathe n ∧ (s.line n).guardClosed = false := by
  unfold State.guardPasses
  split
  · next n => simp
  · next other =>
    simp only [reduceCtorEq, false_iff, not_exists, not_and]
    exact fun n is => absurd is (other n)

/-- A step's order issued, field by field (R117, R130, R148, R155). -/
theorem State.issueStep_fields (v : State) (j : Job) (o : Order) :
    (v.issueStep j o).shuttle = v.shuttle.issued o.kind o.target v.shuttle.load.speed ∧
      (v.issueStep j o).seq =
        { v.seq with
          phase := .outstanding, order := some o
          tIssue := if o.kind = .empty then (v.account j.lathe).tray else v.seq.tIssue } ∧
      (v.issueStep j o).timer = { v.timer with stepTimer := .running (v.params.stepLimit o.kind) } ∧
      (v.issueStep j o).events = v.events ∧
      ∀ b, (v.issueStep j o).bin b = if o = ⟨.dump, .bin b⟩ then { v.bin b with inFlight := j.parts } else v.bin b := by
  obtain ⟨kind, target⟩ := o
  unfold State.issueStep State.holdInFlight
  split
  · next b isDump isBin =>
    cases isDump
    cases isBin
    refine ⟨rfl, rfl, rfl, rfl, fun b' => ?_⟩
    refine (State.setBin_bin _ _ _ _).trans ?_
    by_cases own : b = b'
    · subst own
      rw [if_pos rfl, if_pos rfl]
      rfl
    · rw [if_neg own, if_neg fun is => own (Station.bin.inj (congrArg Order.target is))]
      rfl
  · next other =>
    refine ⟨rfl, rfl, rfl, rfl, fun b => ?_⟩
    rw [if_neg fun is => other b (congrArg Order.kind is) (congrArg Order.target is)]
    rfl

/-- The steps of a job are never a HOME (R118). -/
theorem Job.order_kind_ne_home (order : j.order = some o) : o.kind ≠ .home := by
  have never : ∀ o ∈ j.order, o.kind ≠ .home := by
    unfold Job.order
    split <;> simp
  exact never o order

theorem stepLimit_of_order (p : Params) (order : j.order = some o) :
    p.stepLimit o.kind = if o.kind = .move then p.stepLimitMove else p.stepLimitHandle := by
  have other := Job.order_kind_ne_home order
  revert other
  cases o.kind <;> simp [Params.stepLimit]

theorem StepRecord.eq_of_fields {x y : StepRecord} (job : x.job = y.job) (phase : x.phase = y.phase)
    (order : x.order = y.order) (tIssue : x.tIssue = y.tIssue) (expiries : x.expiries = y.expiries)
    (boundary : x.boundary = y.boundary) : x = y := by
  cases x
  cases y
  simp_all

theorem TakesUp.stepTaken (h : TakesUp s u sh i j) (order : j.order = some o)
    (room : o.kind = .place ∨ o.kind = .dump → s.events.records.length < 64) :
    s.stepTaken u.beginStep.checkAndIssue sh j o := by
  have begun : u.beginStep.active = some (i, j) := (u.beginStep_active).trans h.active
  have eq := State.beginStep_of_active h.active
  have shuttle (st : ShuttleState) : { u.beginStep.shuttle with state := st } = { sh with state := st } := by
    rw [eq]
    exact congrArg (fun x : Shuttle => { x with state := st }) h.shuttle
  have load : u.beginStep.shuttle.load = sh.load := by
    rw [eq, ← h.shuttle]
    rfl
  have job : u.beginStep.seq.job = s.seq.job := by rw [eq]; exact h.job
  have tIssue : u.beginStep.seq.tIssue = s.seq.tIssue := by rw [eq]; exact h.tIssue
  have expiries : u.beginStep.seq.expiries = 0 := by rw [eq]; rfl
  have seqOrder : u.beginStep.seq.order = some o := by rw [eq]; exact order
  have boundary : u.beginStep.seq.boundary = false := by rw [eq]; rfl
  have reject : u.beginStep.rack.reject = s.rack.reject := h.reject
  have bins : u.beginStep.bins = s.bins := h.bins
  have guardWait : u.beginStep.timer.guardWait = s.timer.guardWait := h.guardWait
  have params : u.beginStep.params = s.params := h.params
  have events : u.beginStep.events = s.events := h.events
  have now : u.beginStep.now = s.now := h.now
  have tray : (u.beginStep.account j.lathe).tray = (s.account j.lathe).tray := h.tray
  have line (n : Lathe) : u.beginStep.line n = s.line n := congrArg (fun x => x.read n) h.lines
  have bin (b : BinNo) : u.beginStep.bin b = s.bin b := congrArg (fun x => x.read b) h.bins
  clear eq
  generalize u.beginStep = v at *
  have guarded : v.guardPasses o.target = false ↔ ∃ n, o.target = .lathe n ∧ (s.line n).guardClosed = false := by
    rw [v.guardPasses_eq_false_iff]
    exact exists_congr fun n => by rw [line]
  have noRoom : v.noRoom j o ↔ ∃ b, o = ⟨.dump, .bin b⟩ ∧
      ((s.bin b).isOpen = false ∨ (s.bin b).capacity - (s.bin b).count - (s.bin b).inFlight < j.parts) :=
    exists_congr fun b => by rw [bin, Bin.fits_eq_false_iff]
  have room' (posts : o.kind = .place ∨ o.kind = .dump) : v.events.records.length < 64 := by
    rw [events]
    exact room posts
  refine ⟨fun isOpen => ?_, fun ⟨is, full⟩ => ?_, fun ⟨b, is, full⟩ => ?_, fun closed place space => ?_⟩
  · rw [State.checkAndIssue_of_guarded begun order (guarded.2 isOpen)]
    exact ⟨shuttle .waiting, StepRecord.eq_of_fields job rfl seqOrder tIssue rfl boundary, by rw [← params]; rfl, events,
      bins⟩
  · rw [State.checkAndIssue_of_noPlace begun order ⟨is, by rw [reject]; exact full⟩, State.post_shuttle, State.post_seq,
      State.post_timer, State.post_bins, State.post_records (s := v.enterWait .rejectWait) _ (room' (.inl (congrArg Order.kind is)))]
    refine ⟨shuttle .waiting, StepRecord.eq_of_fields job rfl seqOrder tIssue expiries boundary, guardWait, bins, ?_⟩
    rw [← now, ← events]
    rfl
  · subst is
    have full' : (v.bin b).fits j.parts = false := by
      rw [bin, Bin.fits_eq_false_iff]
      exact full
    rw [State.checkAndIssue_of_noRoom begun order full', State.post_shuttle, State.post_seq,
      State.post_timer, State.post_bins, State.post_records (s := v.enterWait .dumpWait) _ (room' (.inr rfl))]
    refine ⟨shuttle .waiting, StepRecord.eq_of_fields job rfl seqOrder tIssue expiries boundary, guardWait, bins, ?_⟩
    intro b' same
    cases same
    rw [← now, ← events, bin]
    rfl
  · have passes : v.guardPasses o.target = true := eq_true_of_ne_false fun fails => closed (guarded.1 fails)
    rw [State.checkAndIssue_of_clear begun order passes (fun h => place ⟨h.1, reject ▸ h.2⟩) fun h => space (noRoom.1 h)]
    obtain ⟨shuttle', seq', timer', events', bins'⟩ := v.issueStep_fields j o
    refine ⟨?_, ?_, ?_, ?_, events'.trans events, fun b => ?_⟩
    · rw [shuttle', load]
      have same := congrArg (fun x : Shuttle => x.issued o.kind o.target sh.load.speed) (shuttle sh.state)
      exact same
    · rw [seq', tray]
      exact StepRecord.eq_of_fields job rfl rfl (by rw [tIssue]) expiries boundary
    · rw [timer', params]
      exact congrArg Timer.running (stepLimit_of_order _ order)
    · rw [timer']
      exact guardWait
    · rw [bins', bin]

/-- What the taking up of a step leaves (R119). -/
theorem State.taken_frame (u : State) :
    u.beginStep.checkAndIssue.sched = u.sched ∧ u.beginStep.checkAndIssue.rack = u.rack ∧
      u.beginStep.checkAndIssue.accounts = u.accounts ∧ u.beginStep.checkAndIssue.ports = u.ports ∧
      Kept u u.beginStep.checkAndIssue := by
  have keeps := SchedReach.keeps (.trans (sched_beginStep u) (sched_checkAndIssue _))
  exact ⟨u.beginStep.checkAndIssue_sched, u.beginStep.checkAndIssue_rack, keeps.accounts, keeps.ports, keeps.kept⟩

/-- The order of a step that goes to a lane is issued, whatever else stands (R119, R155). -/
theorem State.taken_of_lane {kind : OrderKind} {k : LaneNo} (active : u.active = some (i, j))
    (order : j.order = some ⟨kind, .lane k⟩) :
    u.beginStep.checkAndIssue = u.beginStep.issueStep j ⟨kind, .lane k⟩ :=
  State.checkAndIssue_of_clear ((u.beginStep_active).trans active) order rfl (fun h => by cases h.1) fun ⟨_, h, _⟩ => by
    cases h

theorem State.nothingToPick_iff (s : State) (j : Job) :
    s.nothingToPick j = true ↔
      j.kind = .ret ∧ j.step = .two ∧ ∀ c, (s.account j.lathe).cradle = some c → c.loading = true := by
  unfold State.nothingToPick
  cases (s.account j.lathe).cradle <;> simp [and_assoc]

/-- The shuttle released and the slot emptied at a completion, before the schedule acts on it (R107, R137). -/
def State.completed (s : State) (i : Slot) (j : Job) : State :=
  ((((s.jobDone j).setSeq .clear).releaseShuttle).vacate i)

theorem State.completed_sched (s : State) (i : Slot) (j : Job) :
    (s.completed i j).sched = { s.sched with slots := s.sched.slots.write i none, stack := s.sched.stack.erase i } := by
  have done : (s.jobDone j).sched = s.sched := by
    unfold State.jobDone
    split
    · exact State.post_sched _ _
    · exact State.post_sched _ _
    · rfl
  have sched : (((s.jobDone j).setSeq .clear).releaseShuttle).sched = s.sched := by
    rw [State.releaseShuttle_frame]
    exact done
  rw [State.completed, State.vacate, sched]
  rfl

/-- A completion with nothing deferred, by what it brings besides the freed slot (R107, R137). -/
theorem State.completeActive_eq {s : State} {i : Slot} {j : Job} (hj : s.job i = some j)
    (deferred : s.sched.deferred = []) :
    s.completeActive i .plain = (s.completed i j).dispatch ∧
      s.completeActive i .dumped = ((s.completed i j).collectAgain j.lathe).dispatch ∧
      s.completeActive i .unpicked = ((s.completed i j).returnDeparted j.lathe).dispatch := by
  have served : (s.completed i j).serveDeferred = s.completed i j :=
    State.serveDeferred_of_empty (by rw [s.completed_sched]; exact deferred)
  unfold State.completeActive
  simp only [hj]
  rw [show ((((s.jobDone j).setSeq .clear).releaseShuttle).vacate i).serveDeferred = s.completed i j from served]
  exact ⟨rfl, rfl, rfl⟩

theorem State.returnDeparted_of_away {s : State} {n : Lathe} (away : (s.account n).state ≠ .await) :
    s.returnDeparted n = s := if_neg away

theorem State.releaseShuttle_of_idle {s : State} (state : s.shuttle.state = .idle) (halt : s.shuttle.haltPending = false) :
    s.releaseShuttle = s.setShuttle { s.shuttle with state := .idle } := by
  simp [State.releaseShuttle, state, halt]

/-- A RETURN that finds no bar it may take completes and leaves the shuttle IDLE (R107, R134, R137). -/
theorem State.takeUp_of_nothing (active : u.active = some (i, j)) (nothing : u.nothingToPick j = true)
    (away : (u.account j.lathe).state ≠ .await) (halt : u.shuttle.haltPending = false) (deferred : u.sched.deferred = [])
    (others : u.noOtherReady i) :
    u.takeUp = ((u.setShuttle { u.shuttle with state := .idle }).setSeq .clear).setSched
      { u.sched with slots := u.sched.slots.write i none } := by
  obtain ⟨stack, idle⟩ := others
  obtain ⟨kind, -, -⟩ := (u.nothingToPick_iff j).1 nothing
  have hj : u.job i = some j := (State.active_eq_some.1 active).2
  have taken : u.takeUp = u.beginStep.completeActive i .unpicked := by
    unfold State.takeUp
    dsimp only
    rw [u.beginStep_active, active]
    simp only
    rw [u.beginStep_nothingToPick, nothing, if_pos rfl]
  have hj' : u.beginStep.job i = some j := hj
  have done : u.beginStep.completed i j = ((u.setShuttle { u.shuttle with state := .idle }).setSeq .clear).setSched
      { u.sched with slots := u.sched.slots.write i none } := by
    have none' : u.beginStep.jobDone j = u.beginStep := by rw [State.jobDone, kind]
    have erased : u.sched.stack.erase i = u.sched.stack := by rw [stack]; rfl
    have released : (u.beginStep.setSeq .clear).releaseShuttle =
        (u.setShuttle { u.shuttle with state := .idle }).setSeq .clear :=
      (State.releaseShuttle_of_idle (s := u.beginStep.setSeq .clear) rfl halt).trans rfl
    rw [State.completed, none', released, State.vacate, State.setSeq_sched, State.setShuttle_sched, erased]
  have none' : (u.beginStep.completed i j).noneReady := by
    rw [done]
    refine ⟨stack, fun i' j' hj' => ?_⟩
    rw [State.setSched_job, Bank.read_write] at hj'
    split at hj'
    · cases hj'
    · next other => exact idle i' j' (Ne.symm other) hj'
  have away' : ((u.beginStep.completed i j).account j.lathe).state ≠ .await := by rw [done]; exact away
  rw [taken, (State.completeActive_eq hj' deferred).2.2, State.returnDeparted_of_away away',
    State.dispatch_of_noneReady none', done]

end TakesUp

/-! ### CLEAR_COMPLETE (R166) -/

/-- The part as the end of a CLEAR leaves it, the fault record cleared (R154, R166). -/
def State.clearEnded (s : State) (w : Word) : State :=
  (s.setTimer { s.timer with stepTimer := .stopped }).setShuttle
    { s.shuttle with
      lastStatus := some w, position := statusPosition w, noAnswer := 0, outstanding := none, heldWord := none
      fault := none }

theorem exec_clearComplete {s : State} {o : OutOrder} {w : Word} (out : s.shuttle.outstanding = some o)
    (held : s.shuttle.heldWord = some w) (clear : o.kind = .clear) :
    exec .clearComplete s = .next ((s.clearEnded w).afterClear (rehomeSpeed s.shuttle.fault)) := by
  change Host.Outcome.next _ = _
  simp only [out, held, clear, if_true]
  rfl

theorem rehomeSpeed_eq (f : Option FaultRecord) :
    rehomeSpeed f = if f.map (·.code) = some .unknownLoad then .slow else .fast := by
  cases f with
  | none => rfl
  | some r => simp [rehomeSpeed]

/-- Settles O54: the cases of R166 in their order. -/
theorem clearCompleteEndsFault : Obligations.ClearCompleteEndsFault := by
  intro s o w out held clear sh stopped bare running
  have run := exec_clearComplete out held clear
  obtain ⟨x, is, shuttle⟩ : ∃ x, s.clearEnded w = x ∧ x.shuttle = sh := ⟨_, rfl, rfl⟩
  have whole : x = stopped.setShuttle sh := is.symm
  rw [is, State.afterClear] at run
  refine ⟨fun failed => ?_, fun homed halts => ?_, fun homed runs free ready => ?_,
    fun i j next homed runs active order some' room => ?_, fun i j homed runs active nothing away deferred others => ?_,
    fun i j k homed runs active kind step lane => ?_⟩
  · intro sp
    rw [run, if_pos (by rw [shuttle]; exact failed), rehomeSpeed_eq, whole]
    rfl
  · rw [run, if_neg (by rw [shuttle]; exact Bool.eq_false_iff.1 homed), if_pos (by rw [shuttle]; exact halts), whole]
    rfl
  all_goals rw [if_neg (by rw [shuttle]; exact Bool.eq_false_iff.1 homed),
    if_neg (by rw [shuttle]; exact Bool.eq_false_iff.1 runs)] at run
  · have idle : x.active = none := by
      rw [whole]
      change (s.seq.job.bind _) = none
      rw [free]
      rfl
    have ready' : (x.setShuttle { x.shuttle with state := .idle }).noneReady := by
      rw [whole]
      exact ready
    rw [run, idle, if_neg (by decide), State.dispatch_of_noneReady ready', whole]
    rfl
  all_goals
    have active' : x.active = some (i, j) := by rw [whole]; exact active
    rw [active', Option.isSome_some, if_pos rfl] at run
  · have something : x.nothingToPick j = false := by
      refine Bool.eq_false_iff.2 fun nothing => some' ?_
      have := (x.nothingToPick_iff j).1 nothing
      rw [whole] at this
      exact this
    rw [State.takeUp_of_active active' something] at run
    have takes : TakesUp s x sh i j := by
      constructor
      · exact active'
      all_goals (rw [whole]; rfl)
    obtain ⟨sched, rack, accounts, ports, kept⟩ := x.taken_frame
    have start : Kept s x := by
      rw [whole]
      exact ⟨rfl, rfl, rfl, rfl, rfl, rfl, rfl, rfl, rfl, rfl⟩
    exact ⟨_, run, takes.stepTaken order fun _ => room, sched.trans (by rw [whole]; rfl), rack.trans (by rw [whole]; rfl),
      accounts.trans (by rw [whole]; rfl), ports.trans (by rw [whole]; rfl), start.trans kept⟩
  · have nothing' : x.nothingToPick j = true := by
      rw [x.nothingToPick_iff, whole]
      exact nothing
    rw [run, State.takeUp_of_nothing active' nothing' (by rw [whole]; exact away) (by rw [shuttle]; exact runs)
      (by rw [whole]; exact deferred) (by rw [whole]; exact others), whole]
    rfl
  · have order : j.order = some ⟨.move, .lane k⟩ := by simp [Job.order, kind, step, lane]
    have something : x.nothingToPick j = false := State.nothingToPick_eq_false (.inl (by rw [kind]; decide))
    rw [run, State.takeUp_of_active active' something, State.taken_of_lane active' order,
      State.beginStep_of_active active', order, whole]
    rfl

end Sys2Proof.Machine

/-! PROOFS. A job handed the shuttle (R103), a job that gives it up (R106), and SHUTTLE RUN (R163). -/
namespace Sys2Proof.Machine

open Sys2Proof

/-! ### A job handed the shuttle (R103) -/

section Start
variable {s : State} {i : Slot} {j : Job}

/-- A job as the dispatch hands it the shuttle (R103). -/
def Job.started (j : Job) : Job := { j with state := .active, block := .none, step := .one, short := false }

theorem State.activate_eq (hj : s.job i = some j) :
    s.activate i = (s.setSched { s.sched with slots := s.sched.slots.write i (some j.started) }).setSeq
      ⟨some i, .unissued, none, 0, 0, false⟩ := by
  rw [State.activate, State.updateJob, hj]
  rfl

theorem State.activate_active (hj : s.job i = some j) : (s.activate i).active = some (i, j.started) := by
  rw [State.activate_eq hj, State.active_eq_some]
  exact ⟨rfl, Bank.read_write_self _ _ _⟩

/-- A DELIVER job with a lane handed the shuttle: its MOVE to the lane is issued (R103, R119). -/
theorem State.startJob_of_move {k : LaneNo} (hj : s.job i = some j) (kind : j.kind = .deliver) (lane : j.lane = some k) :
    s.startJob i =
      (((s.setTimer { s.timer with stepTimer := .running s.params.stepLimitMove }).setSched
        { s.sched with slots := s.sched.slots.write i (some j.started) }).setSeq
        ⟨some i, .outstanding, some ⟨.move, .lane k⟩, 0, 0, false⟩).setShuttle
        (s.shuttle.issued .move (.lane k) s.shuttle.load.speed) := by
  have active := State.activate_active hj
  have order : j.started.order = some ⟨.move, .lane k⟩ := by simp [Job.order, Job.started, kind, lane]
  rw [State.startJob, State.taken_of_lane active order, State.beginStep_of_active active, order, State.activate_eq hj]
  rfl

/-- A job handed the shuttle, its first step to be taken up by the checks (R103, R119). -/
theorem takesUp_activate {sh : Shuttle} (hj : s.job i = some j) (shuttle : { s.shuttle with state := sh.state } = sh) :
    TakesUp (s.setSeq ⟨some i, .unissued, none, 0, 0, false⟩) (s.activate i) sh i j.started := by
  have active := State.activate_active hj
  rw [State.activate_eq hj] at *
  exact ⟨active, shuttle, rfl, rfl, rfl, rfl, rfl, rfl, rfl, rfl, rfl, rfl⟩

/-- A free shuttle goes to the top of the suspension stack (R103). -/
theorem State.dispatch_of_top {rest : List Slot} (free : s.shuttleFree = true) (stack : s.sched.stack = i :: rest) :
    s.dispatch = (s.setSched { s.sched with stack := rest }).startJob i := by
  simp [State.dispatch, free, stack]

/-- With nothing suspended a free shuttle goes to the first eligible job (R103). -/
theorem State.dispatch_of_best (free : s.shuttleFree = true) (stack : s.sched.stack = [])
    (best : s.bestEligible = some (i, j)) : s.dispatch = s.startJob i := by
  simp [State.dispatch, free, stack, best]

end Start

/-! ### A job that gives up the shuttle (R106) -/

section Preempt
variable {s : State} {i : Slot} {j : Job}

/-- A job's deadline is so much earlier that it takes the shuttle (R106). -/
def State.urgent (s : State) (j j' : Job) : Prop :=
  isBefore j'.deadline j.deadline = true ∧ s.params.preemptMargin ≤ (j.deadline - j'.deadline).toNat

theorem State.bestEligible_spec (best : s.bestEligible = some (i, j)) : s.job i = some j ∧ j.eligible = true :=
  State.bestJob_spec best

theorem State.preemptor_eq_none {a : Job} (h : 2 ≤ s.sched.stack.length ∨
    ∀ i' j', s.job i' = some j' → j'.eligible = true → ¬s.urgent a j') : s.preemptor a = none := by
  unfold State.preemptor
  split
  · next i' j' best =>
    obtain ⟨hj, eligible⟩ := State.bestEligible_spec best
    refine if_neg fun takes => ?_
    simp only [Bool.and_eq_true, decide_eq_true_eq] at takes
    obtain ⟨⟨before, margin⟩, room⟩ := takes
    rcases h with full | calm
    · exact absurd room (Nat.not_lt.2 full)
    · exact calm i' j' hj eligible ⟨before, margin⟩
  · rfl

theorem State.preemptor_of_best {a : Job} (best : s.bestEligible = some (i, j)) (urgent : s.urgent a j)
    (room : s.sched.stack.length < 2) : s.preemptor a = some i := by
  have room' : s.sched.stack.length < Config.stackPlaces := room
  simp only [State.preemptor, best]
  refine if_pos ?_
  simp only [Bool.and_eq_true, decide_eq_true_eq]
  exact ⟨⟨urgent.1, urgent.2⟩, room'⟩

/-- Only a COLLECT job can be blocked as it gives up the shuttle (R106). -/
theorem State.suspend_eq (hj : s.job i = some j) (kind : j.kind ≠ .collect) :
    s.suspend i = s.setSched
      { s.sched with
        slots := s.sched.slots.write i (some { j with state := .suspended, step := .one, short := false })
        stack := i :: s.sched.stack } := by
  unfold State.suspend
  simp only [hj]
  split
  · next isCollect _ => exact absurd isCollect kind
  · exact if_pos rfl

theorem State.crossBoundary_of_calm (active : s.active = some (i, j))
    (h : s.shuttle.load ≠ .none ∨ s.preemptor j = none) : s.crossBoundary = s.takeUp := by
  unfold State.crossBoundary
  rw [active]
  simp only
  split
  · next empty =>
    rw [h.resolve_left (not_not_intro empty)]
  · rfl

theorem State.crossBoundary_of_urgent {k : Slot} (active : s.active = some (i, j)) (load : s.shuttle.load = .none)
    (takes : s.preemptor j = some k) : s.crossBoundary = (s.suspend i).startJob k := by
  simp [State.crossBoundary, active, load, takes]

end Preempt

/-! ### SHUTTLE RUN (R158, R163) -/

/-- Settles O45: by the shuttle's state; HALTED leads to a dispatch, to the present step, or over the boundary. -/
theorem shuttleRunSetsGoing : Obligations.ShuttleRunSetsGoing := by
  intro s free answered_ issued
  have run : exec .shuttleRun s = .next s.handleShuttleRun :=
    congrArg Host.Outcome.next (State.taken_of_not_replyPending _ free)
  rw [State.handleShuttleRun] at run
  refine ⟨fun state => ?_, fun states => ?_, fun state => ?_, fun state job ready => ?_,
    fun i j k state job stack best kind lane => ?_, fun i j o rest state job stack hj => ?_,
    fun i j o state active isActive order => ?_⟩
  · rw [state] at run
    exact run.trans (congrArg Host.Outcome.next (State.shuttleReply_eq _))
  · rcases states with state | state | state | state
    all_goals
      rw [state] at run
      exact run.trans (congrArg Host.Outcome.next (State.shuttleReply_eq _))
  · rw [state] at run
    exact run.trans (congrArg Host.Outcome.next (State.refuseSup_eq_reply _ _ _))
  all_goals
    have leaves : exec .shuttleRun s = .next s.leaveHalt.reported := by
      rw [state] at run
      exact run.trans (congrArg Host.Outcome.next (State.shuttleReply_eq _))
  · have idle : s.active = none := by
      change (s.seq.job.bind _) = none
      rw [job]
      rfl
    have ready' : (s.setShuttle { s.shuttle with state := .idle }).noneReady := ready
    rw [State.leaveHalt, idle, Option.isSome_none, if_neg (by decide), State.dispatch_of_noneReady ready'] at leaves
    exact leaves
  · have idle : s.active = none := by
      change (s.seq.job.bind _) = none
      rw [job]
      rfl
    have free' : (s.setShuttle { s.shuttle with state := .idle }).shuttleFree = true := by
      change (_ && s.seq.job.isNone) = true
      rw [job]
      rfl
    rw [State.leaveHalt, idle, Option.isSome_none, if_neg (by decide), State.dispatch_of_best free' stack best,
      State.startJob_of_move (s := s.setShuttle { s.shuttle with state := .idle }) (State.bestEligible_spec best).1 kind
        lane] at leaves
    exact leaves
  · intro resumed order room
    have idle : s.active = none := by
      change (s.seq.job.bind _) = none
      rw [job]
      rfl
    have free' : (s.setShuttle { s.shuttle with state := .idle }).shuttleFree = true := by
      change (_ && s.seq.job.isNone) = true
      rw [job]
      rfl
    rw [State.leaveHalt, idle, Option.isSome_none, if_neg (by decide), State.dispatch_of_top free' stack] at leaves
    obtain ⟨x, is, hx, shuttle⟩ : ∃ x, (s.setShuttle { s.shuttle with state := .idle }).setSched
        { (s.setShuttle { s.shuttle with state := .idle }).sched with stack := rest } = x ∧ x.job i = some j ∧
        { x.shuttle with state := s.shuttle.state } = s.shuttle := ⟨_, rfl, hj, rfl⟩
    rw [is] at leaves
    have takes := takesUp_activate hx shuttle
    have taken := takes.stepTaken order (fun _ => by rw [← is]; exact room)
    obtain ⟨sched, rack, accounts, ports, kept⟩ := (x.activate i).taken_frame
    have start := State.activate_eq hx
    rw [start] at sched rack accounts ports kept
    refine ⟨x.startJob i, leaves, ?_, ?_, ?_, ?_, ?_, ?_⟩
    · rw [← is] at taken ⊢
      exact taken
    · rw [State.startJob, start, sched, ← is]
      rfl
    · rw [State.startJob, start, rack, ← is]
      rfl
    · rw [State.startJob, start, accounts, ← is]
      rfl
    · rw [State.startJob, start, ports, ← is]
      rfl
    · rw [State.startJob, start]
      refine .trans ?_ kept
      rw [← is]
      exact ⟨rfl, rfl, rfl, rfl, rfl, rfl, rfl, rfl, rfl, rfl⟩
  · intro urgent
    have own : s.job i = some j := (State.active_eq_some.1 active).2
    rw [State.leaveHalt, active, Option.isSome_some, if_pos rfl] at leaves
    have ineligible : j.eligible = false := by simp [Job.eligible, isActive]
    have others {P : Slot → Job → Prop} (h : ∀ i' j', i' ≠ i → s.job i' = some j' → j'.eligible = true → P i' j')
        (i' : Slot) (j' : Job) (hj' : s.job i' = some j') (eligible : j'.eligible = true) : P i' j' := by
      refine h i' j' (fun same => ?_) hj' eligible
      rw [same, own] at hj'
      cases hj'
      rw [ineligible] at eligible
      cases eligible
    have stays (h : s.seq.boundary = false ∨ s.shuttle.load ≠ .none ∨ s.preemptor j = none) :
        (if s.seq.boundary then s.crossBoundary else s.takeUp) = s.takeUp := by
      split
      · next boundary =>
        exact State.crossBoundary_of_calm active (h.resolve_left (by rw [boundary]; decide))
      · rfl
    refine ⟨fun calm picks room => ?_, fun kind step nothing away halt deferred ready => ?_,
      fun i2 j2 k2 boundary load kind other hj2 eligible kind2 lane2 urgent2 room first => ?_⟩
    · have calm' : s.seq.boundary = false ∨ s.shuttle.load ≠ .none ∨ s.preemptor j = none :=
        calm.imp_right fun h => h.imp_right fun h => State.preemptor_eq_none (h.imp_right fun h => others h)
      have something : s.nothingToPick j = false := by
        refine Bool.eq_false_iff.2 fun nothing => ?_
        obtain ⟨kind, step, loading⟩ := (s.nothingToPick_iff j).1 nothing
        obtain ⟨c, cradle, unloaded⟩ := picks kind step
        rw [loading c cradle] at unloaded
        cases unloaded
      have takes : TakesUp s s s.shuttle i j := ⟨active, rfl, rfl, rfl, rfl, rfl, rfl, rfl, rfl, rfl, rfl, rfl⟩
      rw [stays calm', State.takeUp_of_active active something] at leaves
      obtain ⟨sched, rack, accounts, ports, kept⟩ := s.taken_frame
      exact ⟨_, leaves, takes.stepTaken order fun _ => room, sched, rack, accounts, ports, kept⟩
    · have none' : s.preemptor j = none := State.preemptor_eq_none
        (.inr (others fun i' j' other hj' eligible => absurd eligible (by rw [ready.2 i' j' other hj']; decide)))
      rw [stays (.inr (.inr none')), State.takeUp_of_nothing active ((s.nothingToPick_iff j).2 ⟨kind, step, nothing⟩) away
        halt deferred ready] at leaves
      exact leaves
    · have best : s.bestEligible = some (i2, j2) :=
        State.bestJob_of_goesBefore hj2 eligible fun i' j' other' hj' eligible' =>
          others (P := fun i' j' => i' ≠ i2 → goesBefore i2 j2 i' j')
            (fun i' j' otherI hj' eligible' other2 => first i' j' otherI other2 hj' eligible') i' j' hj' eligible' other'
      have takes := State.preemptor_of_best (a := j) best urgent2 room
      rw [boundary, if_pos rfl, State.crossBoundary_of_urgent active load takes, State.suspend_eq own kind,
        State.startJob_of_move (j := j2) ?_ kind2 lane2] at leaves
      · have fast : Speed.fast = s.shuttle.load.speed := by rw [load]; rfl
        rw [fast]
        exact leaves
      · exact (Bank.read_write_ne _ _ _ _ (Ne.symm other)).trans hj2

end Sys2Proof.Machine

/-! PROOFS. The end of an order (R154, R157) and the course of the job whose step it was (R112, R122): a HOME, a load
that is not accepted, and a DELIVER job's MOVEs. -/
namespace Sys2Proof.Machine

open Sys2Proof

/-! ### ORDER_COMPLETE (R154, R157) -/

section Order
variable {s : State} {o : OutOrder} {w : Word}

/-- The part as the end of its order leaves it, before the outcome is handed on (R154). -/
def State.orderEnded (s : State) (w : Word) : State :=
  (s.setTimer { s.timer with stepTimer := .stopped }).setShuttle
    { s.shuttle with
      lastStatus := some w, position := statusPosition w, noAnswer := 0, outstanding := none, heldWord := none }

theorem exec_orderComplete (out : s.shuttle.outstanding = some o) (held : s.shuttle.heldWord = some w)
    (other : o.kind ≠ .clear) : exec .orderComplete s = .next ((s.orderEnded w).handOn o (sensedLoad w)) := by
  change Host.Outcome.next _ = _
  simp only [out, held, other, if_false]
  rfl

theorem State.handOn_home (purpose : o.purpose = .home) (l : Load) : s.handOn o l = s.homeDone o l := by
  simp only [State.handOn, purpose]

/-- A step's outcome with its load accepted (R120). -/
theorem State.handOn_of_accepted {i : Slot} {j : Job} {l : Load} (purpose : o.purpose = .step)
    (active : s.active = some (i, j)) (accepts : j.accepts l = true) : s.handOn o l = s.takeOutcome i j l := by
  simp only [State.handOn, purpose, State.stepOutcome, active, accepts, if_true]

/-- A step's load that is not accepted is a fault (R121). -/
theorem State.handOn_of_refused {i : Slot} {j : Job} {l : Load} (purpose : o.purpose = .step)
    (active : s.active = some (i, j)) (accepts : j.accepts l = false) : s.handOn o l = s.declareFault .load 0 o := by
  simp only [State.handOn, purpose, State.stepOutcome, active, accepts, Bool.false_eq_true, if_false]

end Order

/-! ### The course of the active job after an outcome (R112, R122) -/

section Course
variable {s : State} {i : Slot} {j : Job} {next : StepIx} {picked : Bool}

theorem State.updateJob_eq (hj : s.job i = some j) (f : Job → Job) : s.updateJob i f = s.setSlot i (some (f j)) := by
  rw [State.updateJob, hj]
  rfl

/-- The job goes on where no mark acts on it: it has none, or it carries its load past a step that bound none. -/
theorem State.afterOutcome_goesOn (hj : s.job i = some j)
    (goes : j.cancel = .none ∨ (s.shuttle.load ≠ .none ∧ (picked = false ∨ j.short = true))) :
    s.afterOutcome i next picked = (s.setSlot i (some { j with step := next })).goOn := by
  have stepped : s.updateJob i (fun j => { j with step := next }) = s.setSlot i (some { j with step := next }) :=
    State.updateJob_eq hj _
  have hj' : (s.setSlot i (some { j with step := next })).job i = some { j with step := next } :=
    State.setSlot_job_self _ _ _
  unfold State.afterOutcome
  simp only [stepped, hj']
  split
  · rfl
  · next marked =>
    obtain ⟨load, plain⟩ := goes.resolve_left marked
    rw [if_neg (show ¬(s.setSlot i _).shuttle.load = .none from load), if_neg]
    rcases plain with unpicked | short
    · simp [unpicked]
    · simp [short]

/-- A mark acts on a job without a load: the job is removed (R112). -/
theorem State.afterOutcome_removes (hj : s.job i = some j) (mark : j.cancel ≠ .none) (load : s.shuttle.load = .none) :
    s.afterOutcome i next picked = (s.setSlot i (some { j with step := next })).removeActive i := by
  have stepped : s.updateJob i (fun j => { j with step := next }) = s.setSlot i (some { j with step := next }) :=
    State.updateJob_eq hj _
  have hj' : (s.setSlot i (some { j with step := next })).job i = some { j with step := next } :=
    State.setSlot_job_self _ _ _
  unfold State.afterOutcome
  simp only [stepped, hj']
  exact if_pos (show (s.setSlot i _).shuttle.load = .none from load)

theorem State.goOn_of_runs (runs : s.shuttle.haltPending = false) : s.goOn = s.crossBoundary := by
  simp [State.goOn, runs]

/-- A pending halt takes effect before the next step (R122 step 3; log 13). -/
theorem State.goOn_of_halt (halts : s.shuttle.haltPending = true) (active : s.active = some (i, j)) :
    s.goOn = (s.setSeq { s.seq with phase := .unissued, order := j.order, expiries := 0, boundary := true }).setShuttle
      { s.shuttle with state := .halted, haltPending := false } := by
  unfold State.goOn
  rw [if_pos halts, State.beginStep_of_active active]
  rfl

end Course

theorem State.dropInFlight_of_other {s : State} {o : OutOrder} (kind : o.kind ≠ .dump) : s.dropInFlight o = s := by
  unfold State.dropInFlight
  split
  · next isDump _ => exact absurd isDump kind
  · rfl

theorem State.dropInFlight_of_dump {s : State} {o : OutOrder} {b : BinNo} (kind : o.kind = .dump)
    (target : o.target = some (.bin b)) : s.dropInFlight o = s.setBin b { s.bin b with inFlight := 0 } := by
  simp only [State.dropInFlight, kind, target]

/-- The MOVEs of a job take the load and go on to the handling step (R120). -/
theorem State.takeOutcome_of_one {s : State} {i : Slot} {j : Job} {l : Load} (one : j.step = .one) :
    s.takeOutcome i j l = (s.setLoad l).afterOutcome i .two false := by
  unfold State.takeOutcome
  rw [one]
  cases j.kind <;> rfl

theorem State.takeOutcome_of_three {s : State} {i : Slot} {j : Job} {l : Load} (three : j.step = .three) :
    s.takeOutcome i j l = (s.setLoad l).afterOutcome i .four false := by
  unfold State.takeOutcome
  rw [three]
  cases j.kind <;> rfl

theorem Shuttle.without_halt {sh : Shuttle} (halt : sh.haltPending = false) (state : ShuttleState) :
    { sh with state := state } = { sh with state := state, haltPending := false } := by
  cases sh
  simp_all

/-- A stepping shuttle passed on by the job that leaves it (R122, R137, R164). -/
theorem State.releaseShuttle_of_stepping {s : State} (state : s.shuttle.state = .stepping) :
    s.releaseShuttle = s.setShuttle
      { s.shuttle with state := if s.shuttle.haltPending then .halted else .idle, haltPending := false } := by
  unfold State.releaseShuttle
  rw [state]
  simp only
  split
  · rfl
  · next runs => rw [Shuttle.without_halt (Bool.eq_false_iff.2 runs)]

/-- Settles O49: the HOME, the refused loads, and the DELIVER job's MOVEs with their boundaries. -/
theorem orderCompleteHomeAndLoadFault : Obligations.OrderCompleteHomeAndLoadFault := by
  intro s o w out held other sh stopped
  have run := exec_orderComplete out held other
  obtain ⟨x, is⟩ : ∃ x, s.orderEnded w = x := ⟨_, rfl⟩
  have whole : x = stopped.setShuttle sh := is.symm
  have shuttle : x.shuttle = sh := by rw [whole]; rfl
  rw [is] at run
  refine ⟨fun home sensed halts => ?_, fun home sensed runs ready => ?_,
    fun i j k rest home sensed runs free stack hj kind lane => ?_, fun home sensed => ?_,
    fun i j step kind active unmarked refused => ?_, fun i j b step kind target active isCollect four unmarked sensed => ?_,
    fun i j step active kind three sensed runs room => ?_, fun i j k step active isActive kind one lane sensed => ?_⟩
  · rw [run, State.handOn_home home, State.homeDone, if_pos sensed, if_pos (by rw [shuttle]; exact halts), whole]
    rfl
  · have ready' : (x.setShuttle { x.shuttle with state := .idle, homeFailed := false }).noneReady := by
      rw [whole]
      exact ready
    rw [run, State.handOn_home home, State.homeDone, if_pos sensed,
      if_neg (by rw [shuttle]; exact Bool.eq_false_iff.1 runs), State.dispatch_of_noneReady ready', whole]
    rfl
  · have free' : (x.setShuttle { x.shuttle with state := .idle, homeFailed := false }).shuttleFree = true := by
      rw [whole]
      change (_ && s.seq.job.isNone) = true
      rw [free]
      rfl
    rw [run, State.handOn_home home, State.homeDone, if_pos sensed,
      if_neg (by rw [shuttle]; exact Bool.eq_false_iff.1 runs),
      State.dispatch_of_top (i := i) (rest := rest) free' (by rw [whole]; exact stack),
      State.startJob_of_move (j := j) (by rw [whole]; exact hj) kind lane, whole]
    rfl
  · refine ⟨_, sh.faulted_fault _ _ _, ?_⟩
    rw [run, State.handOn_home home, State.homeDone, if_neg sensed,
      State.declareFault_of_unmarked (.inr (.inl (by rw [home]; decide)))]
    have kept : x.faultKept .unknownLoad 0 o = stopped.setShuttle (sh.faulted .unknownLoad 0 o) := by
      rw [State.faultKept, if_neg (by rw [home]; decide), State.faultDeclared, whole]
      rfl
    rw [kept, shuttle, whole]
    rfl
  all_goals
    have active' : x.active = some (i, j) := by rw [whole]; exact active
  · refine ⟨_, sh.faulted_fault _ _ _, ?_⟩
    have unmarked' : x.unmarked := fun i' j' active'' => by
      rw [active'] at active''
      cases active''
      exact unmarked
    have kept : x.faultKept .load 0 o =
        (stopped.setShuttle (sh.faulted .load 0 o)).setSeq { s.seq with phase := .unissued } := by
      rw [State.faultKept, if_pos step, State.faultDeclared, State.frozen, State.dropInFlight_of_other kind, whole]
      rfl
    rw [run, State.handOn_of_refused step active' refused, State.declareFault_of_unmarked (.inl unmarked'), active', kept,
      shuttle]
    rfl
  · refine ⟨_, sh.faulted_fault _ _ _, ?_⟩
    have unmarked' : x.unmarked := fun i' j' active'' => by
      rw [active'] at active''
      cases active''
      exact unmarked
    have kept : x.faultKept .load 0 o =
        ((stopped.setShuttle (sh.faulted .load 0 o)).setSeq { s.seq with phase := .unissued }).setBin b
          { s.bin b with inFlight := 0 } := by
      rw [State.faultKept, if_pos step, State.faultDeclared, State.frozen, State.dropInFlight_of_dump kind target, whole]
      rfl
    have refused : j.accepts (sensedLoad w) = false := by
      simp [Job.accepts, isCollect, four, sensed]
    rw [run, State.handOn_of_refused step active' refused, State.declareFault_of_unmarked (.inl unmarked'), active', kept,
      shuttle]
    rfl
  all_goals
    have hj : x.job i = some j := (State.active_eq_some.1 active').2
  · have accepts : j.accepts (sensedLoad w) = true := by simp [Job.accepts, kind, three, sensed]
    rw [run, State.handOn_of_accepted step active' accepts, State.takeOutcome_of_three three, sensed]
    obtain ⟨y, stands, load, job, runs'⟩ : ∃ y, (x.setLoad .bar).setSlot i (some { j with step := .four }) = y ∧
        y.shuttle.load = .bar ∧ y.active = some (i, { j with step := .four }) ∧ y.shuttle.haltPending = false := by
      refine ⟨_, rfl, rfl, ?_, by rw [whole]; exact runs⟩
      rw [State.active_eq_some, State.setSlot_job_self]
      exact ⟨(State.active_eq_some.1 active').1, rfl⟩
    have order : ({ j with step := .four } : Job).order =
        some ⟨.place, if j.short then .reject else .lathe j.lathe⟩ := by simp [Job.order, kind]
    have course : (x.setLoad .bar).afterOutcome i .four false = y.beginStep.checkAndIssue := by
      rw [State.afterOutcome_goesOn (s := x.setLoad .bar) hj (.inr ⟨(fun h => by cases h), .inl rfl⟩), stands,
        State.goOn_of_runs runs',
        State.crossBoundary_of_calm job (.inl (by rw [load]; decide)), State.takeUp_of_active job
        (State.nothingToPick_eq_false (.inr (show StepIx.four ≠ .two by decide)))]
    have takes : TakesUp s y (s.shuttle.ended w .bar) i { j with step := .four } := by
      rw [← stands, whole] at *
      exact ⟨job, rfl, rfl, rfl, rfl, rfl, rfl, rfl, rfl, rfl, rfl, rfl⟩
    obtain ⟨sched, rack, accounts, ports, kept⟩ := y.taken_frame
    have start : Kept s y := by
      rw [← stands, whole]
      exact ⟨rfl, rfl, rfl, rfl, rfl, rfl, rfl, rfl, rfl, rfl⟩
    refine ⟨_, congrArg Host.Outcome.next course, takes.stepTaken order fun _ => room, sched.trans ?_, rack.trans ?_,
      accounts.trans ?_, ports.trans ?_, start.trans kept⟩
    all_goals
      rw [← stands, whole]
      rfl
  · intro urgent next
    have accepts : j.accepts (sensedLoad w) = true := by simp [Job.accepts, kind, one, sensed]
    rw [State.handOn_of_accepted step active' accepts, State.takeOutcome_of_one one, sensed] at run
    obtain ⟨y, stands, load, job, shuttle', seq⟩ : ∃ y, (x.setLoad .none).setSlot i (some { j with step := .two }) = y ∧
        y.shuttle.load = .none ∧ y.active = some (i, { j with step := .two }) ∧
        y.shuttle = s.shuttle.ended w .none ∧ y.seq = s.seq := by
      refine ⟨_, rfl, rfl, ?_, by rw [whole]; rfl, by rw [whole]; rfl⟩
      rw [State.active_eq_some, State.setSlot_job_self]
      exact ⟨(State.active_eq_some.1 active').1, rfl⟩
    have order : ({ j with step := .two } : Job).order = some ⟨.pick, .lane k⟩ := by simp [Job.order, kind, lane]
    have explicit : y = (stopped.setSched next).setShuttle (s.shuttle.ended w .none) := by
      rw [← stands, whole]
      rfl
    have hj' : (x.setLoad .none).job i = some j := hj
    have own : s.job i = some j := (State.active_eq_some.1 active).2
    have read (i' : Slot) (other : i' ≠ i) : y.job i' = s.job i' := by
      rw [explicit]
      exact Bank.read_write_ne _ _ _ _ (Ne.symm other)
    have goes (unmarked : j.cancel = .none) : exec .orderComplete s = .next y.goOn := by
      rw [run, State.afterOutcome_goesOn hj' (.inl unmarked), stands]
    have others {P : Slot → Job → Prop} (h : ∀ i' j', i' ≠ i → s.job i' = some j' → j'.eligible = true → P i' j')
        (i' : Slot) (j' : Job) (hj' : y.job i' = some j') (eligible : j'.eligible = true) : P i' j' := by
      by_cases same : i' = i
      · rw [same, (State.active_eq_some.1 job).2] at hj'
        cases hj'
        simp [Job.eligible, isActive] at eligible
      · exact h i' j' same ((read i' same).symm.trans hj') eligible
    refine ⟨fun unmarked halts => ?_, fun unmarked runs calm => ?_,
      fun i2 j2 k2 unmarked runs other2 hj2 eligible2 kind2 lane2 urgent2 room first => ?_,
      fun mark deferred ready stepping closed => ?_⟩
    · rw [goes unmarked, State.goOn_of_halt (by rw [shuttle']; exact halts) job, order, explicit]
      rfl
    · have none' : y.preemptor { j with step := .two } = none := State.preemptor_eq_none
        (calm.imp (fun full => by rw [explicit]; exact full) fun calm => others fun i' j' other hj' eligible => by
          rw [explicit]
          exact calm i' j' other hj' eligible)
      rw [goes unmarked, State.goOn_of_runs (by rw [shuttle']; exact runs),
        State.crossBoundary_of_calm job (.inr none'),
        State.takeUp_of_active job (State.nothingToPick_eq_false (.inl (by rw [kind]; decide))),
        State.taken_of_lane job order, State.beginStep_of_active job, order, explicit]
      rfl
    · have best : y.bestEligible = some (i2, j2) :=
        State.bestJob_of_goesBefore ((read i2 other2).trans hj2) eligible2 fun i' j' other' hj' eligible' =>
          others (P := fun i' j' => i' ≠ i2 → goesBefore i2 j2 i' j')
            (fun i' j' otherI hj' eligible' other2 => first i' j' otherI other2 hj' eligible') i' j' hj' eligible' other'
      have takes : y.preemptor { j with step := .two } = some i2 :=
        State.preemptor_of_best best (by rw [explicit]; exact urgent2) (by rw [explicit]; exact room)
      have suspends : y.suspend i = y.setSched { s.sched with
          slots := s.sched.slots.write i (some { j with state := .suspended, step := .one, short := false })
          stack := i :: s.sched.stack } := by
        rw [State.suspend_eq (State.active_eq_some.1 job).2 (by rw [kind]; decide), explicit]
        have twice := congrArg (fun slots => ({ s.sched with slots := slots, stack := i :: s.sched.stack } : Schedule))
          (Bank.write_write s.sched.slots i (some { j with step := .two })
            (some { j with state := .suspended, step := .one, short := false }))
        exact congrArg ((stopped.setSched next).setShuttle (s.shuttle.ended w .none)).setSched twice
      rw [goes unmarked, State.goOn_of_runs (by rw [shuttle']; exact runs), State.crossBoundary_of_urgent job load takes,
        suspends, State.startJob_of_move (j := j2) ?_ kind2 lane2, explicit]
      · rfl
      · exact (Bank.read_write_ne _ _ _ _ (Ne.symm other2)).trans hj2
    · rw [State.afterOutcome_removes hj' mark rfl, stands] at run
      have closed' : ∀ k', ({ j with step := .two } : Job).claim = true → ({ j with step := .two } : Job).lane = some k' →
          (y.lane k').isOpen = false := fun k' claim lane' => by
        rw [explicit]
        cases lane.symm.trans lane'
        exact closed claim
      rw [State.removeActive_eq (State.active_eq_some.1 job).2 (by rw [kind]; decide) (by rw [explicit]; exact deferred)
        closed'] at run
      have frame := y.removedFrom_frame i { j with step := .two }
      have released : y.releaseShuttle.shuttle =
          { s.shuttle.ended w .none with
            state := if s.shuttle.haltPending then .halted else .idle, haltPending := false } := by
        have stepping' : y.shuttle.state = .stepping := by rw [shuttle']; exact stepping
        rw [State.releaseShuttle_of_stepping stepping', shuttle']
        rfl
      have stays : (y.removedFrom i { j with step := .two }).dispatch = y.removedFrom i { j with step := .two } := by
        cases halts : s.shuttle.haltPending with
        | true =>
          refine State.dispatch_of_busy (State.shuttleFree_of_state ?_)
          rw [frame]
          simp only [released, halts, if_true]
          decide
        | false =>
          refine State.dispatch_of_noneReady ?_
          have stack : y.sched.stack = [] := by rw [explicit]; exact ready.1
          rw [frame]
          refine ⟨by rw [stack]; rfl, fun i' j' hj'' => ?_⟩
          change (y.sched.slots.write i none).read i' = some j' at hj''
          rw [Bank.read_write] at hj''
          split at hj''
          · cases hj''
          · next other' => exact ready.2 i' j' (Ne.symm other') ((read i' (Ne.symm other')).symm.trans hj'')
      rw [stays, frame, released] at run
      refine ⟨_, run, ?_, fun i' other' => ?_, fun k' => ?_, rfl, rfl, ?_, ?_, ?_⟩
      · exact Bank.read_write_self _ _ _
      · exact (Bank.read_write_ne _ _ _ _ (Ne.symm other')).trans (read i' other')
      · refine (State.releaseClaim_lane y _ k').trans ?_
        have lanes : y.lane k' = s.lane k' := by rw [explicit]; rfl
        rw [lanes]
        by_cases own : k' = k
        · subst own
          simp only [lane, and_true]
        · rw [if_neg fun h => own (Option.some.inj (h.2.symm.trans lane)), if_neg fun h => own h.2]
      · rw [explicit]
        rfl
      · rw [explicit]
        rfl
      · rw [explicit]
        exact ⟨rfl, rfl, rfl, rfl, rfl, rfl, rfl, rfl, rfl, rfl⟩

end Sys2Proof.Machine

/-! PROOFS. The outcome of a DELIVER job's PICK (R81, R82, R126, R128): the bar bound, the mark at it, the missing bar
and the claims it leaves in excess. -/
namespace Sys2Proof.Machine

open Sys2Proof

/-! ### The mark at a bar that is bound (R112) -/

section Mark
variable {s : State} {i : Slot} {j : Job} {next : StepIx}

/-- A STOP mark lapses at a bar that is not short (R112). -/
theorem State.afterOutcome_lapses (hj : s.job i = some j) (mark : j.cancel = .stop) (load : s.shuttle.load ≠ .none)
    (long : j.short = false) :
    s.afterOutcome i next true =
      ((s.setSlot i (some { j with step := next })).setSlot i (some { j with step := next, cancel := .none })).goOn := by
  have stepped : s.updateJob i (fun j => { j with step := next }) = s.setSlot i (some { j with step := next }) :=
    State.updateJob_eq hj _
  unfold State.afterOutcome
  rw [stepped]
  generalize is : ({ j with step := next } : Job) = x
  have mark' : x.cancel = .stop := by rw [← is]; exact mark
  have long' : x.short = false := by rw [← is]; exact long
  have hx : (s.setSlot i (some x)).job i = some x := State.setSlot_job_self _ _ _
  have loaded : ¬(s.setSlot i (some x)).shuttle.load = .none := load
  simp only [hx, mark', loaded, long', if_false, Bool.not_false, Bool.and_self, if_true]
  rw [State.updateJob_eq hx, ← is]

/-- A SETUP mark makes the job a RETURN of a bar that is not short (R112, R114). -/
theorem State.afterOutcome_converts (hj : s.job i = some j) (mark : j.cancel = .setup) (load : s.shuttle.load ≠ .none)
    (long : j.short = false) :
    s.afterOutcome i next true = ((s.setSlot i (some { j with step := next })).convertToReturn i).goOn := by
  have stepped : s.updateJob i (fun j => { j with step := next }) = s.setSlot i (some { j with step := next }) :=
    State.updateJob_eq hj _
  unfold State.afterOutcome
  rw [stepped]
  generalize is : ({ j with step := next } : Job) = x
  have mark' : x.cancel = .setup := by rw [← is]; exact mark
  have long' : x.short = false := by rw [← is]; exact long
  have hx : (s.setSlot i (some x)).job i = some x := State.setSlot_job_self _ _ _
  have loaded : ¬(s.setSlot i (some x)).shuttle.load = .none := load
  simp only [hx, mark', loaded, long', if_false, Bool.not_false, Bool.and_self, if_true]

/-- A state that differs from another in the job of slot `i` alone. -/
structure SlotSet (i : Slot) (j : Job) (s z : State) : Prop where
  frame : z = s.setSched z.sched
  job : z.job i = some j
  others : ∀ i', i' ≠ i → z.job i' = s.job i'
  rest : z.sched.deferred = s.sched.deferred ∧ z.sched.stack = s.sched.stack

theorem slotSet (s : State) (i : Slot) (j : Job) : SlotSet i j s (s.setSlot i (some j)) where
  frame := rfl
  job := State.setSlot_job_self _ _ _
  others _ other := State.setSlot_job_ne _ _ _ _ (Ne.symm other)
  rest := ⟨rfl, rfl⟩

theorem SlotSet.set {z : State} {j' : Job} (h : SlotSet i j s z) : SlotSet i j' s (z.setSlot i (some j')) where
  frame := by rw [h.frame]; rfl
  job := State.setSlot_job_self _ _ _
  others i' other := (State.setSlot_job_ne _ _ _ _ (Ne.symm other)).trans (h.others i' other)
  rest := h.rest

/-- After a bar is bound the job goes on: with its mark at a short bar, without a STOP mark at any other (R112). -/
theorem State.afterOutcome_of_bound (hj : s.job i = some j) (load : s.shuttle.load ≠ .none)
    (kept : j.cancel = .setup → j.short = true) :
    ∃ z, s.afterOutcome i next true = z.goOn ∧
      SlotSet i { j with step := next, cancel := if j.short then j.cancel else .none } s z := by
  by_cases short : j.short = true
  · rw [if_pos short]
    exact ⟨_, State.afterOutcome_goesOn hj (.inr ⟨load, .inr short⟩), slotSet s i _⟩
  · have long := Bool.eq_false_iff.2 short
    rw [if_neg short]
    obtain none' | stop | setup : j.cancel = .none ∨ j.cancel = .stop ∨ j.cancel = .setup := by
      cases j.cancel <;> simp
    · have same : ({ j with step := next, cancel := .none } : Job) = { j with step := next } := by rw [← none']
      rw [same]
      exact ⟨_, State.afterOutcome_goesOn hj (.inl none'), slotSet s i _⟩
    · exact ⟨_, State.afterOutcome_lapses hj stop load long, (slotSet s i _).set⟩
    · exact absurd (kept setup) short

end Mark

/-! ### The bar bound (R81, R126) -/

section Pick
variable {s : State} {i : Slot} {j : Job} {k : LaneNo} {b : BarRecord} {rest : List BarRecord} {g : Program}

theorem Job.takeOutcome_of_pick {l : Load} (kind : j.kind = .deliver) (two : j.step = .two) (lane : j.lane = some k) :
    s.takeOutcome i j l = if l = .bar then s.pickLaneBar i j k else s.pickLaneMissing i j k := by
  unfold State.takeOutcome
  simp only [kind, two, lane]

/-- The lane once its front bar is taken and the claim consumed (R81, R82). -/
def State.pickedLane (s : State) (k : LaneNo) (rest : List BarRecord) (x : LaneNo) : LaneRecord :=
  if x = k then { s.lane k with bars := rest, claimed := (s.lane k).claimed - 1 } else s.lane x

/-- The job that has bound bar `b` (R126). -/
def Job.bound (j : Job) (b : BarRecord) (short : Bool) : Job :=
  { j with bar := some b, claim := false, short := short, retries := if short then j.retries + 1 else j.retries }

theorem State.shortFor_eq (program : (s.account j.lathe).program = some g) (length : Nat) :
    s.shortFor j.lathe length = decide ((length : Int) - g.face - g.remnant < ((g.part + g.kerf : Nat) : Int)) := by
  simp only [State.shortFor, program]
  rfl

/-- What a bound bar has done before the job goes on. -/
structure BarBound (s : State) (i : Slot) (j : Job) (k : LaneNo) (b : BarRecord) (rest : List BarRecord) (short : Bool)
    (q : State) : Prop where
  lanes : ∀ x, q.lane x = s.pickedLane k rest x
  reject : q.rack.reject = s.rack.reject
  job : q.job i = some (j.bound b short)
  others : ∀ i', i' ≠ i → q.job i' = s.job i'
  records : q.events.records = s.events.records ++
    (if short then [⟨.shortBar, s.now, some j.lathe, some k, none, some j.id, halves b.id b.length⟩] else [])
  quiet : short = false → q.events = s.events
  shuttle : q.shuttle = { s.shuttle with load := .bar }
  frame : q = { s with rack := q.rack, sched := q.sched, events := q.events, shuttle := q.shuttle }

theorem barBound {short : Bool} (bars : (s.lane k).bars = b :: rest) (program : (s.account j.lathe).program = some g)
    (is : decide ((b.length : Int) - g.face - g.remnant < ((g.part + g.kerf : Nat) : Int)) = short)
    (room : s.events.records.length < 64) :
    ∃ q, s.pickLaneBar i j k = q.afterOutcome i .three true ∧ BarBound s i j k b rest short q := by
  have isShort : s.shortFor j.lathe b.length = short := (State.shortFor_eq program _).trans is
  obtain ⟨p, is, lanes, reject, job, others, events, shuttle, frame⟩ : ∃ p,
      ((s.setLane k { s.lane k with bars := rest, claimed := (s.lane k).claimed - 1 }).setLoad .bar).setSlot i
        (some (j.bound b short)) = p ∧ (∀ x, p.lane x = s.pickedLane k rest x) ∧ p.rack.reject = s.rack.reject ∧
      p.job i = some (j.bound b short) ∧ (∀ i', i' ≠ i → p.job i' = s.job i') ∧ p.events = s.events ∧
      p.shuttle = { s.shuttle with load := .bar } ∧
      p = { s with rack := p.rack, sched := p.sched, events := p.events, shuttle := p.shuttle } := by
    refine ⟨_, rfl, fun x => ?_, rfl, State.setSlot_job_self _ _ _,
      fun i' other => State.setSlot_job_ne _ _ _ _ (Ne.symm other), rfl, rfl, rfl⟩
    refine (State.setLane_lane _ _ _ _).trans ?_
    unfold State.pickedLane
    by_cases own : k = x
    · rw [if_pos own, if_pos own.symm]
    · rw [if_neg own, if_neg (Ne.symm own)]
  refine ⟨if short then p.post (event .shortBar (halves b.id b.length) (lathe := some j.lathe) (lane := some k)
    (job := some j.id)) else p, ?_, ?_⟩
  · unfold State.pickLaneBar
    rw [bars]
    simp only
    rw [isShort, ← is]
    rfl
  · cases short with
    | false =>
      simp only [Bool.false_eq_true, if_false]
      exact ⟨lanes, reject, job, others, by simp [events], fun _ => events, shuttle, frame⟩
    | true =>
      rw [if_pos rfl]
      refine ⟨fun x => (State.post_lane p _ x).trans (lanes x), ?_, ?_, fun i' other => ?_, ?_,
        (fun h => absurd h (by decide)), ?_, ?_⟩
      · rw [State.post_rack]
        exact reject
      · rw [State.post_job]
        exact job
      · rw [State.post_job]
        exact others i' other
      · rw [State.post_records _ (by rw [events]; exact room), events, if_pos rfl, frame]
        rfl
      · rw [State.post_shuttle]
        exact shuttle
      · rw [State.post_frame]
        generalize (p.post _).events = v
        rw [frame]

end Pick

/-! ### A MOVE taken up (R119, R123) -/

section Move
variable {u : State} {i : Slot} {j : Job} {st : Station}

theorem State.moveTaken_of_passes (active : u.active = some (i, j)) (order : j.order = some ⟨.move, st⟩)
    (passes : u.guardPasses st = true) :
    u.beginStep.checkAndIssue =
      { u with
        shuttle := u.shuttle.issued .move st u.shuttle.load.speed
        seq := { u.seq with phase := .outstanding, order := some ⟨.move, st⟩, expiries := 0, boundary := false }
        timer := { u.timer with stepTimer := .running u.params.stepLimitMove } } := by
  rw [State.checkAndIssue_of_clear ((u.beginStep_active).trans active) order passes (fun h => by cases h.1)
    (fun ⟨_, h, _⟩ => by cases h), State.beginStep_of_active active, order]
  rfl

theorem State.moveTaken_of_guarded (active : u.active = some (i, j)) (order : j.order = some ⟨.move, st⟩)
    (guarded : u.guardPasses st = false) :
    u.beginStep.checkAndIssue =
      { u with
        shuttle := { u.shuttle with state := .waiting }
        seq := { u.seq with phase := .guardPending, order := some ⟨.move, st⟩, expiries := 0, boundary := false }
        timer := { u.timer with guardWait := .running u.params.guardWait } } := by
  rw [State.checkAndIssue_of_guarded ((u.beginStep_active).trans active) order guarded, State.beginStep_of_active active,
    order]
  rfl

/-- A job with a load goes on to its step, whatever job is ready (R106, R122). -/
theorem State.goOn_of_loaded (active : u.active = some (i, j)) (load : u.shuttle.load ≠ .none)
    (runs : u.shuttle.haltPending = false) (something : u.nothingToPick j = false) :
    u.goOn = u.beginStep.checkAndIssue := by
  rw [State.goOn_of_runs runs, State.crossBoundary_of_calm active (.inl load), State.takeUp_of_active active something]

/-- The same with the step's order written ahead, as a job that becomes a RETURN has it (R114). -/
theorem State.goOn_of_ordered {next : Option Order} (active : u.active = some (i, j)) (load : u.shuttle.load ≠ .none)
    (runs : u.shuttle.haltPending = false) (something : u.nothingToPick j = false) (order : j.order = some ⟨.move, st⟩)
    (passes : u.guardPasses st = true) :
    (u.setSeq { u.seq with order := next }).goOn =
      { u with
        shuttle := u.shuttle.issued .move st u.shuttle.load.speed
        seq := { u.seq with phase := .outstanding, order := some ⟨.move, st⟩, expiries := 0, boundary := false }
        timer := { u.timer with stepTimer := .running u.params.stepLimitMove } } := by
  have active' : (u.setSeq { u.seq with order := next }).active = some (i, j) := active
  have passes' : (u.setSeq { u.seq with order := next }).guardPasses st = true := passes
  rw [State.goOn_of_loaded active' load runs something, State.moveTaken_of_passes active' order passes']
  rfl

/-- With no other job ready a job is not preempted, eligible itself or not (R106). -/
theorem State.preemptor_of_alone (hj : u.job i = some j) (others : ∀ i' j', i' ≠ i → u.job i' = some j' → j'.eligible = false) :
    u.preemptor j = none := by
  refine State.preemptor_eq_none (.inr fun i' j' hj' eligible urgent => ?_)
  by_cases same : i' = i
  · subst same
    cases hj.symm.trans hj'
    exact absurd urgent.1 (by rw [isBefore_self]; decide)
  · rw [others i' j' same hj'] at eligible
    cases eligible

end Move

/-! ### The lane a claim is taken on (R78) -/

section Claim
variable {s : State} {i : Slot} {j : Job} {k : LaneNo} {g : Program}

theorem LaneRecord.claimable_iff (l : LaneRecord) (g : Program) : l.claimable g = true ↔ takesClaim l g := by
  unfold LaneRecord.claimable LaneRecord.matchesProgram LaneRecord.available takesClaim
  simp only [Bool.and_eq_true, beq_iff_eq, decide_eq_true_eq, and_assoc]
  exact and_congr_right fun _ => and_congr_right fun _ => and_congr_right fun _ => by omega

theorem State.claimLane_of_first (first : firstLane s.lane g k) : s.claimLane g = some k := by
  obtain ⟨takes, lower⟩ := first
  have sorted : (List.finRange 24).Pairwise (· < ·) := List.pairwise_lt_finRange 24
  obtain ⟨front, back, lanes⟩ := List.append_of_mem (List.mem_finRange k)
  rw [lanes] at sorted
  obtain ⟨-, -, cross⟩ := List.pairwise_append.1 sorted
  refine List.find?_eq_some_iff_append.2 ⟨(LaneRecord.claimable_iff _ _).2 takes, front, back, lanes, fun k' mem => ?_⟩
  have below := lower k' (cross k' mem k List.mem_cons_self)
  rw [← LaneRecord.claimable_iff, Bool.not_eq_true] at below
  rw [below]
  rfl

theorem State.claimLane_of_none (nowhere : ∀ k, ¬takesClaim (s.lane k) g) : s.claimLane g = none :=
  List.find?_eq_none.2 fun k _ takes => nowhere k ((LaneRecord.claimable_iff _ _).1 takes)

/-- A job that claims again starts over: its MOVE to the lane is issued (R127, R128). -/
theorem State.reclaim_of_first (active : s.active = some (i, j)) (kind : j.kind = .deliver)
    (program : (s.account j.lathe).program = some g) (first : firstLane s.lane g k)
    (runs : s.shuttle.haltPending = false) (others : ∀ i' j', i' ≠ i → s.job i' = some j' → j'.eligible = false) :
    s.reclaim i =
      { s with
        rack := (s.setLane k { s.lane k with claimed := (s.lane k).claimed + 1 }).rack
        sched := (s.setSlot i (some { j with lane := some k, claim := true, block := .none, step := .one, short := false })).sched
        shuttle := s.shuttle.issued .move (.lane k) s.shuttle.load.speed
        seq := { s.seq with phase := .outstanding, order := some ⟨.move, .lane k⟩, expiries := 0, boundary := false }
        timer := { s.timer with stepTimer := .running s.params.stepLimitMove } } := by
  obtain ⟨isActive, hj⟩ := State.active_eq_some.1 active
  have lane : (s.job i).bind (fun j => s.claimLaneFor j.lathe) = some k := by
    rw [hj]
    exact (congrArg (fun p => p.bind s.claimLane) program).trans (State.claimLane_of_first first)
  obtain ⟨u, is⟩ : ∃ u, (s.setLane k { s.lane k with claimed := (s.lane k).claimed + 1 }).setSlot i
    (some { j with lane := some k, claim := true, block := .none, step := .one, short := false }) = u := ⟨_, rfl⟩
  have starts : (s.takeClaim i k).updateJob i (fun j => { j with step := .one, short := false }) = u := by
    have claims : s.takeClaim i k = (s.setLane k { s.lane k with claimed := (s.lane k).claimed + 1 }).setSlot i
        (some { j with lane := some k, claim := true, block := .none }) :=
      State.updateJob_eq (s := s.setLane k { s.lane k with claimed := (s.lane k).claimed + 1 }) hj
        fun j => { j with lane := some k, claim := true, block := .none }
    rw [claims, State.updateJob_eq (State.setSlot_job_self _ _ _), ← is]
    unfold State.setSlot
    simp only [State.setSched_sched, Bank.write_write]
    rfl
  have own : u.job i = some { j with lane := some k, claim := true, block := .none, step := .one, short := false } := by
    rw [← is]
    exact State.setSlot_job_self _ _ _
  have active' : u.active = some (i, { j with lane := some k, claim := true, block := .none, step := .one, short := false }) :=
    State.active_eq_some.2 ⟨by rw [← is]; exact isActive, own⟩
  have alone := State.preemptor_of_alone own fun i' j' other hj' =>
    others i' j' other ((State.setSlot_job_ne _ _ _ _ (Ne.symm other)).symm.trans (is ▸ hj'))
  unfold State.reclaim
  rw [lane]
  simp only
  rw [starts, State.goOn_of_runs (by rw [← is]; exact runs), State.crossBoundary_of_calm active' (.inr alone),
    State.takeUp_of_active active' (State.nothingToPick_eq_false (.inl (by rw [kind]; decide))),
    State.moveTaken_of_passes (st := .lane k) active' (by simp [Job.order, kind]) rfl, ← is]
  rfl

/-- A job with no lane to claim is blocked and leaves the shuttle, which stays IDLE with no other job ready
(R97, R127, R128). -/
theorem State.reclaim_of_none (hj : s.job i = some j) (program : (s.account j.lathe).program = some g)
    (nowhere : ∀ k, ¬takesClaim (s.lane k) g) (stepping : s.shuttle.state = .stepping)
    (runs : s.shuttle.haltPending = false) (others : s.noOtherReady i) :
    s.reclaim i =
      (((s.setSlot i (some
        { j with state := .waiting, block := .noStock, lane := none, claim := false, step := .one, short := false })).post
        (event .noStock (halves g.material g.diameter) (lathe := some j.lathe) (job := some j.id))).setSeq .clear).setShuttle
        { s.shuttle with state := .idle } := by
  have lane : (s.job i).bind (fun j => s.claimLaneFor j.lathe) = none := by
    rw [hj]
    exact (congrArg (fun p => p.bind s.claimLane) program).trans (State.claimLane_of_none nowhere)
  have blocked : s.enterNoStock i = (s.setSlot i (some
      { j with state := .waiting, block := .noStock, lane := none, claim := false, step := .one, short := false })).post
      (event .noStock (halves g.material g.diameter) (lathe := some j.lathe) (job := some j.id)) := by
    simp only [State.enterNoStock, hj, program]
  unfold State.reclaim
  rw [lane]
  simp only
  rw [blocked]
  obtain ⟨v, is⟩ : ∃ v, (s.setSlot i (some
      { j with state := .waiting, block := .noStock, lane := none, claim := false, step := .one, short := false })).post
      (event .noStock (halves g.material g.diameter) (lathe := some j.lathe) (job := some j.id)) = v := ⟨_, rfl⟩
  have shuttle : v.shuttle = s.shuttle := by rw [← is, State.post_shuttle]; rfl
  have sched : v.sched = (s.setSlot i (some
      { j with state := .waiting, block := .noStock, lane := none, claim := false, step := .one, short := false })).sched := by
    rw [← is, State.post_sched]
  rw [is, State.releaseShuttle_of_stepping (s := v.setSeq .clear) (shuttle ▸ stepping)]
  have left : { (v.setSeq .clear).shuttle with
      state := if (v.setSeq .clear).shuttle.haltPending then .halted else .idle, haltPending := false } =
      { s.shuttle with state := .idle } := by
    rw [show (v.setSeq .clear).shuttle = s.shuttle from shuttle, Shuttle.without_halt runs, runs]
    rfl
  rw [left]
  refine State.dispatch_of_noneReady ⟨?_, fun i' j' hj' => ?_⟩
  · change v.sched.stack = []
    rw [sched]
    exact others.1
  · change v.sched.slots.read i' = some j' at hj'
    rw [sched] at hj'
    by_cases same : i' = i
    · subst same
      rw [show (s.setSlot i' _).sched.slots.read i' = _ from State.setSlot_job_self _ _ _] at hj'
      cases hj'
      rfl
    · exact others.2 i' j' same ((State.setSlot_job_ne s _ _ _ (Ne.symm same)).symm.trans hj')

/-- A job without a claim removed from the shuttle, which is halted or has no other job ready (R110). -/
theorem State.removeActive_of_unclaimed (hj : s.job i = some j) (kind : j.kind ≠ .ret) (claim : j.claim = false)
    (deferred : s.sched.deferred = []) (stepping : s.shuttle.state = .stepping)
    (calm : s.shuttle.haltPending = true ∨ s.noOtherReady i) :
    s.removeActive i =
      { s with
        timer := s.stopJobTimers.timer
        seq := .clear
        shuttle := { s.shuttle with state := if s.shuttle.haltPending then .halted else .idle, haltPending := false }
        sched := { s.sched with slots := s.sched.slots.write i none, stack := s.sched.stack.erase i } } := by
  have left : s.releaseShuttle.shuttle =
      { s.shuttle with state := if s.shuttle.haltPending then .halted else .idle, haltPending := false } := by
    rw [State.releaseShuttle_of_stepping stepping]
    rfl
  have frame := s.removedFrom_frame i j
  rw [left, State.releaseClaim_of_none claim] at frame
  rw [State.removeActive_eq hj kind deferred (fun k' claim' => by rw [claim] at claim'; cases claim')]
  refine Eq.trans ?_ frame
  rw [frame]
  rcases calm with halts | ⟨stack, others⟩
  · refine State.dispatch_of_busy (State.shuttleFree_of_state ?_)
    simp only [halts, if_true]
    decide
  · refine State.dispatch_of_noneReady ⟨by rw [stack]; rfl, fun i' j' hj' => ?_⟩
    change (s.sched.slots.write i none).read i' = some j' at hj'
    rw [Bank.read_write] at hj'
    split at hj'
    · cases hj'
    · next other => exact others i' j' (Ne.symm other) hj'

end Claim

/-! ### The missing bar (R82, R98) -/

section Missing
variable {s : State} {i i2 : Slot} {j j2 : Job} {k : LaneNo} {b : BarRecord} {rest : List BarRecord} {g : Program}

/-- What a missing bar has done before the excess claims are looked at. -/
structure BarMissed (s : State) (i : Slot) (j : Job) (k : LaneNo) (b : BarRecord) (rest : List BarRecord) (q : State) :
    Prop where
  lanes : ∀ x, q.lane x = s.pickedLane k rest x
  job : q.job i = some { j with claim := false }
  others : ∀ i', i' ≠ i → q.job i' = s.job i'
  planned : q.sched.stack = s.sched.stack ∧ q.sched.deferred = s.sched.deferred
  records : q.events.records = s.events.records ++
    [⟨.laneMissing, s.now, none, some k, none, some j.id, halves b.id rest.length⟩]
  shuttle : q.shuttle = { s.shuttle with load := .none }
  frame : q = { s with rack := q.rack, sched := q.sched, events := q.events, shuttle := q.shuttle }

theorem barMissed (bars : (s.lane k).bars = b :: rest) (room : s.events.records.length < 64) :
    ∃ q, s.pickLaneMissing i j k =
        (if j.cancel = .none then (State.withdrawExcess k 32 q).reclaim i else (State.withdrawExcess k 32 q).removeActive i) ∧
      BarMissed s i j k b rest q := by
  obtain ⟨p, is⟩ : ∃ p, ((s.setLane k { s.lane k with bars := rest }).setLoad .none).post
    (event .laneMissing (halves b.id rest.length) (lane := some k) (job := some j.id)) = p := ⟨_, rfl⟩
  have sched : p.sched = s.sched := by rw [← is, State.post_sched]; rfl
  have lane (x : LaneNo) : p.lane x = if k = x then { s.lane k with bars := rest } else s.lane x := by
    rw [← is, State.post_lane]
    exact State.setLane_lane _ _ _ _
  refine ⟨(p.setLane k { p.lane k with claimed := (p.lane k).claimed - 1 }).setSlot i (some { j with claim := false }),
    ?_, ?lanes, State.setSlot_job_self _ _ _, fun i' other => ?_, ?_, ?_, ?_, ?_⟩
  · unfold State.pickLaneMissing
    rw [bars]
    simp only
    rw [is]
  case lanes =>
    intro x
    refine (State.setLane_lane p k _ x).trans ?_
    unfold State.pickedLane
    by_cases own : k = x
    · rw [if_pos own, if_pos own.symm, lane, if_pos rfl]
    · rw [if_neg own, if_neg (Ne.symm own), lane, if_neg own]
  · refine (State.setSlot_job_ne _ _ _ _ (Ne.symm other)).trans ?_
    change p.sched.slots.read i' = s.sched.slots.read i'
    rw [sched]
  · have stack : p.sched.stack = s.sched.stack := congrArg Schedule.stack sched
    have deferred : p.sched.deferred = s.sched.deferred := congrArg Schedule.deferred sched
    exact ⟨stack, deferred⟩
  · change p.events.records = _
    rw [← is]
    exact State.post_records _ room
  · change p.shuttle = _
    rw [← is, State.post_shuttle]
    rfl
  · have frame : p = { s with rack := p.rack, sched := p.sched, events := p.events, shuttle := p.shuttle } := by
      rw [← is, State.post_frame]
      generalize (State.post _ _).events = v
      rfl
    generalize p.lane k = l
    rw [frame]
    rfl

theorem State.withdrawExcess_of_within {fuel : Nat} (within : (s.lane k).claimed ≤ (s.lane k).bars.length) :
    State.withdrawExcess k fuel s = s := by
  cases fuel with
  | zero => rfl
  | succ fuel => exact if_neg (Nat.not_lt.2 within)

/-- The job that goes after another loses its claim to it (R98). -/
theorem losesBefore_of_goesBefore (h : goesBefore i j i2 j2) :
    (i < i2 → Job.losesBefore j2 j = true) ∧ (i2 < i → Job.losesBefore j j2 = false) := by
  unfold Job.losesBefore
  rcases h with due | ⟨due, made | ⟨made, slot⟩⟩
  · have other := ne_of_isBefore due
    rw [if_neg other, if_neg (Ne.symm other)]
    exact ⟨fun _ => due, fun _ => isBefore_asymm due⟩
  · rw [if_pos due, if_pos due.symm, made, isBefore_asymm made]
    exact ⟨fun _ => by simp, fun _ => by simp [ne_of_isBefore made]⟩
  · rw [if_pos due, if_pos due.symm, made]
    exact ⟨fun _ => by simp, fun below => absurd slot (Fin.lt_asymm below)⟩

/-- One claim in excess is withdrawn from the last of its holders (R82 step 4, R98). -/
theorem State.withdrawExcess_of_one {fuel : Nat} (one : (s.lane k).claimed = (s.lane k).bars.length + 1)
    (hj2 : s.job i2 = some j2) (holds : j2.holdsClaim k = true) (program : (s.account j2.lathe).program = some g)
    (last : ∀ i' j', i' ≠ i2 → s.job i' = some j' → j'.holdsClaim k = true → goesBefore i' j' i2 j2) :
    State.withdrawExcess k (fuel + 1) s =
      (((s.setLane k { s.lane k with claimed := (s.lane k).bars.length }).setSched
        { s.sched with
          slots := s.sched.slots.write i2 (some
            { j2 with state := .waiting, block := .noStock, lane := none, claim := false, step := .one, short := false })
          stack := s.sched.stack.erase i2 }).post
        (event .noStock (halves g.material g.diameter) (lathe := some j2.lathe) (job := some j2.id))) := by
  have best : s.bestJob (Job.holdsClaim k) Job.losesBefore = some (i2, j2) := State.bestJob_of_first hj2 holds
    (fun i' j' below hj' holds' => (losesBefore_of_goesBefore (last i' j' (Fin.ne_of_lt below) hj' holds')).1 below)
    (fun i' j' above hj' holds' =>
      (losesBefore_of_goesBefore (last i' j' (Ne.symm (Fin.ne_of_lt above)) hj' holds')).2 above)
  have fewer : (s.lane k).claimed - 1 = (s.lane k).bars.length := by rw [one]; rfl
  unfold State.withdrawExcess
  rw [if_pos (by omega), best]
  simp only
  rw [fewer]
  obtain ⟨u, is⟩ : ∃ u, (s.setLane k { s.lane k with claimed := (s.lane k).bars.length }).setSched
    { s.sched with stack := s.sched.stack.erase i2 } = u := ⟨_, rfl⟩
  have blocked : u.enterNoStock i2 = (((s.setLane k { s.lane k with claimed := (s.lane k).bars.length }).setSched
      { s.sched with
        slots := s.sched.slots.write i2 (some
          { j2 with state := .waiting, block := .noStock, lane := none, claim := false, step := .one, short := false })
        stack := s.sched.stack.erase i2 }).post
      (event .noStock (halves g.material g.diameter) (lathe := some j2.lathe) (job := some j2.id))) := by
    have own : u.job i2 = some j2 := by rw [← is]; exact hj2
    have program' : (u.account j2.lathe).program = some g := by rw [← is]; exact program
    simp only [State.enterNoStock, own, program']
    rw [← is]
    rfl
  have same : (s.setLane k { s.lane k with claimed := (s.lane k).bars.length }).setSched
    { (s.setLane k { s.lane k with claimed := (s.lane k).bars.length }).sched with
      stack := (s.setLane k { s.lane k with claimed := (s.lane k).bars.length }).sched.stack.erase i2 } = u := is
  rw [same, blocked]
  refine State.withdrawExcess_of_within ?_
  rw [State.post_lane]
  refine le_of_eq ?_
  have record := State.setLane_lane s k { s.lane k with claimed := (s.lane k).bars.length } k
  rw [if_pos rfl] at record
  exact (congrArg LaneRecord.claimed record).trans (congrArg (fun l => l.bars.length) record).symm

end Missing

/-! ### The RETURN that a SETUP mark makes (R84, R112, R114) -/

section Convert
variable {s : State} {i : Slot} {j : Job} {b : BarRecord}

theorem LaneRecord.fitFor_iff (l : LaneRecord) (b : BarRecord) : l.fitFor b = true ↔ homeFit l b := by
  unfold LaneRecord.fitFor homeFit
  simp only [Bool.and_eq_true, beq_iff_eq, decide_eq_true_eq, and_assoc]
  rfl

/-- A bar on its way to its destination: the reservation on the home lane where that is fit (R84). -/
structure Destined (s : State) (i : Slot) (j : Job) (b : BarRecord) (z : State) : Prop where
  job : z.job i = some { j with lane := if homeFit (s.lane b.home) b then some b.home else none }
  others : ∀ i', i' ≠ i → z.job i' = s.job i'
  lanes : ∀ x, z.lane x =
    if homeFit (s.lane b.home) b ∧ x = b.home then { s.lane x with reserved := 1 } else s.lane x
  planned : z.sched.stack = s.sched.stack ∧ z.sched.deferred = s.sched.deferred
  frame : z = { s with rack := z.rack, sched := z.sched }

theorem destined (hj : s.job i = some j) (b : BarRecord) : Destined s i j b (s.chooseDestination i b) := by
  unfold State.chooseDestination
  by_cases fit : homeFit (s.lane b.home) b
  · rw [if_pos ((LaneRecord.fitFor_iff _ _).2 fit),
      State.updateJob_eq (s := s.setLane b.home { s.lane b.home with reserved := 1 }) hj
        fun j => { j with lane := some b.home }]
    refine ⟨?_, fun i' other => State.setSlot_job_ne _ _ _ _ (Ne.symm other), fun x => ?_, ⟨rfl, rfl⟩, rfl⟩
    · rw [State.setSlot_job_self, if_pos fit]
    · refine (State.setLane_lane s _ _ x).trans ?_
      by_cases home : b.home = x
      · subst home
        rw [if_pos rfl, if_pos ⟨fit, rfl⟩]
      · rw [if_neg home, if_neg fun h => home h.2.symm]
  · rw [if_neg fun h => fit ((LaneRecord.fitFor_iff _ _).1 h), State.updateJob_eq hj fun j => { j with lane := none }]
    refine ⟨?_, fun i' other => State.setSlot_job_ne _ _ _ _ (Ne.symm other), fun x => ?_, ⟨rfl, rfl⟩, rfl⟩
    · rw [State.setSlot_job_self, if_neg fit]
    · rw [if_neg fun h => fit h.1]
      rfl

/-- The RETURN that a job with a bar becomes (R114). -/
def Job.converted (j : Job) (s : State) : Job :=
  { j with
    kind := .ret, short := false, cancel := .none, retries := 0
    deadline := s.now + BitVec.ofNat 32 s.params.preemptMargin, claim := false, step := .three }

theorem State.convertToReturn_destined (hj : s.job i = some j) (bar : j.bar = some b) :
    ∃ z, s.convertToReturn i = z.setSeq { z.seq with order := (z.job i).bind Job.order } ∧
      Destined (s.setSlot i (some (j.converted s))) i (j.converted s) b z := by
  have bar' : (s.job i).bind Job.bar = some b := by
    rw [hj]
    exact bar
  refine ⟨_, ?_, destined (State.setSlot_job_self s i _) b⟩
  unfold State.convertToReturn
  rw [bar']
  simp only
  rw [State.updateJob_eq hj]
  rfl

end Convert

/-- State `z` differs from `s` in the stopped step timer and in what an outcome writes: rack, schedule, events and
shuttle record. -/
structure Outcome (s z : State) : Prop where
  frame : z = { s with
    timer := { s.timer with stepTimer := .stopped }
    rack := z.rack, sched := z.sched, events := z.events, shuttle := z.shuttle }

theorem Outcome.kept {s z : State} (h : Outcome s z) : Kept s z := by
  rw [h.frame]
  exact ⟨rfl, rfl, rfl, rfl, rfl, rfl, rfl, rfl, rfl, rfl⟩

theorem outcome_orderEnded (s : State) (w : Word) : Outcome s (s.orderEnded w) := ⟨rfl⟩

theorem Outcome.then {s y z : State} (h : Outcome s y)
    (frame : z = { y with rack := z.rack, sched := z.sched, events := z.events, shuttle := z.shuttle }) : Outcome s z :=
  ⟨by rw [h.frame] at frame; exact frame⟩

theorem Outcome.active {s z : State} {i : Slot} {j j' : Job} (h : Outcome s z) (active : s.active = some (i, j))
    (job : z.job i = some j') : z.active = some (i, j') :=
  State.active_eq_some.2 ⟨by rw [h.frame]; exact (State.active_eq_some.1 active).1, job⟩

theorem SlotSet.frame' {s z : State} {i : Slot} {j : Job} (h : SlotSet i j s z) :
    z = { s with rack := z.rack, sched := z.sched, events := z.events, shuttle := z.shuttle } := by
  rw [h.frame]
  rfl

section PickRow
variable {s : State} {o : OutOrder} {w : Word} {i : Slot} {j : Job} {k : LaneNo} {b : BarRecord} {rest : List BarRecord}
  {g : Program}

theorem State.completes.run_pick {l : Load} (done : s.completes o w) (active : s.active = some (i, j)) (kind : j.kind = .deliver)
    (two : j.step = .two) (lane : j.lane = some k) (sensed : sensedLoad w = l) (either : l = .bar ∨ l = .none) :
    exec .orderComplete s = .next
      (if l = .bar then (s.orderEnded w).pickLaneBar i j k else (s.orderEnded w).pickLaneMissing i j k) := by
  obtain ⟨out, held, step, other⟩ := done
  have accepts : j.accepts (sensedLoad w) = true := by
    rw [sensed]
    simp only [Job.accepts, kind, two]
    rcases either with rfl | rfl <;> rfl
  have active' : (s.orderEnded w).active = some (i, j) := active
  rw [exec_orderComplete out held other, State.handOn_of_accepted step active' accepts,
    Job.takeOutcome_of_pick kind two lane, sensed]

end PickRow

/-- Settles O50: the bar bound and its MOVE taken up, the mark at it, and the missing bar with the claims it leaves. -/
theorem pickBindsFrontBar : Obligations.PickBindsFrontBar := by
  intro s o w i j k b rest g done active kind two lane bars program room short
  have is : decide ((b.length : Int) - g.face - g.remnant < ((g.part + g.kerf : Nat) : Int)) = short := rfl
  clear_value short
  intro target waits picked missing clear
  have start := outcome_orderEnded s w
  have hj : (s.orderEnded w).job i = some j := (State.active_eq_some.1 active).2
  refine ⟨fun sensed runs mark => ?_, fun sensed runs mark long => ?_, fun sensed within runs others => ?_, ?_⟩
  · have run := done.run_pick active kind two lane sensed (.inl rfl)
    rw [if_pos rfl] at run
    obtain ⟨q, course, bound⟩ := barBound (s := s.orderEnded w) (i := i) (j := j) (short := short) bars program is room
    obtain ⟨z, goes, set⟩ := State.afterOutcome_of_bound (next := .three) bound.job
      (by rw [bound.shuttle]; exact fun h => by cases h) mark
    obtain ⟨j', isJob⟩ : ∃ j', { j.bound b short with
      step := .three, cancel := if (j.bound b short).short then (j.bound b short).cancel else .none } = j' := ⟨_, rfl⟩
    rw [isJob] at set
    have after : Outcome s z := (start.then bound.frame).then set.frame'
    have shuttle : z.shuttle = s.shuttle.ended w .bar := by
      rw [set.frame]
      exact bound.shuttle
    have active' := after.active active set.job
    have order : j'.order = some ⟨.move, target⟩ := by
      rw [← isJob]
      simp [Job.order, Job.bound, kind]
      rfl
    have step : j'.step ≠ .two := by
      rw [← isJob]
      exact fun h => by cases h
    have goOn := State.goOn_of_loaded active' (by rw [shuttle]; exact fun h => by cases h) (by rw [shuttle]; exact runs)
      (State.nothingToPick_eq_false (.inr step))
    have passes : z.guardPasses target = !waits := by
      have line : z.line j.lathe = s.line j.lathe := by rw [after.frame]; rfl
      change z.guardPasses (if short then .reject else .lathe j.lathe) = !(!short && !(s.line j.lathe).guardClosed)
      cases short with
      | true => rfl
      | false =>
        rw [← line]
        simp [State.guardPasses]
    have lanes (x : LaneNo) : z.lane x = picked x := by
      rw [set.frame]
      exact bound.lanes x
    have others (i' : Slot) (other : i' ≠ i) : z.job i' = s.job i' := (set.others i' other).trans (bound.others i' other)
    have records : z.events.records = s.events.records ++ (if short then
        [⟨.shortBar, s.now, some j.lathe, some k, none, some j.id, halves b.id b.length⟩] else []) := by
      rw [set.frame]
      exact bound.records
    have job : z.job i = some { j with
        bar := some b, claim := false, short := short, step := .three
        cancel := if short then j.cancel else .none
        retries := if short then j.retries + 1 else j.retries } := by
      rw [set.job, ← isJob]
      rfl
    rw [course, goes, goOn] at run
    have frame := after.frame
    have kept := after.kept
    have params : z.params = s.params := kept.params
    cases waiting : waits with
    | false =>
      rw [waiting] at passes
      rw [State.moveTaken_of_passes active' order passes, shuttle] at run
      refine ⟨_, run, lanes, job, others, records, rfl, rfl, rfl, rfl, rfl, fun _ => ⟨rfl, rfl, rfl, rfl, by rw [← params]⟩,
        (fun h => absurd h (by decide)), ?_, ?_, ?_, ?_, kept.trans ⟨rfl, rfl, rfl, rfl, rfl, rfl, rfl, rfl, rfl, rfl⟩⟩
      all_goals
        rw [frame]
    | true =>
      rw [waiting] at passes
      rw [State.moveTaken_of_guarded active' order passes, shuttle] at run
      refine ⟨_, run, lanes, job, others, records, rfl, rfl, rfl, rfl, rfl, (fun h => absurd h (by decide)),
        fun _ => ⟨rfl, rfl, rfl, ?_, by rw [← params]⟩, ?_, ?_, ?_, ?_, kept.trans ⟨rfl, rfl, rfl, rfl, rfl, rfl, rfl, rfl, rfl, rfl⟩⟩
      all_goals
        rw [frame]
  · subst long
    have run := done.run_pick active kind two lane sensed (.inl rfl)
    rw [if_pos rfl] at run
    obtain ⟨q, course, bound⟩ := barBound (s := s.orderEnded w) (i := i) (j := j) bars program is room
    have goes := State.afterOutcome_converts (next := .three) bound.job mark
      (by rw [bound.shuttle]; exact fun h => by cases h) rfl
    obtain ⟨j1, isJ1⟩ : ∃ j1, { j.bound b false with step := .three } = j1 := ⟨_, rfl⟩
    rw [isJ1] at goes
    obtain ⟨y, isY⟩ : ∃ y, q.setSlot i (some j1) = y := ⟨_, rfl⟩
    rw [isY] at goes
    have set : SlotSet i j1 q y := isY ▸ slotSet q i j1
    have after : Outcome s y := (start.then bound.frame).then set.frame'
    obtain ⟨z, converts, dest⟩ := State.convertToReturn_destined set.job (b := b) (by rw [← isJ1]; rfl)
    rw [converts] at goes
    have set2 : SlotSet i (j1.converted y) y (y.setSlot i (some (j1.converted y))) := slotSet y i _
    have after2 : Outcome s z := ((after.then set2.frame').then (by
      rw [dest.frame]))
    have picks (x : LaneNo) : (y.setSlot i (some (j1.converted y))).lane x = picked x := by
      rw [set2.frame]
      change y.lane x = _
      rw [set.frame]
      exact bound.lanes x
    have shuttle : z.shuttle = s.shuttle.ended w .bar := by
      rw [dest.frame, set2.frame]
      change y.shuttle = _
      rw [set.frame]
      exact bound.shuttle
    have events : z.events = s.events := by
      rw [dest.frame, set2.frame]
      change y.events = _
      rw [set.frame]
      exact bound.quiet rfl
    have params : y.params = s.params := after.kept.params
    have now : y.now = s.now := after.kept.now
    intro fit place
    obtain ⟨j2, isJ2⟩ : ∃ j2, ({ j with
      kind := .ret, bar := some b, claim := false, short := false, step := .three, cancel := .none, retries := 0
      deadline := s.now + BitVec.ofNat 32 s.params.preemptMargin
      lane := if fit then some b.home else none } : Job) = j2 := ⟨_, rfl⟩
    have job : z.job i = some j2 := by
      rw [dest.job, picks]
      unfold Job.converted
      rw [now, params, ← isJ1, ← isJ2]
      rfl
    have order : j2.order = some ⟨.move, place⟩ := by
      change j2.order = some ⟨.move, if fit then .lane b.home else .reject⟩
      rw [← isJ2]
      by_cases isFit : fit
      · rw [if_pos isFit, if_pos isFit]
        rfl
      · rw [if_neg isFit, if_neg isFit]
        rfl
    have passes : z.guardPasses place = true := by
      change z.guardPasses (if fit then .lane b.home else .reject) = true
      split <;> rfl
    have step : j2.step ≠ .two := by
      rw [← isJ2]
      exact fun h => by cases h
    have goOn := State.goOn_of_ordered (next := (z.job i).bind Job.order) (after2.active active job)
      (by rw [shuttle]; exact fun h => by cases h) (by rw [shuttle]; exact runs)
      (State.nothingToPick_eq_false (.inr step)) order passes
    rw [course, goes, goOn, shuttle] at run
    refine ⟨_, run, job.trans (congrArg some isJ2.symm), fun i' other => ?_, fun x => ?_, rfl, rfl, rfl, events, ?_,
      after2.kept.trans ⟨rfl, rfl, rfl, rfl, rfl, rfl, rfl, rfl, rfl, rfl⟩⟩
    · exact (dest.others i' other).trans ((set2.others i' other).trans ((set.others i' other).trans (bound.others i' other)))
    · refine (dest.lanes x).trans ?_
      rw [picks, picks]
    · change z.accounts = _
      rw [after2.frame]
  all_goals
    have missing' (sensed : sensedLoad w = .none) : ∃ q, exec .orderComplete s = .next
        (if j.cancel = .none then (State.withdrawExcess k 32 q).reclaim i else (State.withdrawExcess k 32 q).removeActive i) ∧
        BarMissed (s.orderEnded w) i j k b rest q := by
      have run := done.run_pick active kind two lane sensed (.inr rfl)
      rw [if_neg (by decide)] at run
      obtain ⟨q, course, missed⟩ := barMissed (s := s.orderEnded w) (i := i) (j := j) bars room
      exact ⟨q, run.trans (congrArg Host.Outcome.next course), missed⟩
  · obtain ⟨q, run, missed⟩ := missing' sensed
    have after : Outcome s q := start.then missed.frame
    have lanes : q.lane = picked := funext missed.lanes
    have shuttle : q.shuttle = s.shuttle.ended w .none := missed.shuttle
    have calm : (q.lane k).claimed ≤ (q.lane k).bars.length := by
      rw [lanes]
      change (if k = k then _ else _ : LaneRecord).claimed ≤ (if k = k then _ else _ : LaneRecord).bars.length
      rw [if_pos rfl]
      exact Nat.sub_le_of_le_add within
    rw [State.withdrawExcess_of_within calm] at run
    obtain ⟨j', isJob⟩ : ∃ j', ({ j with claim := false } : Job) = j' := ⟨_, rfl⟩
    have job : q.job i = some j' := isJob ▸ missed.job
    have kind' : j'.kind = .deliver := by rw [← isJob]; exact kind
    have program' : (q.account j'.lathe).program = some g := by
      rw [after.frame, ← isJob]
      exact program
    have frame := after.frame
    have kept := after.kept
    have runs' : q.shuttle.haltPending = false := by rw [shuttle]; exact runs
    have idle : q.noOtherReady i := by
      refine ⟨missed.planned.1.trans others.1, fun i' j' other hj' => others.2 i' j' other ?_⟩
      exact (missed.others i' other).symm.trans hj'
    refine ⟨fun k2 unmarked first => ?_, fun leaves room2 deferred stepping => ?_⟩
    · rw [if_pos unmarked, State.reclaim_of_first (after.active active job) kind' program' (lanes ▸ first) runs' idle.2,
        shuttle] at run
      refine ⟨_, run, ?_, fun i' other => ?_, fun x => ?_, rfl, rfl, missed.records, ?_,
        kept.trans ⟨rfl, rfl, rfl, rfl, rfl, rfl, rfl, rfl, rfl, rfl⟩⟩
      · rw [← isJob]
        exact State.setSlot_job_self _ _ _
      · exact (State.setSlot_job_ne _ _ _ _ (Ne.symm other)).trans (missed.others i' other)
      · refine (State.setLane_lane q k2 _ x).trans ?_
        rw [lanes]
        by_cases own : k2 = x
        · subst own
          rw [if_pos rfl]
        · rw [if_neg own, if_neg (Ne.symm own)]
      · change q.accounts = _
        rw [frame]
    · by_cases unmarked : j.cancel = .none
      · have nowhere := leaves.resolve_left (not_not_intro unmarked)
        rw [if_pos unmarked, State.reclaim_of_none job program' (by rw [lanes]; exact nowhere)
          (by rw [shuttle]; exact stepping) runs' idle, shuttle] at run
        obtain ⟨v, isV⟩ : ∃ v, q.setSlot i (some
          { j' with state := .waiting, block := .noStock, lane := none, claim := false, step := .one, short := false }) = v :=
          ⟨_, rfl⟩
        rw [isV] at run
        have posted := v.post_frame (event .noStock (halves g.material g.diameter) (lathe := some j'.lathe) (job := some j'.id))
        have count : v.events.records.length < 64 := by
          rw [← isV]
          change q.events.records.length < 64
          rw [missed.records, List.length_append]
          change s.events.records.length + 1 < 64
          omega
        have records := State.post_records (event .noStock (halves g.material g.diameter) (lathe := some j'.lathe)
          (job := some j'.id)) count
        generalize v.post (event .noStock (halves g.material g.diameter) (lathe := some j'.lathe) (job := some j'.id)) = p at *
        refine ⟨_, run, ?_, fun i' other => ?_, fun x => ?_, rfl, rfl, ?_, ?_, ?_⟩
        · rw [if_pos unmarked]
          change p.job i = _
          rw [posted, ← isV, ← isJob]
          exact State.setSlot_job_self _ _ _
        · change p.job i' = _
          rw [posted, ← isV]
          exact (State.setSlot_job_ne _ _ _ _ (Ne.symm other)).trans (missed.others i' other)
        · change p.lane x = _
          rw [posted, ← isV]
          exact missed.lanes x
        · change p.events.records = _
          have queue : v.events = q.events := by rw [← isV]; rfl
          have now : v.now = s.now := by rw [← isV]; exact kept.now
          rw [records, if_pos unmarked, queue, now, missed.records, List.append_assoc, ← isJob]
          rfl
        · change p.accounts = _
          rw [posted, ← isV]
          change q.accounts = _
          rw [frame]
        · refine kept.trans ?_
          rw [posted, ← isV]
          exact ⟨rfl, rfl, rfl, rfl, rfl, rfl, rfl, rfl, rfl, rfl⟩
      · have marked : j'.cancel ≠ .none := by rw [← isJob]; exact unmarked
        rw [if_neg unmarked, State.removeActive_of_unclaimed job (by rw [kind']; decide) (by rw [← isJob])
          (missed.planned.2.trans deferred) (by rw [shuttle]; exact stepping) (.inr idle), runs', shuttle] at run
        refine ⟨_, run, ?_, fun i' other => ?_, missed.lanes, rfl, ?_, ?_, ?_, ?_⟩
        · rw [if_neg unmarked]
          exact Bank.read_write_self _ _ _
        · exact (Bank.read_write_ne _ _ _ _ (Ne.symm other)).trans (missed.others i' other)
        · rw [if_neg (by decide)]
          exact (Shuttle.without_halt (sh := s.shuttle.ended w .none) runs _).symm
        · rw [if_neg unmarked]
          exact missed.records
        · change q.accounts = _
          rw [frame]
        · have timers : Kept q q.stopJobTimers := (SchedReach.keeps (sched_stopJobTimers q)).kept
          exact kept.trans ⟨rfl, rfl, rfl, rfl, rfl, timers.now, timers.binary, timers.decimal, timers.sel, timers.capture⟩
  · intro i2 j2 g2 sensed room2 excess marked halts stepping deferred other hj2 holds program2 last
    obtain ⟨q, run, missed⟩ := missing' sensed
    have frame := (start.then missed.frame).frame
    have shuttle : q.shuttle = s.shuttle.ended w .none := missed.shuttle
    have record : q.lane k = { s.lane k with bars := rest, claimed := (s.lane k).claimed - 1 } :=
      (missed.lanes k).trans (if_pos rfl)
    have one : (q.lane k).claimed = (q.lane k).bars.length + 1 := by
      rw [record]
      change (s.lane k).claimed - 1 = rest.length + 1
      omega
    have last' (i' : Slot) (j' : Job) (other2 : i' ≠ i2) (hj' : q.job i' = some j') (holds' : j'.holdsClaim k = true) :
        goesBefore i' j' i2 j2 := by
      by_cases own : i' = i
      · subst own
        cases missed.job.symm.trans hj'
        simp [Job.holdsClaim] at holds'
      · exact last i' j' own other2 ((missed.others i' own).symm.trans hj') holds'
    have program' : (q.account j2.lathe).program = some g2 := by
      rw [frame]
      exact program2
    rw [if_neg marked, State.withdrawExcess_of_one (fuel := 31) one ((missed.others i2 other).trans hj2) holds program'
      last'] at run
    obtain ⟨v, isV⟩ : ∃ v, (q.setLane k { q.lane k with claimed := (q.lane k).bars.length }).setSched
      { q.sched with
        slots := q.sched.slots.write i2 (some
          { j2 with state := .waiting, block := .noStock, lane := none, claim := false, step := .one, short := false })
        stack := q.sched.stack.erase i2 } = v := ⟨_, rfl⟩
    rw [isV] at run
    have posted := v.post_frame
      (event .noStock (halves g2.material g2.diameter) (lathe := some j2.lathe) (job := some j2.id))
    have count : v.events.records.length < 64 := by
      rw [← isV]
      change q.events.records.length < 64
      rw [missed.records, List.length_append]
      change s.events.records.length + 1 < 64
      omega
    have records := State.post_records
      (event .noStock (halves g2.material g2.diameter) (lathe := some j2.lathe) (job := some j2.id)) count
    generalize v.post (event .noStock (halves g2.material g2.diameter) (lathe := some j2.lathe) (job := some j2.id)) = p at *
    have sched : p.sched = v.sched := by rw [posted]
    have shuttle' : p.shuttle = s.shuttle.ended w .none := by
      rw [posted, ← isV]
      exact shuttle
    have job : p.job i = some { j with claim := false } := by
      rw [posted, ← isV]
      exact (Bank.read_write_ne _ _ _ _ other).trans missed.job
    rw [State.removeActive_of_unclaimed job (by rw [kind]; decide) rfl
      (by rw [sched, ← isV]; exact missed.planned.2.trans deferred) (by rw [shuttle']; exact stepping)
      (.inl (by rw [shuttle']; exact halts)), shuttle'] at run
    refine ⟨_, run, Bank.read_write_self _ _ _, ?_, fun i' otherI other2 => ?_, ?_, ?_, ?_, if_pos halts⟩
    · refine (Bank.read_write_ne _ _ _ _ (Ne.symm other)).trans ?_
      rw [sched, ← isV]
      exact Bank.read_write_self _ _ _
    · refine (Bank.read_write_ne _ _ _ _ (Ne.symm otherI)).trans ?_
      rw [sched, ← isV]
      exact (Bank.read_write_ne _ _ _ _ (Ne.symm other2)).trans (missed.others i' otherI)
    · change p.lane k = _
      rw [posted, ← isV]
      refine (State.setLane_lane q k _ k).trans ?_
      rw [if_pos rfl, record]
    · change p.sched.stack.erase i = _
      rw [sched, ← isV]
      exact congrArg (fun stack : List Slot => (stack.erase i2).erase i) missed.planned.1
    · change p.events.records = _
      have queue : v.events = q.events := by rw [← isV]; rfl
      have now : v.now = s.now := by
        rw [← isV]
        change q.now = s.now
        rw [frame]
        rfl
      rw [records, queue, now, missed.records, List.append_assoc]
      rfl

end Sys2Proof.Machine

/-! PROOFS. The outcome of a DELIVER job's PLACE (R107, R127, R129, R137): the bar staged on the cradle and the job
completed, or the short bar rejected. -/
namespace Sys2Proof.Machine

open Sys2Proof

/-! ### A bar staged on the cradle (R12, R24, R25) -/

section Stage
variable {s : State} {n : Lathe} {b : BarRecord} {c : CradleBar}

theorem State.actOnCradle_of_free (cradle : (s.account n).cradle = some c) (free : s.hasJob n .ret = false) :
    s.actOnCradle n = ((s.goTo n .loading).loadingGone n c).notice n (loadGoMsg c.bar) := by
  unfold State.actOnCradle
  rw [cradle]
  simp only
  rw [if_neg (by rw [free]; decide), State.loadingGone, State.goTo_params]

/-- The account once bar `b` stands on its cradle (R12, R25). -/
def State.stagedAccount (s : State) (n : Lathe) (b : BarRecord) : Account :=
  if (s.account n).state = .await then
    { s.account n with state := .loading, cradle := some ⟨b, true⟩, loadTimer := .running s.params.loadLimit }
  else { s.account n with cradle := some ⟨b, false⟩ }

/-- What the staging of a bar, with the lathe's hold reason set evaluated, has done. -/
structure Staged (s : State) (n : Lathe) (b : BarRecord) (t : State) : Prop where
  beside : Beside n s t
  account : t.account n = { s.stagedAccount n b with holdSet := (s.stagedAccount n b).reasons }
  compare : t.compareOf n =
    if (s.account n).state = .await then s.compareOf n else { s.compareOf n with armed := false, spent := false }
  records : t.events.records = s.events.records ++
    (if (s.account n).state = .await then
      [⟨.latheState, s.now, some n, none, none, none, latheStateValue .loading (s.account n).resume .await⟩] else [])
  staged : stagedMsg b ∈ (t.port (lathePort n)).queue
  loadGo : (s.account n).state = .await → loadGoMsg b ∈ (t.port (lathePort n)).queue

theorem mem_evalHold_queue {m : Msg} (kind : m.kind ≠ 0x46) (mem : m ∈ (s.port (lathePort n)).queue) :
    m ∈ ((s.evalHold n).port (lathePort n)).queue := by
  rw [State.evalHold_queue]
  split
  · exact mem
  · exact List.mem_append_left _ (List.mem_filter.2 ⟨mem, by simpa using kind⟩)

theorem staged (free : s.hasJob n .ret = false) (room : s.events.records.length < 64) :
    Staged s n b ((s.stageCradle n b).evalHold n) := by
  obtain ⟨u, is⟩ : ∃ u, (s.setAccount n { s.account n with cradle := some ⟨b, false⟩ }).notice n (stagedMsg b) = u :=
    ⟨_, rfl⟩
  have account : u.account n = { s.account n with cradle := some ⟨b, false⟩ } := by
    rw [← is, State.notice_account, State.setAccount_account_self]
  have beside : Beside n s u := is ▸ (beside_setAccount n s _).trans (beside_notice n n _ _)
  have queue : stagedMsg b ∈ (u.port (lathePort n)).queue := by
    rw [← is, State.notice_port_self]
    exact List.mem_append_right _ List.mem_cons_self
  have compare : u.compareOf n = s.compareOf n := by rw [← is]; rfl
  have events : u.events = s.events := by rw [← is]; rfl
  have now : u.now = s.now := beside.now
  have params : u.params = s.params := beside.kept.params
  have stages : s.stageCradle n b =
      if (s.account n).state = .await then u.actOnCradle n else u.settleCompare n := by
    have state : (u.account n).state = (s.account n).state := by rw [account]
    unfold State.stageCradle
    simp only
    rw [is, state]
  rw [stages]
  by_cases await : (s.account n).state = .await
  · have acts := State.actOnCradle_of_free (s := u) (n := n) (c := ⟨b, false⟩) (by rw [account])
      ((beside.hasJob n .ret).trans free)
    rw [if_pos await, acts]
    have loading : ((u.goTo n .loading).loadingGone n ⟨b, false⟩).account n = s.stagedAccount n b := by
      rw [State.loadingGone, State.setAccount_account_self, State.goTo_account_self, account, State.goTo_params, params,
        State.stagedAccount, if_pos await]
    have other : (u.account n).state ≠ .loading := by
      rw [account]
      change (s.account n).state ≠ _
      rw [await]
      decide
    refine ⟨?_, ?_, ?_, ?_, ?_, fun _ => ?_⟩
    · exact (((beside.trans (beside_goTo n u _)).trans (beside_setAccount n _ _)).trans (beside_notice n n _ _)).trans
        (beside_evalHold n _)
    · rw [State.evalHold_account_self, State.notice_account, loading]
    · rw [State.evalHold_compareOf, State.notice_compareOf, if_pos await, ← compare]
      exact State.goTo_compareOf u n .loading n
    · rw [State.evalHold_events, State.notice_events, if_pos await]
      change (u.goTo n .loading).events.records = _
      rw [State.goTo_records u n .loading other (by rw [events]; exact room), events, now, account]
      change _ ++ [(⟨_, _, _, _, _, _, latheStateValue _ (s.account n).resume (s.account n).state⟩ : EventRec)] = _
      rw [await]
    all_goals refine mem_evalHold_queue (by simp [stagedMsg, loadGoMsg]) ?_
    · rw [State.notice_port_self]
      refine List.mem_append_left _ (List.mem_filter.2 ⟨?_, rfl⟩)
      change _ ∈ ((u.goTo n .loading).port (lathePort n)).queue
      rw [State.goTo_port]
      exact queue
    · rw [State.notice_port_self]
      exact List.mem_append_right _ List.mem_cons_self
  · have unwanted : (u.account n).wantsCompare = false := by
      rw [account]
      simp [Account.wantsCompare]
    have settles := State.settleCompare_of_unwanted unwanted
    rw [if_neg await, settles]
    refine ⟨?_, ?_, ?_, ?_, ?_, fun h => absurd h await⟩
    · exact (beside.trans (beside_setCompare n u _)).trans (beside_evalHold n _)
    · rw [State.evalHold_account_self, State.setCompare_account, account, State.stagedAccount, if_neg await]
    · rw [State.evalHold_compareOf, State.setCompare_compareOf_self, if_neg await, compare]
      rfl
    · rw [State.evalHold_events, if_neg await, List.append_nil, ← events]
      rfl
    · exact mem_evalHold_queue (by simp [stagedMsg]) queue

end Stage

/-! ### A completion and the dispatch after it (R107, R137) -/

section Complete
variable {s : State} {i : Slot} {j : Job}

theorem State.jobDone_frame (s : State) (j : Job) : s.jobDone j = { s with events := (s.jobDone j).events } := by
  unfold State.jobDone
  split
  · exact State.post_frame _ _
  · exact State.post_frame _ _
  · rfl

theorem lateness_eq (now deadline : Time) :
    lateness now deadline = if (now - deadline).toNat < 2147483648 then now - deadline else 0 := by
  unfold lateness atOrBefore
  simp only [decide_eq_true_eq]

theorem State.jobDone_deliver (kind : j.kind = .deliver) (room : s.events.records.length < 64) :
    (s.jobDone j).events.records = s.events.records ++
      [⟨.jobDone, s.now, some j.lathe, j.lane, none, some j.id,
        if (s.now - j.deadline).toNat < 2147483648 then s.now - j.deadline else 0⟩] := by
  rw [← lateness_eq, State.jobDone, kind]
  exact State.post_records _ room

theorem State.jobDone_collect (kind : j.kind = .collect) (room : s.events.records.length < 64) :
    (s.jobDone j).events.records = s.events.records ++
      [⟨.jobDone, s.now, some j.lathe, none, j.bin, some j.id,
        if (s.now - j.deadline).toNat < 2147483648 then s.now - j.deadline else 0⟩] := by
  rw [← lateness_eq, State.jobDone, kind]
  exact State.post_records _ room

/-- A stepping shuttle once its job has completed. -/
theorem State.completed_frame (stepping : s.shuttle.state = .stepping) :
    s.completed i j =
      { s with
        events := (s.jobDone j).events
        seq := .clear
        shuttle := { s.shuttle with state := if s.shuttle.haltPending then .halted else .idle, haltPending := false }
        sched := { s.sched with slots := s.sched.slots.write i none, stack := s.sched.stack.erase i } } := by
  have stepping' : ((s.jobDone j).setSeq .clear).shuttle.state = .stepping := by
    rw [s.jobDone_frame]
    exact stepping
  unfold State.completed
  rw [State.releaseShuttle_of_stepping stepping', s.jobDone_frame]
  rfl

/-- A halt, or no other job ready, leaves the shuttle as the completion left it. -/
theorem State.completed_dispatch (stepping : s.shuttle.state = .stepping)
    (calm : s.shuttle.haltPending = true ∨ s.noOtherReady i) : (s.completed i j).dispatch = s.completed i j := by
  rw [State.completed_frame stepping]
  rcases calm with halts | ⟨stack, others⟩
  · refine State.dispatch_of_busy (State.shuttleFree_of_state ?_)
    simp only [halts, if_true]
    decide
  · refine State.dispatch_of_noneReady ⟨by rw [stack]; rfl, fun i' j' hj' => ?_⟩
    change (s.sched.slots.write i none).read i' = some j' at hj'
    rw [Bank.read_write] at hj'
    split at hj'
    · cases hj'
    · next other => exact others i' j' (Ne.symm other) hj'

end Complete

/-! ### PLACE LATHE (R129) and PLACE REJECT (R127) -/

section Place
variable {s : State} {i : Slot} {j : Job} {b : BarRecord}

/-- The job of slot `i` with its bar gone, the load NONE. -/
def State.barGone (s : State) (i : Slot) (j : Job) : State :=
  (s.setLoad .none).setSlot i (some { j with bar := none })

theorem State.placeLathe_eq (bar : j.bar = some b) :
    s.placeLathe i j =
      (((s.barGone i j).stageCradle j.lathe b).evalHold j.lathe).completeActive i .plain := by
  unfold State.placeLathe
  rw [bar]
  rfl

/-- A job whose lathe and kind the slot's new record keeps is found where it was. -/
theorem State.findJob_setSlot (n : Lathe) (k : JobKind) {j' : Job} (hj : s.job i = some j) (lathe : j'.lathe = j.lathe)
    (kind : j'.kind = j.kind) : (s.setSlot i (some j')).findJob n k = s.findJob n k := by
  have same : (s.setSlot i (some j')).isJobOf n k = s.isJobOf n k := funext fun i' => by
    unfold State.isJobOf
    by_cases own : i = i'
    · subst own
      rw [State.setSlot_job_self, hj]
      simp only [lathe, kind]
    · rw [State.setSlot_job_ne _ _ _ _ own]
  unfold State.findJob
  rw [same]

/-- The bar staged and the job completed, before the dispatch (R107, R129, R137). -/
structure Placed (s : State) (i : Slot) (j : Job) (b : BarRecord) (z : State) : Prop where
  staged : Staged (s.barGone i j) j.lathe b z
  completes : s.placeLathe i j = (z.completed i { j with bar := none }).dispatch
  job : z.job i = some { j with bar := none }
  others : ∀ i', i' ≠ i → z.job i' = s.job i'

theorem placed (hj : s.job i = some j) (bar : j.bar = some b)
    (free : s.hasJob j.lathe .ret = false) (deferred : s.sched.deferred = [])
    (room : s.events.records.length < 64) : ∃ z, Placed s i j b z := by
  have free' : (s.barGone i j).hasJob j.lathe .ret = false := by
    have same := State.findJob_setSlot (s := s.setLoad .none) (j' := { j with bar := none }) j.lathe .ret hj rfl rfl
    exact (congrArg Option.isSome same).trans free
  have stages := staged (b := b) free' room
  refine ⟨_, stages, ?_, ?_, fun i' other => ?_⟩
  · rw [State.placeLathe_eq bar]
    refine (State.completeActive_eq ?_ ?_).1
    · rw [stages.beside.job]
      exact State.setSlot_job_self _ _ _
    · rw [stages.beside.sched]
      exact deferred
  · rw [stages.beside.job]
    exact State.setSlot_job_self _ _ _
  · rw [stages.beside.job]
    exact State.setSlot_job_ne _ _ _ _ (Ne.symm other)

end Place

/-- Settles O51: the staging and the completion, with the dispatch of a suspended job; the short bar's rejection. -/
theorem placeStagesBar : Obligations.PlaceStagesBar := by
  intro s o w i j b done active kind four bar sensed stepping deferred room a c left clear
  obtain ⟨out, held, step, other⟩ := done
  have accepts : j.accepts (sensedLoad w) = true := by
    rw [sensed]
    simp only [Job.accepts, kind, four]
    rfl
  have run := exec_orderComplete out held other
  obtain ⟨x, is⟩ : ∃ x, s.orderEnded w = x := ⟨_, rfl⟩
  have start : Outcome s x := is ▸ outcome_orderEnded s w
  have active' : x.active = some (i, j) := is ▸ active
  have hj : x.job i = some j := (State.active_eq_some.1 active').2
  have stepping' : x.shuttle.state = .stepping := is ▸ stepping
  have deferred' : x.sched.deferred = [] := is ▸ deferred
  have jobs (i' : Slot) : x.job i' = s.job i' := is ▸ rfl
  have place : x.takeOutcome i j .none = if j.short then x.placeShort i j else x.placeLathe i j := by
    unfold State.takeOutcome
    simp only [kind, four]
  rw [is, State.handOn_of_accepted step active' accepts, sensed, place] at run
  have placedAt (long : j.short = false) (free : s.hasJob j.lathe .ret = false) : ∃ z,
      exec .orderComplete s = .next (z.completed i { j with bar := none }).dispatch ∧
      Staged (x.barGone i j) j.lathe b z ∧ Kept s z ∧ z.shuttle = s.shuttle.ended w .none ∧ z.sched.stack = s.sched.stack ∧
      ∀ i', i' ≠ i → z.job i' = s.job i' := by
    obtain ⟨z, p⟩ := placed hj bar (is ▸ free) deferred' (is ▸ (by omega : s.events.records.length < 64))
    have beneath : Kept s (x.barGone i j) := is ▸ ⟨rfl, rfl, rfl, rfl, rfl, rfl, rfl, rfl, rfl, rfl⟩
    refine ⟨z, ?_, p.staged, beneath.trans p.staged.beside.kept, ?_, ?_, fun i' other => (p.others i' other).trans (jobs i')⟩
    · rw [run, if_neg (by rw [long]; decide), p.completes]
    · rw [p.staged.beside.shuttle, ← is]
      rfl
    · rw [p.staged.beside.sched, ← is]
      rfl
  refine ⟨fun i2 j2 k2 rest long free runs stack absent hj2 kind2 lane2 => ?_, fun others long free => ?_,
    fun others short claim leaves => ?_, fun g others short few unmarked runs program => ⟨fun k2 first => ?_, fun nowhere => ?_⟩⟩
  · obtain ⟨z, goes, p, kept, shuttle, planned, read⟩ := placedAt long free
    have stepping2 : z.shuttle.state = .stepping := by rw [shuttle]; exact stepping
    have apart : i2 ≠ i := fun same => absent (by rw [← same, stack]; exact List.mem_cons_self)
    have frame := State.completed_frame (i := i) (j := { j with bar := none }) stepping2
    obtain ⟨y, isY⟩ : ∃ y, z.completed i { j with bar := none } = y := ⟨_, rfl⟩
    rw [isY] at goes frame
    have top : y.sched.stack = i2 :: rest := by
      rw [frame]
      change z.sched.stack.erase i = _
      rw [planned, List.erase_of_not_mem absent, stack]
    have idle : y.shuttleFree = true := by
      rw [State.shuttleFree_iff, frame]
      refine ⟨?_, rfl⟩
      change (if z.shuttle.haltPending then _ else _ : ShuttleState) = _
      rw [shuttle]
      exact if_neg (by rw [Shuttle.ended, runs]; decide)
    have own : (y.setSched { y.sched with stack := rest }).job i2 = some j2 := by
      rw [frame]
      exact (Bank.read_write_ne _ _ _ _ (Ne.symm apart)).trans ((read i2 apart).trans hj2)
    rw [State.dispatch_of_top idle top, State.startJob_of_move own kind2 lane2] at goes
    refine ⟨_, goes, ?_, rfl, Bank.read_write_self _ _ _, fun i' otherI other2 => ?_, rfl, ?_, ?_⟩
    · refine (Bank.read_write_ne _ _ _ _ apart).trans ?_
      rw [frame]
      exact Bank.read_write_self _ _ _
    · refine (Bank.read_write_ne _ _ _ _ (Ne.symm other2)).trans ?_
      rw [frame]
      exact (Bank.read_write_ne _ _ _ _ (Ne.symm otherI)).trans (read i' otherI)
    · rw [frame, shuttle]
      change Shuttle.issued { s.shuttle.ended w .none with
        state := if s.shuttle.haltPending then _ else _, haltPending := false } .move (.lane k2) .fast = _
      rw [← Shuttle.without_halt (sh := s.shuttle.ended w .none) runs]
      rfl
    · change Timer.running y.params.stepLimitMove = _
      rw [frame, ← kept.params]
  · obtain ⟨z, goes, p, kept, shuttle, planned, read⟩ := placedAt long free
    have stepping2 : z.shuttle.state = .stepping := by rw [shuttle]; exact stepping
    have ready : z.noOtherReady i := ⟨planned.trans others.1, fun i' j' other hj' => others.2 i' j' other ((read i' other).symm.trans hj')⟩
    have account (n : Lathe) : (x.barGone i j).account n = s.account n := is ▸ rfl
    have compare (n : Lathe) : (x.barGone i j).compareOf n = s.compareOf n := is ▸ rfl
    have stagedIs : (x.barGone i j).stagedAccount j.lathe b = c := by
      rw [State.stagedAccount, account, ← is]
      rfl
    have events : (x.barGone i j).events = s.events := is ▸ rfl
    have count : z.events.records.length < 64 := by
      rw [p.records, List.length_append, events]
      split <;> simp only [List.length_cons, List.length_nil] <;> omega
    have done' := State.jobDone_deliver (s := z) (j := { j with bar := none }) kind count
    rw [State.completed_dispatch stepping2 (.inr ready), State.completed_frame stepping2, shuttle] at goes
    refine ⟨_, goes, ?_, fun n other => ?_, Bank.read_write_self _ _ _, fun i' other => ?_, rfl, rfl, fun n => ?_, ?_, ?_,
      ?_, ?_, ?_, ?_⟩
    · refine p.account.trans ?_
      rw [stagedIs]
    · exact (p.beside.accounts n other).trans (account n)
    · exact (Bank.read_write_ne _ _ _ _ (Ne.symm other)).trans (read i' other)
    · refine Eq.trans (b := z.compareOf n) rfl ?_
      by_cases own : n = j.lathe
      · subst own
        rw [p.compare, account, compare]
        by_cases await : a.state = .await
        · rw [if_pos await, if_neg fun h => h.2 await]
        · rw [if_neg await, if_pos ⟨rfl, await⟩]
      · rw [if_neg fun h => own h.1, p.beside.compares n own, compare]
    · refine done'.trans ?_
      have now : (x.barGone i j).now = s.now := is ▸ rfl
      rw [p.records, account, events, kept.now, now]
      rfl
    · exact p.staged
    · exact fun await => p.loadGo ((congrArg Account.state (account j.lathe)).trans await)
    · refine p.beside.rack.trans ?_
      rw [← is]
      rfl
    · refine p.beside.bins.trans ?_
      rw [← is]
      rfl
    · exact kept.trans ⟨rfl, rfl, rfl, rfl, rfl, rfl, rfl, rfl, rfl, rfl⟩
  all_goals
    obtain ⟨p, isP⟩ : ∃ p, ((x.setLoad .none).rejectBar).setSlot i (some { j with bar := none, short := false }) = p :=
      ⟨_, rfl⟩
    have course : x.placeShort i j =
        if 3 ≤ j.retries then (p.setStockShort j.lathe true).removeActive i
        else if j.cancel = .none then p.reclaim i else p.removeActive i := by
      rw [← isP]
      rfl
    rw [short, if_pos rfl, course] at run
    have after : Outcome s p := start.then (isP ▸ rfl)
    have job : p.job i = some { j with bar := none, short := false } := isP ▸ State.setSlot_job_self _ _ _
    have read (i' : Slot) (other : i' ≠ i) : p.job i' = s.job i' := by
      rw [← isP, ← jobs]
      exact State.setSlot_job_ne _ _ _ _ (Ne.symm other)
    have rack : p.rack = { s.rack with reject := s.rack.reject + 1 } := by
      rw [← isP, ← is]
      rfl
    have lanes : p.lane = s.lane := by
      rw [← isP, ← is]
      rfl
    have shuttle : p.shuttle = s.shuttle.ended w .none := by
      rw [← isP, ← is]
      rfl
    have planned : p.sched.stack = s.sched.stack ∧ p.sched.deferred = s.sched.deferred := by
      rw [← isP, ← is]
      exact ⟨rfl, rfl⟩
    have events : p.events = s.events := by
      rw [← isP, ← is]
      rfl
    have ready : p.noOtherReady i :=
      ⟨planned.1.trans others.1, fun i' j' other hj' => others.2 i' j' other ((read i' other).symm.trans hj')⟩
    have stepping2 : p.shuttle.state = .stepping := by rw [shuttle]; exact stepping
    have frame := after.frame
    have kept := after.kept
  · obtain ⟨y, isY⟩ : ∃ y, (if 3 ≤ j.retries then p.setStockShort j.lathe true else p) = y := ⟨_, rfl⟩
    have run' : exec .orderComplete s = .next (y.removeActive i) := by
      rw [run, ← isY]
      by_cases many : 3 ≤ j.retries
      · rw [if_pos many, if_pos many]
      · rw [if_neg many, if_neg many, if_neg (leaves.resolve_left many)]
    have account (n : Lathe) : y.account n =
        if n = j.lathe ∧ 3 ≤ j.retries then { s.account n with stockShort := true } else s.account n := by
      have accounts (n : Lathe) : p.account n = s.account n := by rw [frame]; rfl
      rw [← isY]
      by_cases many : 3 ≤ j.retries
      · rw [if_pos many, State.setStockShort]
        by_cases own : n = j.lathe
        · subst own
          rw [if_pos ⟨rfl, many⟩, State.setAccount_account_self, accounts]
        · rw [if_neg fun h => own h.1, State.setAccount_account_ne _ _ _ _ (Ne.symm own), accounts]
      · rw [if_neg many, if_neg fun h => many h.2, accounts]
    have beside : y = { p with accounts := y.accounts } := by
      rw [← isY]
      split <;> rfl
    have still : y.shuttle = s.shuttle.ended w .none := by rw [beside]; exact shuttle
    have stands : y.sched = p.sched := by rw [beside]
    have idle : y.noOtherReady i := by
      rw [beside]
      exact ready
    rw [State.removeActive_of_unclaimed (j := { j with bar := none, short := false }) (by rw [beside]; exact job)
      (by rw [kind]; decide) claim (by rw [stands]; exact planned.2.trans deferred) (by rw [still]; exact stepping)
      (.inr idle), still] at run'
    have timers := SchedReach.keeps (sched_stopJobTimers y)
    refine ⟨_, run', Bank.read_write_self _ _ _, fun i' other => ?_, account, ?_, rfl, rfl, fun n => ?_, ?_, ?_, ?_, ?_⟩
    · refine (Bank.read_write_ne _ _ _ _ (Ne.symm other)).trans ?_
      rw [stands]
      exact read i' other
    · change y.rack = _
      rw [beside]
      exact rack
    · refine (timers.compares n).trans ?_
      rw [beside, frame]
      rfl
    · change y.events = _
      rw [beside]
      exact events
    · change y.ports = _
      rw [beside, frame]
    · change y.bins = _
      rw [beside, frame]
    · refine kept.trans ?_
      have same : Kept p y := by
        rw [beside]
        exact ⟨rfl, rfl, rfl, rfl, rfl, rfl, rfl, rfl, rfl, rfl⟩
      exact same.trans ⟨rfl, rfl, rfl, rfl, rfl, timers.kept.now, timers.kept.binary, timers.kept.decimal, timers.kept.sel,
        timers.kept.capture⟩
  all_goals
    have again : exec .orderComplete s = .next (p.reclaim i) := by
      rw [run, if_neg (Nat.not_le.2 few), if_pos unmarked]
    have program' : (p.account j.lathe).program = some g := by
      rw [frame]
      exact program
    have runs' : p.shuttle.haltPending = false := by rw [shuttle]; exact runs
    have compare (n : Lathe) : p.compareOf n = s.compareOf n := by rw [frame]; rfl
    have accounts : p.accounts = s.accounts := by rw [frame]
  · rw [State.reclaim_of_first (after.active active job) kind program' (lanes.symm ▸ first) runs' ready.2, shuttle]
      at again
    refine ⟨_, again, State.setSlot_job_self _ _ _, fun i' other => ?_, congrArg Rack.reject rack, fun x => ?_, rfl, rfl,
      compare, events, accounts, kept.trans ⟨rfl, rfl, rfl, rfl, rfl, rfl, rfl, rfl, rfl, rfl⟩⟩
    · exact (State.setSlot_job_ne _ _ _ _ (Ne.symm other)).trans (read i' other)
    · refine (State.setLane_lane p k2 _ x).trans ?_
      rw [lanes]
      by_cases own : k2 = x
      · subst own
        rw [if_pos rfl]
      · rw [if_neg own, if_neg (Ne.symm own)]
  · rw [State.reclaim_of_none job program' (by rw [lanes]; exact nowhere) stepping2 runs' ready, shuttle] at again
    obtain ⟨v, isV⟩ : ∃ v, p.setSlot i (some
      { j with
        state := .waiting, block := .noStock, lane := none, claim := false, step := .one, short := false, bar := none }) = v :=
      ⟨_, rfl⟩
    have posted := v.post_frame (event .noStock (halves g.material g.diameter) (lathe := some j.lathe) (job := some j.id))
    have queue : v.events = s.events := isV ▸ events
    have now : v.now = s.now := isV ▸ kept.now
    have records := State.post_records (event .noStock (halves g.material g.diameter) (lathe := some j.lathe)
      (job := some j.id)) (by rw [queue]; omega : v.events.records.length < 64)
    have again' : exec .orderComplete s = .next (((v.post (event .noStock (halves g.material g.diameter)
        (lathe := some j.lathe) (job := some j.id))).setSeq .clear).setShuttle
        { s.shuttle.ended w .none with state := .idle }) := isV ▸ again
    generalize v.post (event .noStock (halves g.material g.diameter) (lathe := some j.lathe) (job := some j.id)) = q at *
    refine ⟨_, again', ?_, fun i' other => ?_, ?_, rfl, rfl, ?_, fun n => ?_, ?_, ?_⟩
    · change q.job i = _
      rw [posted, ← isV]
      exact State.setSlot_job_self _ _ _
    · change q.job i' = _
      rw [posted, ← isV]
      exact (State.setSlot_job_ne _ _ _ _ (Ne.symm other)).trans (read i' other)
    · change q.rack = _
      rw [posted, ← isV]
      exact rack
    · change q.events.records = _
      rw [records, queue, now]
      rfl
    · change q.compareOf n = _
      rw [posted, ← isV]
      exact compare n
    · change q.accounts = _
      rw [posted, ← isV]
      exact accounts
    · refine kept.trans ?_
      rw [posted, ← isV]
      exact ⟨rfl, rfl, rfl, rfl, rfl, rfl, rfl, rfl, rfl, rfl⟩

end Sys2Proof.Machine

/-! PROOFS. The id allocators (R68, R89): the ids passed over, and the free one that is issued. -/
namespace Sys2Proof.Machine

open Sys2Proof

section Ids
variable {top last fuel : Nat} {used : List Nat}

/-- The `d`-th id after `last`, counting 1 after `top`. -/
def idAfter (top last d : Nat) : Nat := (last + d - 1) % top + 1

theorem nextId_eq (h : last ≤ top) : nextId top last = idAfter top last 1 := by
  unfold nextId idAfter
  by_cases wraps : top ≤ last
  · rw [if_pos wraps, Nat.le_antisymm h wraps, Nat.add_sub_cancel, Nat.mod_self]
  · rw [if_neg wraps, Nat.add_sub_cancel, Nat.mod_eq_of_lt (Nat.lt_of_not_le wraps)]

theorem idAfter_le (positive : 0 < top) (d : Nat) : idAfter top last d ≤ top := Nat.mod_lt _ positive

theorem idAfter_idAfter {d : Nat} (one : 1 ≤ d) : idAfter top (idAfter top last 1) d = idAfter top last (d + 1) := by
  unfold idAfter
  have split : last + 1 - 1 = last := Nat.add_sub_cancel _ _
  have shift : last % top + 1 + d - 1 = last % top + d := by omega
  have shift' : last + (d + 1) - 1 = last + d := by omega
  rw [split, shift, shift', Nat.mod_add_mod]

/-- The ids after `last` differ as long as they have not come round. -/
theorem idAfter_inj {d e : Nat} (hd : 1 ≤ d) (he : 1 ≤ e) (hd' : d ≤ top) (he' : e ≤ top)
    (same : idAfter top last d = idAfter top last e) : d = e := by
  have mod : (last + (d - 1)) % top = (last + (e - 1)) % top := by
    have h := Nat.succ.inj same
    rwa [Nat.add_sub_assoc hd, Nat.add_sub_assoc he] at h
  have close := Nat.ModEq.add_left_cancel' last (show last + (d - 1) ≡ last + (e - 1) [MOD top] from mod)
  have := Nat.ModEq.eq_of_lt_of_lt close (by omega) (by omega)
  omega

/-- The allocator issues one of the next ids, having passed over ids in use only. -/
theorem freeId_spec (positive : 0 < top) (h : last ≤ top) :
    ∃ d, 1 ≤ d ∧ d ≤ fuel + 1 ∧ freeId top used fuel last = idAfter top last d ∧
      (∀ e, 1 ≤ e → e < d → idAfter top last e ∈ used) ∧ (freeId top used fuel last ∈ used → d = fuel + 1) := by
  induction fuel generalizing last with
  | zero => exact ⟨1, Nat.le_refl _, Nat.le_refl _, nextId_eq h, fun e _ _ => by omega, fun _ => rfl⟩
  | succ fuel ih =>
    have first := nextId_eq h
    unfold freeId
    by_cases taken : nextId top last ∈ used
    · rw [if_pos taken, first]
      obtain ⟨d, one, within, found, passed, all⟩ := ih (idAfter_le (last := last) positive 1)
      refine ⟨d + 1, by omega, by omega, ?_, fun e one' below => ?_, fun used' => by rw [all used']⟩
      · rw [found, idAfter_idAfter one]
      · obtain rfl | later : e = 1 ∨ 1 ≤ e - 1 := by omega
        · exact first ▸ taken
        · have := passed (e - 1) later (by omega)
          rwa [idAfter_idAfter later, Nat.sub_add_cancel one'] at this
    · rw [if_neg taken]
      exact ⟨1, Nat.le_refl _, by omega, first, fun e _ _ => by omega, fun used' => absurd used' taken⟩

theorem freeId_min (fuel : Nat) : freeId top used fuel last = freeId top used fuel (min last top) := by
  have first : nextId top last = nextId top (min last top) := by
    unfold nextId
    by_cases h : top ≤ last
    · rw [Nat.min_eq_right h, if_pos h, if_pos (Nat.le_refl _)]
    · rw [Nat.min_eq_left (Nat.le_of_not_le h)]
  cases fuel with
  | zero => exact first
  | succ fuel => unfold freeId; rw [first]

/-- With more ids than are in use a free one is issued. -/
theorem freeId_free (fewer : used.length < top) : freeId top used used.length last ∉ used := by
  intro taken
  rw [freeId_min] at taken
  obtain ⟨d, one, -, found, passed, all⟩ :=
    freeId_spec (used := used) (fuel := used.length) (Nat.zero_lt_of_lt fewer) (Nat.min_le_right last top)
  have last' := all taken
  rw [found] at taken
  have distinct : ((List.range (used.length + 1)).map fun e => idAfter top (min last top) (e + 1)).Nodup := by
    refine List.Nodup.map_on (fun e he e' he' same => ?_) List.nodup_range
    rw [List.mem_range] at he he'
    have := idAfter_inj (by omega) (by omega) (by omega) (by omega) same
    omega
  have within : ((List.range (used.length + 1)).map fun e => idAfter top (min last top) (e + 1)) ⊆ used := by
    intro x mem
    obtain ⟨e, he, rfl⟩ := List.mem_map.1 mem
    rw [List.mem_range] at he
    obtain below | at_ : e + 1 < d ∨ e + 1 = d := by omega
    · exact passed _ (by omega) below
    · rw [at_]
      exact taken
  have count := (List.subperm_of_subset distinct within).length_le
  rw [List.length_map, List.length_range] at count
  omega

theorem freeId_pos (fuel : Nat) : 1 ≤ freeId top used fuel last := by
  have next (last : Nat) : 1 ≤ nextId top last := by
    unfold nextId
    split <;> omega
  induction fuel generalizing last with
  | zero => exact next last
  | succ fuel ih =>
    unfold freeId
    split
    · exact ih
    · exact next last

end Ids

theorem State.jobIds_length (s : State) : s.jobIds.length ≤ 32 := by
  refine (List.length_filterMap_le _ _).trans (le_of_eq ?_)
  exact List.length_finRange

theorem State.mem_jobIds {s : State} {x : Nat} : x ∈ s.jobIds ↔ ∃ i j, s.job i = some j ∧ j.id = x := by
  unfold State.jobIds
  simp [allSlots, List.mem_filterMap]

/-- The id issued next is no job's (R89). -/
theorem State.nextJobId_free {s : State} {i : Slot} {j : Job} (hj : s.job i = some j) : j.id ≠ s.nextJobId := by
  intro same
  have few : s.jobIds.length < Config.jobIdMax := Nat.lt_of_le_of_lt s.jobIds_length (by decide)
  exact freeId_free few (State.mem_jobIds.2 ⟨i, j, hj, same⟩)

end Sys2Proof.Machine

/-! PROOFS. The outcomes of a COLLECT job's orders (R107, R120, R130 to R133): the checks of EMPTY and DUMP, the parts
taken from the tray, and the dump that asks for the next job. -/
namespace Sys2Proof.Machine

open Sys2Proof

/-- A shuttle passed on with no halt pending is IDLE (R122). -/
theorem Shuttle.left_running {sh : Shuttle} (runs : sh.haltPending = false) :
    { sh with state := if sh.haltPending then .halted else .idle, haltPending := false } = { sh with state := .idle } := by
  cases sh
  simp_all

/-! ### A MOVE done (R104, R119, R120, R122) -/

/-- A job whose MOVE is done takes up its next step by the checks (R119). -/
theorem stepTaken_of_move {s : State} {o : OutOrder} {w : Word} {i : Slot} {j : Job} {next : StepIx} {l : Load}
    {order : Order} (done : s.completes o w) (active : s.active = some (i, j)) (unmarked : j.cancel = .none)
    (sensed : sensedLoad w = l) (accepts : j.accepts l = true)
    (move : (j.step = .one ∧ next = .two) ∨ (j.step = .three ∧ next = .four)) (runs : s.shuttle.haltPending = false)
    (calm : l ≠ .none ∨ ∀ i' j', i' ≠ i → s.job i' = some j' → j'.eligible = false)
    (something : s.nothingToPick { j with step := next } = false)
    (isOrder : ({ j with step := next } : Job).order = some order)
    (room : order.kind = .place ∨ order.kind = .dump → s.events.records.length < 64) :
    ∃ t, exec .orderComplete s = .next t ∧ s.stepTaken t (s.shuttle.ended w l) j order ∧
      t.sched = { s.sched with slots := s.sched.slots.write i (some { j with step := next }) } ∧
      t.rack = s.rack ∧ t.accounts = s.accounts ∧ t.ports = s.ports ∧ Kept s t := by
  obtain ⟨out, held, step, other⟩ := done
  have run := exec_orderComplete out held other
  obtain ⟨x, is⟩ : ∃ x, s.orderEnded w = x := ⟨_, rfl⟩
  have active' : x.active = some (i, j) := is ▸ active
  have hj : x.job i = some j := (State.active_eq_some.1 active').2
  rw [is, State.handOn_of_accepted step active' (sensed ▸ accepts), sensed] at run
  have outcome : x.takeOutcome i j l = (x.setLoad l).afterOutcome i next false := by
    rcases move with ⟨one, rfl⟩ | ⟨three, rfl⟩
    · exact State.takeOutcome_of_one one
    · exact State.takeOutcome_of_three three
  obtain ⟨y, isY⟩ : ∃ y, (x.setLoad l).setSlot i (some { j with step := next }) = y := ⟨_, rfl⟩
  have shuttle : y.shuttle = s.shuttle.ended w l := by
    rw [← isY, ← is]
    rfl
  have own : y.job i = some { j with step := next } := isY ▸ State.setSlot_job_self _ _ _
  have active2 : y.active = some (i, { j with step := next }) :=
    State.active_eq_some.2 ⟨by rw [← isY]; exact (State.active_eq_some.1 active').1, own⟩
  have read (i' : Slot) (other : i' ≠ i) : y.job i' = s.job i' := by
    rw [← isY, ← is]
    exact State.setSlot_job_ne _ _ _ _ (Ne.symm other)
  have something' : y.nothingToPick { j with step := next } = false := by
    rw [← isY, ← is]
    exact something
  have course : x.takeOutcome i j l = y.beginStep.checkAndIssue := by
    rw [outcome, State.afterOutcome_goesOn (s := x.setLoad l) hj (.inl unmarked), isY,
      State.goOn_of_runs (by rw [shuttle]; exact runs), State.crossBoundary_of_calm active2, State.takeUp_of_active active2
      something']
    refine calm.imp (fun loaded => by rw [shuttle]; exact loaded) fun others => ?_
    exact State.preemptor_of_alone own fun i' j' other hj' => others i' j' other ((read i' other).symm.trans hj')
  have takes : TakesUp s y (s.shuttle.ended w l) i { j with step := next } := by
    rw [← isY, ← is] at *
    exact ⟨active2, rfl, rfl, rfl, rfl, rfl, rfl, rfl, rfl, rfl, rfl, rfl⟩
  obtain ⟨sched, rack, accounts, ports, kept⟩ := y.taken_frame
  have start : Kept s y := by
    rw [← isY, ← is]
    exact ⟨rfl, rfl, rfl, rfl, rfl, rfl, rfl, rfl, rfl, rfl⟩
  refine ⟨_, run.trans (congrArg Host.Outcome.next course), takes.stepTaken isOrder room, sched.trans ?_, rack.trans ?_,
    accounts.trans ?_, ports.trans ?_, start.trans kept⟩
  all_goals
    rw [← isY, ← is]
    rfl

/-! ### The parts of the tray (R131) -/

section Empty
variable {s : State} {i : Slot} {j : Job} {n : Lathe}

/-- A recomputation changes of a COLLECT job its deadline alone. -/
theorem State.recomputeAndFire_job_collect (busy : s.shuttleFree = false) (hj : s.job i = some j)
    (kind : j.kind = .collect) : ∃ d, (s.recomputeAndFire n).job i = some { j with deadline := d } := by
  obtain ⟨x, eq, beside, -⟩ := s.recompute_state n
  have hj' : x.job i = some j := (beside.job i).trans hj
  have delivered : (x.rewriteDeliver n).job i = some j := by
    refine (State.rewriteDeliver_job_ne fun found => ?_).trans hj'
    obtain ⟨j', hj'', -, kind'⟩ := State.findJob_spec found
    rw [hj'] at hj''
    cases hj''
    rw [kind] at kind'
    cases kind'
  obtain ⟨d, rewritten⟩ : ∃ d, ((x.rewriteDeliver n).rewriteCollect n).job i = some { j with deadline := d } := by
    generalize x.rewriteDeliver n = y at *
    unfold State.rewriteCollect
    split
    · next k t found full =>
      by_cases own : k = i
      · subst own
        exact ⟨t, State.setDeadline_job_self delivered⟩
      · exact ⟨j.deadline, (State.setDeadline_job_ne own).trans delivered⟩
    · exact ⟨j.deadline, delivered⟩
  exact ⟨d, State.recomputeAndFire_job busy (eq ▸ rewritten)⟩

theorem plan_fireIf_of_busy (busy : s.shuttleFree = false) (fired : Bool) : PlanReach s (s.fireIf n fired) := by
  unfold State.fireIf State.deliverOnFire
  split
  · split
    · exact .refl
    · rw [State.request_dispatch_of_busy busy]
      exact plan_request _ n _
  · exact .refl

/-- With the shuttle busy a recomputation is the account's and the schedule's (R42, R46). -/
theorem recomputeAndFire_of_busy (busy : s.shuttleFree = false) :
    ∃ x, Beside n s x ∧ PlanReach x (s.recomputeAndFire n) := by
  obtain ⟨x, eq, beside, -⟩ := s.recompute_state n
  have rewritten : PlanReach x (s.recompute n).1 := by
    rw [eq]
    exact (plan_rewriteDeliver x n).trans (plan_rewriteCollect _ n)
  exact ⟨x, beside, rewritten.trans (plan_fireIf_of_busy ((s.recompute_shuttleFree n).trans busy) _)⟩

/-- The parts in the job's hands and out of the tray, the account settled (R131). -/
def State.partsTaken (s : State) (i : Slot) (j : Job) : State :=
  ((((s.setLoad .parts).setSlot i (some { j with parts := s.seq.tIssue })).setAccount j.lathe
    { s.account j.lathe with tray := (s.account j.lathe).tray - s.seq.tIssue }).recomputeAndFire j.lathe).evalHold j.lathe

theorem State.emptyParts_eq (s : State) (i : Slot) (j : Job) :
    s.emptyParts i j = (s.partsTaken i j).afterOutcome i .three false := rfl

structure PartsTaken (s : State) (i : Slot) (j : Job) (z : State) : Prop where
  account : z.account j.lathe =
    { ({ s.account j.lathe with tray := (s.account j.lathe).tray - s.seq.tIssue } : Account).predicted s.now with
      holdSet := (({ s.account j.lathe with tray := (s.account j.lathe).tray - s.seq.tIssue } : Account).predicted s.now).reasons }
  accounts : ∀ n, n ≠ j.lathe → z.account n = s.account n
  job : ∃ d, z.job i = some { j with parts := s.seq.tIssue, deadline := d }
  shuttle : z.shuttle = { s.shuttle with load := .parts }
  seq : z.seq = s.seq
  bins : z.bins = s.bins
  kept : Kept s z

theorem partsTaken (active : s.active = some (i, j)) (kind : j.kind = .collect) :
    PartsTaken s i j (s.partsTaken i j) := by
  obtain ⟨u, is⟩ : ∃ u, ((s.setLoad .parts).setSlot i (some { j with parts := s.seq.tIssue })).setAccount j.lathe
    { s.account j.lathe with tray := (s.account j.lathe).tray - s.seq.tIssue } = u := ⟨_, rfl⟩
  have busy : u.shuttleFree = false := by
    rw [Bool.eq_false_iff, Ne, State.shuttleFree_iff, ← is]
    rintro ⟨-, idle⟩
    have isActive := (State.active_eq_some.1 active).1
    cases isActive.symm.trans idle
  have account : u.account j.lathe = { s.account j.lathe with tray := (s.account j.lathe).tray - s.seq.tIssue } := by
    rw [← is, State.setAccount_account_self]
  have accounts (n : Lathe) (other : n ≠ j.lathe) : u.account n = s.account n := by
    rw [← is]
    exact State.setAccount_account_ne _ _ _ _ (Ne.symm other)
  have now : u.now = s.now := by rw [← is]; rfl
  have own : u.job i = some { j with parts := s.seq.tIssue } := by
    rw [← is]
    exact State.setSlot_job_self _ _ _
  obtain ⟨x, beside, plan⟩ := recomputeAndFire_of_busy (n := j.lathe) busy
  have keeps := PlanReach.keeps plan
  obtain ⟨d, job⟩ := State.recomputeAndFire_job_collect (n := j.lathe) busy own kind
  have taken : s.partsTaken i j = (u.recomputeAndFire j.lathe).evalHold j.lathe := by rw [← is]; rfl
  rw [taken]
  refine ⟨?_, fun n other => ?_, ⟨d, (State.evalHold_job _ _ _).trans job⟩, ?_, ?_, ?_, ?_⟩
  · rw [State.evalHold_account_self, State.recomputeAndFire_account, account, now]
  · rw [State.evalHold_account_ne _ _ _ (Ne.symm other), State.recomputeAndFire_account_ne _ other, accounts n other]
  · rw [State.evalHold_shuttle, keeps.shuttle, beside.shuttle, ← is]
    rfl
  · rw [State.evalHold_seq, keeps.seq, beside.seq, ← is]
    rfl
  · rw [State.evalHold_bins, keeps.bins, beside.bins, ← is]
    rfl
  · have start : Kept s u := by
      rw [← is]
      exact ⟨rfl, rfl, rfl, rfl, rfl, rfl, rfl, rfl, rfl, rfl⟩
    exact ((start.trans beside.kept).trans keeps.kept).trans (kept_evalHold _ _)

/-- TRAY_MISMATCH raised and the account settled: the tray stands (R131). -/
def State.trayFound (s : State) (j : Job) : State :=
  ((((s.setLoad .none).post (event .trayMismatch (halves s.seq.tIssue (s.account j.lathe).tray) (lathe := some j.lathe)
    (job := some j.id))).recomputeAndFire j.lathe).evalHold j.lathe)

theorem State.emptyNothing_eq (s : State) (i : Slot) (j : Job) :
    s.emptyNothing i j = (s.trayFound j).completeActive i .plain := rfl

structure TrayFound (s : State) (i : Slot) (j : Job) (full : Time) (z : State) : Prop where
  account : z.account j.lathe =
    { (s.account j.lathe).predicted s.now with holdSet := ((s.account j.lathe).predicted s.now).reasons }
  accounts : ∀ n, n ≠ j.lathe → z.account n = s.account n
  sched : z.sched = { s.sched with slots := s.sched.slots.write i (some { j with deadline := full }) }
  records : z.events.records = s.events.records ++
    [⟨.trayMismatch, s.now, some j.lathe, none, none, some j.id, halves s.seq.tIssue (s.account j.lathe).tray⟩]
  shuttle : z.shuttle = { s.shuttle with load := .none }
  rack : z.rack = s.rack
  bins : z.bins = s.bins
  kept : Kept s z

theorem trayFound {full : Time} (hj : s.job i = some j) (found : s.findJob j.lathe .collect = some i)
    (barless : (s.account j.lathe).current = none) (due : ((s.account j.lathe).predicted s.now).tFull = some full)
    (room : s.events.records.length < 64) : TrayFound s i j full (s.trayFound j) := by
  obtain ⟨u, is⟩ : ∃ u, (s.setLoad .none).post (event .trayMismatch (halves s.seq.tIssue (s.account j.lathe).tray)
    (lathe := some j.lathe) (job := some j.id)) = u := ⟨_, rfl⟩
  have posted := (s.setLoad .none).post_frame (event .trayMismatch (halves s.seq.tIssue (s.account j.lathe).tray)
    (lathe := some j.lathe) (job := some j.id))
  have records := State.post_records (s := s.setLoad .none) (event .trayMismatch
    (halves s.seq.tIssue (s.account j.lathe).tray) (lathe := some j.lathe) (job := some j.id)) room
  rw [is] at posted records
  have account (n : Lathe) : u.account n = s.account n := by rw [posted]; rfl
  have now : u.now = s.now := by rw [posted]; rfl
  have unwanted : (u.account j.lathe).wantsCompare = false := by
    rw [account]
    simp [Account.wantsCompare, barless]
  obtain ⟨x, recomputes, beside, predicted⟩ := State.recompute_of_barless (u := u) (n := j.lathe) (by rw [account]; exact barless)
  have found' : x.findJob j.lathe .collect = some i := by
    rw [beside.findJob, posted]
    exact found
  have settles : u.recomputeAndFire j.lathe = x.setDeadline i full := by
    rw [State.recomputeAndFire_of_unwanted unwanted, recomputes]
    exact State.rewriteCollect_of_has found' (by rw [predicted, account, now]; exact due)
  have own : x.job i = some j := by
    rw [beside.job, posted]
    exact hj
  have same : s.trayFound j = (u.recomputeAndFire j.lathe).evalHold j.lathe := by rw [← is]; rfl
  rw [same]
  refine ⟨?_, fun n other => ?_, ?_, ?_, ?_, ?_, ?_, ?_⟩
  · rw [State.evalHold_account_self, State.recomputeAndFire_account, account, now]
  · rw [State.evalHold_account_ne _ _ _ (Ne.symm other), State.recomputeAndFire_account_ne _ other, account]
  · rw [State.evalHold_sched, settles, State.setDeadline_sched, own, beside.sched, posted]
    rfl
  · rw [State.evalHold_events, State.recomputeAndFire_of_unwanted unwanted, State.recompute_events, records]
    rfl
  · rw [State.evalHold_shuttle, settles]
    change x.shuttle = _
    rw [beside.shuttle, posted]
    rfl
  · rw [State.evalHold_rack, settles]
    change x.rack = _
    rw [beside.rack, posted]
    rfl
  · rw [State.evalHold_bins, settles]
    change x.bins = _
    rw [beside.bins, posted]
    rfl
  · have start : Kept s u := by
      rw [posted]
      exact ⟨rfl, rfl, rfl, rfl, rfl, rfl, rfl, rfl, rfl, rfl⟩
    exact (start.trans (kept_recomputeAndFire _ _)).trans (kept_evalHold _ _)

end Empty

/-! ### The dump (R133) -/

section Dump
variable {s : State} {i : Slot} {j : Job} {b : BinNo}

/-- Bin `b` with the dump in flight counted (R133). -/
def State.dumpedBin (s : State) (b k : BinNo) : Bin :=
  if k = b then { s.bin b with count := (s.bin b).count + (s.bin b).inFlight, inFlight := 0 } else s.bin k

/-- A dump done, its job still in its slot: nothing but the bin and the load has changed, where no other job has the
bin (R100, R133). -/
structure Dumped (s : State) (i : Slot) (j : Job) (b : BinNo) (z : State) : Prop where
  completes : s.dumpDone i j b = z.completeActive i .dumped
  bin : ∀ k, z.bin k = s.dumpedBin b k
  job : ∃ j', z.job i = some j' ∧ j'.kind = j.kind ∧ j'.lathe = j.lathe ∧ j'.bin = j.bin ∧ j'.id = j.id ∧
    j'.deadline = j.deadline
  others : ∀ i', i' ≠ i → z.job i' = s.job i'
  stack : s.sched.stack = [] → z.sched.stack = []
  deferred : z.sched.deferred = s.sched.deferred
  frame : z = { s with bins := z.bins, sched := z.sched, shuttle := { s.shuttle with load := .none } }

theorem State.binJob_fields (s : State) (b : BinNo) (j : Job) :
    (s.binJob b j).kind = j.kind ∧ (s.binJob b j).lathe = j.lathe ∧ (s.binJob b j).bin = j.bin ∧
      (s.binJob b j).id = j.id ∧ (s.binJob b j).deadline = j.deadline := by
  unfold State.binJob
  split
  · split
    · split <;> exact ⟨rfl, rfl, rfl, rfl, rfl⟩
    · split <;> exact ⟨rfl, rfl, rfl, rfl, rfl⟩
    · exact ⟨rfl, rfl, rfl, rfl, rfl⟩
  · exact ⟨rfl, rfl, rfl, rfl, rfl⟩

theorem State.evalBinBlock_deferred (s : State) (i : Slot) : (s.evalBinBlock i).sched.deferred = s.sched.deferred := by
  unfold State.evalBinBlock
  split
  · rfl
  · split
    · rfl
    · split
      · rfl
      · split
        · split <;> rfl
        · split <;> rfl
        · rfl

theorem State.evalBins_deferred (s : State) (b : BinNo) : (s.evalBins b).sched.deferred = s.sched.deferred := by
  have turns (l : List Slot) (s : State) :
      (l.foldl (fun s i => s.binTurn b i) s).sched.deferred = s.sched.deferred := by
    induction l generalizing s with
    | nil => rfl
    | cons i l ih =>
      refine (ih _).trans ?_
      change (s.binTurn b i).sched.deferred = _
      unfold State.binTurn
      split
      · split
        · exact s.evalBinBlock_deferred i
        · rfl
      · rfl
  rw [State.evalBins_eq]
  exact turns allSlots s

theorem dumped (others : ∀ i' j', i' ≠ i → s.job i' = some j' → j'.bin ≠ some b) :
    ∃ z, Dumped s i j b z := by
  obtain ⟨u, is⟩ : ∃ u, ((s.setLoad .none).setBin b
    { s.bin b with count := (s.bin b).count + (s.bin b).inFlight, inFlight := 0 }).setSlot i (some { j with parts := 0 }) = u :=
    ⟨_, rfl⟩
  have turns := evalBins_turns u b
  have own : u.job i = some { j with parts := 0 } := is ▸ State.setSlot_job_self _ _ _
  have read (i' : Slot) (other : i' ≠ i) : u.job i' = s.job i' := is ▸ State.setSlot_job_ne _ _ _ _ (Ne.symm other)
  refine ⟨u.evalBins b, by rw [← is]; rfl, fun k => ?_, ?_, fun i' other => ?_, fun empty => ?_, ?_, ?_⟩
  · rw [turns.frame, State.setSched_bin, ← is]
    refine (State.setBin_bin _ _ _ _).trans ?_
    unfold State.dumpedBin
    by_cases same : b = k
    · rw [if_pos same, if_pos same.symm]
    · rw [if_neg same, if_neg (Ne.symm same)]
      rfl
  · refine ⟨u.binJob b { j with parts := 0 }, ?_, u.binJob_fields b _⟩
    rw [turns.job, if_pos (show i ∈ allSlots from List.mem_finRange i), own]
    rfl
  · rw [turns.job, if_pos (show i' ∈ allSlots from List.mem_finRange i'), read i' other]
    cases hj' : s.job i' with
    | none => rfl
    | some j' => exact congrArg some (if_neg fun h => others i' j' other hj' h.2)
  · have bare : u.sched.stack = [] := by rw [← is]; exact empty
    rw [turns.stack (by rw [bare]; exact List.nodup_nil), bare, List.filter_nil]
  · rw [State.evalBins_deferred, ← is]
    rfl
  · have bins : (u.evalBins b).bins = u.bins := by
      rw [turns.frame, State.setSched_bins]
    refine turns.frame.trans ?_
    rw [bins]
    generalize (u.evalBins b).sched = x
    rw [← is]
    rfl

end Dump

/-! ### The next COLLECT job (R93, R95, R133) -/

section Again
variable {s : State} {i : Slot} {j : Job} {n : Lathe}

theorem find?_finRange_of_first {m : Nat} {p : Fin m → Bool} {i : Fin m} (holds : p i = true)
    (first : ∀ i', i' < i → p i' = false) : (List.finRange m).find? p = some i := by
  have sorted : (List.finRange m).Pairwise (· < ·) := List.pairwise_lt_finRange m
  obtain ⟨front, back, slots⟩ := List.append_of_mem (List.mem_finRange i)
  rw [slots] at sorted
  obtain ⟨-, -, cross⟩ := List.pairwise_append.1 sorted
  refine List.find?_eq_some_iff_append.2 ⟨holds, front, back, slots, fun i' mem => ?_⟩
  rw [first i' (cross i' mem i List.mem_cons_self)]
  rfl

theorem State.emptySlot_of_first (empty : s.job i = none) (first : ∀ i', i' < i → s.job i' ≠ none) :
    s.emptySlot = some i :=
  find?_finRange_of_first (Option.isNone_iff_eq_none.2 empty) fun i' below => by
    rw [Option.isNone_eq_false_iff, Option.isSome_iff_ne_none]
    exact first i' below

theorem State.evalBinBlock_frame (s : State) (i : Slot) : s.evalBinBlock i = s.setSched (s.evalBinBlock i).sched := by
  unfold State.evalBinBlock
  split
  · rfl
  · split
    · rfl
    · split
      · rfl
      · split
        · split <;> rfl
        · split <;> rfl
        · rfl

theorem State.createIn_collect_frame (s : State) (i : Slot) (n : Lathe) :
    s.createIn i n .collect = s.setSched (s.createIn i n .collect).sched := by
  unfold State.createIn
  dsimp only
  split
  · rfl
  · refine (State.evalBinBlock_frame _ i).trans ?_
    generalize (State.evalBinBlock _ i).sched = x
    rfl

/-- A request for a COLLECT job touches the schedule alone. -/
theorem State.request_collect_frame (s : State) (n : Lathe) :
    s.request n .collect = s.setSched (s.request n .collect).sched := by
  have defers : s.defer n .collect = s.setSched (s.defer n .collect).sched := by
    unfold State.defer
    split <;> rfl
  unfold State.request
  split
  · rfl
  · split
    · exact defers
    · split
      · exact s.createIn_collect_frame _ n
      · exact defers

/-- A job whose first MOVE is to its lathe handed the shuttle (R103, R119, R123). -/
theorem State.startJob_of_lathe (hj : s.job i = some j) (kind : j.kind ≠ .deliver) :
    s.startJob i =
      if (s.line j.lathe).guardClosed then
        { s with
          sched := { s.sched with slots := s.sched.slots.write i (some j.started) }
          shuttle := s.shuttle.issued .move (.lathe j.lathe) s.shuttle.load.speed
          seq := ⟨some i, .outstanding, some ⟨.move, .lathe j.lathe⟩, 0, 0, false⟩
          timer := { s.timer with stepTimer := .running s.params.stepLimitMove } }
      else
        { s with
          sched := { s.sched with slots := s.sched.slots.write i (some j.started) }
          shuttle := { s.shuttle with state := .waiting }
          seq := ⟨some i, .guardPending, some ⟨.move, .lathe j.lathe⟩, 0, 0, false⟩
          timer := { s.timer with guardWait := .running s.params.guardWait } } := by
  have active := State.activate_active hj
  have order : j.started.order = some ⟨.move, .lathe j.lathe⟩ := by
    unfold Job.order Job.started
    cases is : j.kind with
    | deliver => exact absurd is kind
    | collect => rfl
    | ret => rfl
  have passes : (s.activate i).guardPasses (.lathe j.lathe) = (s.line j.lathe).guardClosed := by
    rw [State.activate_eq hj]
    rfl
  unfold State.startJob
  by_cases closed : (s.line j.lathe).guardClosed = true
  · rw [if_pos closed, State.moveTaken_of_passes active order (passes.trans closed), State.activate_eq hj]
    rfl
  · rw [if_neg closed, State.moveTaken_of_guarded active order (passes.trans (Bool.eq_false_iff.2 closed)),
      State.activate_eq hj]
    rfl

/-- What the shuttle handed to such a job leaves. -/
theorem State.startJob_of_lathe_frame (hj : s.job i = some j) (kind : j.kind ≠ .deliver) :
    (s.startJob i).sched = { s.sched with slots := s.sched.slots.write i (some j.started) } ∧
      (s.startJob i).rack = s.rack ∧ (s.startJob i).accounts = s.accounts ∧ (s.startJob i).ports = s.ports ∧
      (s.startJob i).bins = s.bins ∧ (s.startJob i).events = s.events ∧ (s.startJob i).seq.job = some i ∧
      Kept s (s.startJob i) := by
  rw [State.startJob_of_lathe hj kind]
  split <;> exact ⟨rfl, rfl, rfl, rfl, rfl, rfl, rfl, ⟨rfl, rfl, rfl, rfl, rfl, rfl, rfl, rfl, rfl, rfl⟩⟩

end Again

/-- Settles O52: the checks of EMPTY and DUMP, the parts taken or missed, and the dump with the job it asks for. -/
theorem collectTakesTrayToBin : Obligations.CollectTakesTrayToBin := by
  intro s o w i j b g out held step other active kind bin unmarked program runs stepping deferred stack taken
  have done : s.completes o w := ⟨out, held, step, other⟩
  have run := exec_orderComplete out held other
  obtain ⟨x, is⟩ : ∃ x, s.orderEnded w = x := ⟨_, rfl⟩
  have start : Outcome s x := is ▸ outcome_orderEnded s w
  have active' : x.active = some (i, j) := is ▸ active
  have hj : x.job i = some j := (State.active_eq_some.1 active').2
  have account (n : Lathe) : x.account n = s.account n := is ▸ rfl
  have jobs (i' : Slot) : x.job i' = s.job i' := is ▸ rfl
  have now : x.now = s.now := is ▸ rfl
  have accepted {l : Load} (sensed : sensedLoad w = l) (accepts : j.accepts l = true) :
      exec .orderComplete s = .next (x.takeOutcome i j l) := by
    rw [run, is, State.handOn_of_accepted step active' (sensed ▸ accepts), sensed]
  refine ⟨fun one sensed others => ?_, fun three sensed room => ?_, fun two sensed => ?_,
    fun two sensed barless others found room => ?_, fun four sensed below others room => ?_,
    fun held cyc i2 four sensed reached isHeld cycle others slot first room => ?_⟩
  · refine stepTaken_of_move done active unmarked sensed (by simp [Job.accepts, kind, one]) (.inl ⟨one, rfl⟩) runs
      (.inr others.2) (State.nothingToPick_eq_false (.inl (by rw [kind]; decide))) (by simp [Job.order, kind]) ?_
    rintro (h | h) <;> cases h
  · exact stepTaken_of_move done active unmarked sensed (by simp [Job.accepts, kind, three]) (.inr ⟨three, rfl⟩) runs
      (.inl (by decide)) (State.nothingToPick_eq_false (.inl (by rw [kind]; decide))) (by simp [Job.order, kind, bin])
      fun _ => room
  · have goes := accepted sensed (by simp [Job.accepts, kind, two])
    have outcome : x.takeOutcome i j .parts = (x.partsTaken i j).afterOutcome i .three false := by
      unfold State.takeOutcome
      simp only [kind, two]
      rfl
    have p := partsTaken active' kind
    generalize x.partsTaken i j = z at *
    obtain ⟨d, job⟩ := p.job
    have shuttle : z.shuttle = s.shuttle.ended w .parts := by
      rw [p.shuttle, ← is]
      rfl
    have kept : Kept s z := start.kept.trans p.kept
    obtain ⟨y, isY⟩ : ∃ y, z.setSlot i (some { j with parts := x.seq.tIssue, deadline := d, step := .three }) = y := ⟨_, rfl⟩
    have shuttleY : y.shuttle = s.shuttle.ended w .parts := isY ▸ shuttle
    have own : y.job i = some { j with parts := x.seq.tIssue, deadline := d, step := .three } :=
      isY ▸ State.setSlot_job_self _ _ _
    have activeY : y.active = some (i, { j with parts := x.seq.tIssue, deadline := d, step := .three }) := by
      refine State.active_eq_some.2 ⟨?_, own⟩
      rw [← isY]
      change z.seq.job = _
      rw [p.seq]
      exact (State.active_eq_some.1 active').1
    have course : x.takeOutcome i j .parts = y.beginStep.checkAndIssue := by
      rw [outcome, State.afterOutcome_goesOn job (.inl unmarked)]
      change State.goOn (z.setSlot i (some { j with parts := x.seq.tIssue, deadline := d, step := .three })) = _
      rw [isY]
      exact State.goOn_of_loaded activeY (by rw [shuttleY]; exact fun h => by cases h) (by rw [shuttleY]; exact runs)
        (State.nothingToPick_eq_false (.inl (by rw [kind]; decide)))
    rw [course, State.moveTaken_of_passes (st := .bin b) activeY (by simp [Job.order, kind, bin]) rfl, shuttleY] at goes
    have accounts (n : Lathe) : y.account n = z.account n := by rw [← isY]; rfl
    have tIssue : x.seq.tIssue = s.seq.tIssue := is ▸ rfl
    refine ⟨_, _, goes, ?_, ?_, ?_, fun n other => ?_, own, ?_, rfl, rfl, rfl, rfl, rfl, rfl, rfl, ?_, ?_, ?_⟩
    · change (y.account j.lathe).tray = _
      rw [accounts, p.account, account, tIssue]
      rfl
    · change (y.account j.lathe).current = _
      rw [accounts, p.account, account]
      rfl
    · change (y.account j.lathe).holdSet = (y.account j.lathe).reasons
      rw [accounts, p.account]
      rfl
    · exact (accounts n).trans ((p.accounts n other).trans (account n))
    · exact tIssue
    · change Timer.running y.params.stepLimitMove = _
      rw [← isY, ← kept.params]
      rfl
    · change y.bins = _
      rw [← isY]
      refine p.bins.trans ?_
      rw [← is]
      rfl
    · rw [← isY]
      exact kept.trans ⟨rfl, rfl, rfl, rfl, rfl, rfl, rfl, rfl, rfl, rfl⟩
  · intro a full
    have goes := accepted sensed (by simp [Job.accepts, kind, two])
    have outcome : x.takeOutcome i j .none = (x.trayFound j).completeActive i .plain := by
      unfold State.takeOutcome
      simp only [kind, two]
      rfl
    have due : ((x.account j.lathe).predicted x.now).tFull = some full := by
      rw [account, now]
      change (s.account j.lathe).program.map _ = _
      rw [program]
      rfl
    have p := trayFound hj (is ▸ found) (by rw [account]; exact barless) due (is ▸ (by omega : s.events.records.length < 64))
    generalize x.trayFound j = z at *
    have shuttle : z.shuttle = s.shuttle.ended w .none := by
      rw [p.shuttle, ← is]
      rfl
    have own : z.job i = some { j with deadline := full } := by
      rw [State.job, p.sched]
      exact Bank.read_write_self _ _ _
    have read (i' : Slot) (other : i' ≠ i) : z.job i' = s.job i' := by
      rw [State.job, p.sched]
      exact (Bank.read_write_ne _ _ _ _ (Ne.symm other)).trans (jobs i')
    have planned : z.sched.stack = [] ∧ z.sched.deferred = [] := by
      rw [p.sched, ← is]
      exact ⟨stack, deferred⟩
    have kept : Kept s z := start.kept.trans p.kept
    have events : x.events = s.events := is ▸ rfl
    have records : z.events.records = s.events.records ++
        [⟨.trayMismatch, s.now, some j.lathe, none, none, some j.id, halves s.seq.tIssue a.tray⟩] := by
      rw [p.records, events, now, account, ← is]
      rfl
    have count : z.events.records.length < 64 := by
      rw [records, List.length_append]
      change _ + 1 < 64
      omega
    have still : z.shuttle.state = .stepping := by rw [shuttle]; exact stepping
    have finished := State.jobDone_collect (s := z) (j := { j with deadline := full }) kind count
    rw [outcome, (State.completeActive_eq own planned.2).1, State.completed_dispatch still (.inr
      ⟨planned.1, fun i' j' other hj' => others.2 i' j' other ((read i' other).symm.trans hj')⟩),
      State.completed_frame still, shuttle] at goes
    have accountZ : z.account j.lathe = { a.predicted s.now with holdSet := (a.predicted s.now).reasons } := by
      rw [p.account, account, now]
    refine ⟨_, goes, ?_, ?_, ?_, fun n other => (p.accounts n other).trans (account n), Bank.read_write_self _ _ _,
      fun i' other => (Bank.read_write_ne _ _ _ _ (Ne.symm other)).trans (read i' other), ?_, rfl, ?_, ?_, ?_,
      kept.trans ⟨rfl, rfl, rfl, rfl, rfl, rfl, rfl, rfl, rfl, rfl⟩⟩
    · change (z.account j.lathe).tray = _
      rw [accountZ]
      rfl
    · change (z.account j.lathe).state = _
      rw [accountZ]
      rfl
    · change (z.account j.lathe).tFull = _
      rw [accountZ]
      rw [account, now] at due
      exact due
    · exact Shuttle.left_running (sh := s.shuttle.ended w .none) runs
    · refine finished.trans ?_
      rw [records, kept.now, List.append_assoc]
      exact congrArg (fun x => s.events.records ++ (_ :: [(⟨_, _, _, _, x, _, _⟩ : EventRec)])) bin
    · refine p.bins.trans ?_
      rw [← is]
      rfl
    · refine p.rack.trans ?_
      rw [← is]
      rfl
  all_goals
    have goes := accepted sensed (by simp [Job.accepts, kind, four])
    have outcome : x.takeOutcome i j .none = x.dumpDone i j b := by
      unfold State.takeOutcome
      simp only [kind, four, bin]
    have noBin : ∀ i' j', i' ≠ i → x.job i' = some j' → j'.bin ≠ some b := fun i' j' other hj' => by
      have h := others i' j' other ((jobs i').symm.trans hj')
      simp_all only [ne_eq, not_false_eq_true]
    obtain ⟨z, p⟩ := dumped (j := j) noBin
    obtain ⟨j1, job, kind1, lathe1, bin1, id1, deadline1⟩ := p.job
    have shuttle : z.shuttle = s.shuttle.ended w .none := by
      rw [p.frame, ← is]
      rfl
    have read (i' : Slot) (other : i' ≠ i) : z.job i' = s.job i' := (p.others i' other).trans (jobs i')
    have planned : z.sched.stack = [] ∧ z.sched.deferred = [] :=
      ⟨p.stack (is ▸ stack), p.deferred.trans (is ▸ deferred)⟩
    have kept : Kept s z := by
      rw [p.frame, ← is]
      exact ⟨rfl, rfl, rfl, rfl, rfl, rfl, rfl, rfl, rfl, rfl⟩
    have events : z.events = s.events := by
      rw [p.frame, ← is]
      rfl
    have still : z.shuttle.state = .stepping := by rw [shuttle]; exact stepping
    have bins (k : BinNo) : z.bin k = s.dumpedBin b k := by
      rw [p.bin, ← is]
      rfl
    have finished := State.jobDone_collect (s := z) (kind1.trans kind) (by rw [events]; exact room)
    rw [events, kept.now, lathe1, bin1, bin, id1, deadline1] at finished
    have idle : { z.shuttle with state := if z.shuttle.haltPending then .halted else .idle, haltPending := false } =
        { s.shuttle.ended w .none with state := .idle } := by
      rw [shuttle]
      exact Shuttle.left_running (sh := s.shuttle.ended w .none) runs
    have frame := State.completed_frame (i := i) (j := j1) still
    rw [idle] at frame
    rw [outcome, p.completes, (State.completeActive_eq job planned.2).2.1, lathe1] at goes
    obtain ⟨c, isC⟩ : ∃ c, z.completed i j1 = c := ⟨_, rfl⟩
    have alone := State.completed_dispatch (i := i) (j := j1) still
    rw [isC] at goes frame alone
    have accounts : c.accounts = s.accounts := by
      rw [frame]
      change z.accounts = _
      rw [p.frame, ← is]
      rfl
    have programC : (c.account j.lathe).program = some g := by
      rw [State.account, accounts]
      exact program
    have trayC : (c.account j.lathe).tray = (s.account j.lathe).tray := by
      rw [State.account, accounts]
      rfl
  · have same : c.collectAgain j.lathe = c := by
      unfold State.collectAgain
      rw [programC]
      exact if_neg (by rw [trayC]; exact Nat.not_le.2 below)
    rw [same, alone (.inr ⟨planned.1, fun i' j' other hj' => (others i' j' other ((read i' other).symm.trans hj')).1⟩),
      frame] at goes
    refine ⟨_, goes, ?_, fun k other => ?_, Bank.read_write_self _ _ _,
      fun i' other => (Bank.read_write_ne _ _ _ _ (Ne.symm other)).trans (read i' other), rfl, rfl, rfl, rfl, finished,
      ?_, ?_, ?_, kept.trans ⟨rfl, rfl, rfl, rfl, rfl, rfl, rfl, rfl, rfl, rfl⟩⟩
    · exact (bins b).trans (if_pos rfl)
    · exact (bins k).trans (if_neg other)
    all_goals
      rw [p.frame, ← is]
      rfl
  · intro dumped full gate
    have jobC (i' : Slot) : c.job i' = if i' = i then none else s.job i' := by
      rw [frame]
      refine (Bank.read_write _ _ _ _).trans ?_
      by_cases own : i = i'
      · rw [if_pos own, if_pos own.symm]
      · rw [if_neg own, if_neg (Ne.symm own)]
        exact read i' (Ne.symm own)
    have lacks : c.hasJob j.lathe .collect = false := by
      refine State.hasJob_of_findJob (Option.eq_none_iff_forall_ne_some.2 fun i' found => ?_)
      obtain ⟨j', hj', lathe', kind'⟩ := State.findJob_spec found
      rw [jobC] at hj'
      by_cases own : i' = i
      · rw [if_pos own] at hj'
        cases hj'
      · rw [if_neg own] at hj'
        exact (others i' j' own hj').2.2 lathe' kind'
    have empty : c.emptySlot = some i2 := by
      refine State.emptySlot_of_first ?_ fun i' below none' => ?_
      · rw [jobC]
        rcases slot with rfl | none'
        · exact if_pos rfl
        · rw [none', ite_self]
      · rw [jobC, if_neg (first i' below).1] at none'
        exact (first i' below).2 none'
    have deferredC : c.sched.deferred = [] := by rw [frame]; exact planned.2
    have nowC : c.now = s.now := by rw [frame]; exact kept.now
    have binC : c.bin g.bin = dumped g.bin := by rw [frame]; exact bins g.bin
    have accountC : c.account j.lathe = s.account j.lathe := by rw [State.account, accounts, State.account]
    have due : ((c.account j.lathe).fullAt c.now).getD c.now = full := by
      rw [accountC, nowC, Account.fullAt, isHeld, program]
      exact congrArg (fun x : Option Time => x.getD s.now) ((s.account j.lathe).useTime_used s.now _ _ cyc cycle)
    have sched := State.request_collect_sched programC lacks empty deferredC due
    rw [nowC, binC] at sched
    obtain ⟨r, isR⟩ : ∃ r, c.request j.lathe .collect = r := ⟨_, rfl⟩
    have frameR := c.request_collect_frame j.lathe
    rw [isR] at sched frameR
    obtain ⟨j2, isJ2⟩ : ∃ j2, { madeJob c.nextJobId .collect j.lathe s.now full with
      bin := some g.bin, block := gateOf (dumped g.bin) g.capacity } = j2 := ⟨_, rfl⟩
    rw [isJ2] at sched
    have again : c.collectAgain j.lathe = r := by
      unfold State.collectAgain
      rw [programC, ← isR]
      exact if_pos (by rw [trayC]; exact reached)
    rw [again] at goes
    have jobR (i' : Slot) : r.job i' = if i' = i2 then some j2 else if i' = i then none else s.job i' := by
      rw [State.job, sched]
      refine (Bank.read_write _ _ _ _).trans ?_
      by_cases own : i2 = i'
      · rw [if_pos own, if_pos own.symm]
      · rw [if_neg own, if_neg (Ne.symm own)]
        exact jobC i'
    have own : r.job i2 = some j2 := (jobR i2).trans (if_pos rfl)
    have readR (i' : Slot) (other : i' ≠ i) (other2 : i' ≠ i2) : r.job i' = s.job i' := by
      rw [jobR, if_neg other2, if_neg other]
    have stackR : r.sched.stack = [] := by
      rw [sched]
      change c.sched.stack = []
      rw [frame]
      change z.sched.stack.erase i = []
      rw [planned.1]
      rfl
    have shuttleR : r.shuttle = { s.shuttle.ended w .none with state := .idle } := by
      rw [frameR]
      change c.shuttle = _
      rw [frame]
    have seqR : r.seq = ⟨none, .unissued, none, 0, 0, false⟩ := by
      rw [frameR]
      change c.seq = _
      rw [frame]
      rfl
    have binsR (k : BinNo) : r.bin k = dumped k := by
      rw [frameR]
      change c.bin k = _
      rw [frame]
      exact bins k
    have recordsR : r.events.records = s.events.records ++
        [⟨.jobDone, s.now, some j.lathe, none, some b, some j.id,
          if (s.now - j.deadline).toNat < 2147483648 then s.now - j.deadline else 0⟩] := by
      rw [frameR]
      change c.events.records = _
      rw [frame]
      exact finished
    have stands : r.accounts = s.accounts ∧ r.rack = s.rack ∧ r.ports = s.ports := by
      rw [frameR]
      refine ⟨accounts, ?_, ?_⟩
      · change c.rack = _
        rw [frame]
        change z.rack = _
        rw [p.frame, ← is]
        rfl
      · change c.ports = _
        rw [frame]
        change z.ports = _
        rw [p.frame, ← is]
        rfl
    have keptR : Kept s r := by
      rw [frameR, frame]
      exact kept.trans ⟨rfl, rfl, rfl, rfl, rfl, rfl, rfl, rfl, rfl, rfl⟩
    have fresh (i' : Slot) (other : i' ≠ i) (j' : Job) (hj' : s.job i' = some j') : j'.id ≠ c.nextJobId :=
      State.nextJobId_free (i := i') (by rw [jobC, if_neg other]; exact hj')
    have last : r.sched.lastJobId = c.nextJobId := by rw [sched]
    have block : j2.block = gate := by rw [← isJ2]
    by_cases room2 : gate = .none
    · have best : r.bestEligible = some (i2, j2) := by
        refine State.bestJob_of_goesBefore own ?_ fun i' j' other hj' eligible => ?_
        · rw [Job.eligible, block, room2, ← isJ2]
          rfl
        · rw [jobR, if_neg other] at hj'
          by_cases own' : i' = i
          · rw [if_pos own'] at hj'
            cases hj'
          · rw [if_neg own'] at hj'
            rw [(others i' j' own' hj').1] at eligible
            cases eligible
      have free : r.shuttleFree = true := by
        rw [State.shuttleFree_iff, shuttleR, seqR]
        exact ⟨rfl, rfl⟩
      have notDeliver : j2.kind ≠ .deliver := by
        rw [← isJ2]
        exact fun h => by cases h
      have lathe2 : j2.lathe = j.lathe := by rw [← isJ2]; rfl
      rw [State.dispatch_of_best free stackR best] at goes
      obtain ⟨sched2, rack2, accounts2, ports2, bins2, events2, job2, kept2⟩ := State.startJob_of_lathe_frame own notDeliver
      refine ⟨_, c.nextJobId, goes, fun k => ?_, ?_, fun i' other other2 => ⟨?_, fresh i' other⟩, fun other => ?_, ?_,
        fun h => absurd room2 h, fun _ => ⟨job2, fun closed => ?_⟩, ?_, accounts2.trans stands.1, rack2.trans stands.2.1,
        ports2.trans stands.2.2, keptR.trans kept2⟩
      · rw [State.bin, bins2]
        exact binsR k
      · rw [State.job, sched2, ← isJ2]
        refine (Bank.read_write_self _ _ _).trans (congrArg some ?_)
        unfold Job.started
        rw [room2, if_pos rfl]
        rfl
      · rw [State.job, sched2]
        exact (Bank.read_write_ne _ _ _ _ (Ne.symm other2)).trans (readR i' other other2)
      · rw [State.job, sched2]
        refine (Bank.read_write_ne _ _ _ _ other).trans ?_
        exact (jobR i).trans ((if_neg (Ne.symm other)).trans (if_pos rfl))
      · rw [sched2]
        exact last
      · have line : (r.line j2.lathe).guardClosed = true := by
          rw [lathe2, frameR]
          change (c.line j.lathe).guardClosed = true
          rw [frame]
          change (z.line j.lathe).guardClosed = true
          rw [p.frame, ← is]
          exact closed
        rw [State.startJob_of_lathe own notDeliver, if_pos line, shuttleR, lathe2]
        exact ⟨rfl, rfl⟩
      · rw [events2]
        exact recordsR
    · have none' : r.noneReady := by
        refine ⟨stackR, fun i' j' hj' => ?_⟩
        rw [jobR] at hj'
        by_cases own2 : i' = i2
        · rw [if_pos own2] at hj'
          cases hj'
          rw [Job.eligible, block, beq_false_of_ne room2, Bool.and_false]
        · rw [if_neg own2] at hj'
          by_cases own' : i' = i
          · rw [if_pos own'] at hj'
            cases hj'
          · rw [if_neg own'] at hj'
            exact (others i' j' own' hj').1
      rw [State.dispatch_of_noneReady none'] at goes
      refine ⟨r, c.nextJobId, goes, binsR, ?_, fun i' other other2 => ⟨readR i' other other2, fresh i' other⟩,
        fun other => (jobR i).trans ((if_neg (Ne.symm other)).trans (if_pos rfl)), last, fun _ => ⟨shuttleR, seqR⟩,
        fun h => absurd h room2, recordsR, stands.1, stands.2.1, stands.2.2, keptR⟩
      rw [own, ← isJ2, if_neg room2]
      rfl

end Sys2Proof.Machine

/-! PROOFS. The outcomes of a RETURN job's orders (R26, R84, R107, R134 to R136): the bar taken from the cradle and sent
on its way, the bar placed, and the RETURN that finds none. -/
namespace Sys2Proof.Machine

open Sys2Proof

/-! ### The cradle emptied (R26) -/

section Cradle
variable {s : State} {n : Lathe} {i : Slot} {j : Job}

/-- The account of lathe `n` with its cradle empty. -/
def State.bare (s : State) (n : Lathe) : State := s.setAccount n { s.account n with cradle := none }

theorem State.bare_account (s : State) (n : Lathe) : (s.bare n).account n = { s.account n with cradle := none } :=
  State.setAccount_account_self _ _ _

theorem beside_bare (n : Lathe) (s : State) : Beside n s (s.bare n) := beside_setAccount n s _

theorem State.emptyCradle_of_plain (unwanted : ((s.bare n).account n).wantsCompare = false)
    (away : (s.account n).state ≠ .await) : s.emptyCradle n = s.bare n := by
  change (let s2 := if ((s.bare n).account n).wantsCompare then _ else s.bare n
    if (s2.account n).state = .await then s2.wantBar n else s2) = _
  simp only [unwanted, Bool.false_eq_true, if_false]
  rw [if_neg (by rw [s.bare_account]; exact away)]

theorem State.emptyCradle_of_wanted (wants : ((s.bare n).account n).wantsCompare = true)
    (away : (s.account n).state ≠ .await) : s.emptyCradle n = (s.bare n).rearm n := by
  change (let s2 := if ((s.bare n).account n).wantsCompare then (s.bare n).rearm n else s.bare n
    if (s2.account n).state = .await then s2.wantBar n else s2) = _
  simp only [wants, if_true]
  rw [if_neg (by rw [State.rearm_account, s.bare_account]; exact away)]

theorem State.emptyCradle_of_await (await : (s.account n).state = .await) : s.emptyCradle n = (s.bare n).wantBar n := by
  have unwanted : ((s.bare n).account n).wantsCompare = false := by
    rw [s.bare_account]
    simp [Account.wantsCompare, await]
  change (let s2 := if ((s.bare n).account n).wantsCompare then _ else s.bare n
    if (s2.account n).state = .await then s2.wantBar n else s2) = _
  simp only [unwanted, Bool.false_eq_true, if_false]
  rw [if_pos (by rw [s.bare_account]; exact await)]

theorem wantsCompare_not_await {a : Account} (wants : a.wantsCompare = true) : a.state ≠ .await := by
  intro await
  simp [Account.wantsCompare, await] at wants

/-- A RETURN job stands through a request for a bar. -/
theorem State.wantBar_job_ret (busy : s.shuttleFree = false) (hj : s.job i = some j) (kind : j.kind = .ret) :
    (s.wantBar n).job i = some j := by
  cases has : s.findJob n .deliver with
  | some d =>
    rw [State.wantBar_of_has has]
    refine (State.setDeadline_job_ne fun same => ?_).trans hj
    subst same
    obtain ⟨j', hj', -, kind'⟩ := State.findJob_spec has
    cases hj.symm.trans hj'
    cases kind.symm.trans kind'
  | none =>
    cases stock : (s.account n).stockShort with
    | true => rw [State.wantBar_of_short has stock, hj]
    | false =>
      rw [State.wantBar_of_busy has stock busy]
      exact State.request_job_of_some _ hj

/-- What a RETURN's PICK does to the cradle's account, whatever the lathe's state. -/
structure CradleEmptied (s : State) (n : Lathe) (i : Slot) (j : Job) (t : State) : Prop where
  account : t.account n =
    { ({ s.account n with cradle := none } : Account) with
      holdSet := ({ s.account n with cradle := none } : Account).reasons }
  accounts : ∀ m, m ≠ n → t.account m = s.account m
  job : t.job i = some j
  lanes : SameLanes s t
  shuttle : t.shuttle = s.shuttle
  seq : t.seq = s.seq
  bins : t.bins = s.bins
  kept : Kept s t

theorem sameLanes_of_rack {t : State} (h : t.rack = s.rack) : SameLanes s t := fun k =>
  ⟨(s.lane k).claimed, by rw [State.lane, h, State.lane]⟩

theorem cradleEmptied (busy : s.shuttleFree = false) (hj : s.job i = some j) (kind : j.kind = .ret) :
    CradleEmptied s n i j ((s.emptyCradle n).evalHold n) := by
  have reach : ∃ m, Beside n (s.bare n) m ∧ m.account n = (s.bare n).account n ∧ PlanReach m (s.emptyCradle n) ∧
      (s.emptyCradle n).job i = some j := by
    have busy' : (s.bare n).shuttleFree = false := (beside_bare n s).shuttleFree.trans busy
    have hj' : (s.bare n).job i = some j := ((beside_bare n s).job i).trans hj
    by_cases await : (s.account n).state = .await
    · rw [State.emptyCradle_of_await await]
      exact ⟨s.bare n, .refl n _, rfl, plan_wantBar_of_busy busy', State.wantBar_job_ret busy' hj' kind⟩
    · cases wants : ((s.bare n).account n).wantsCompare with
      | true =>
        rw [State.emptyCradle_of_wanted wants await]
        have beside := beside_writeCompare n (s.bare n)
        have busy2 := beside.shuttleFree.trans busy'
        refine ⟨((s.bare n).writeCompare n).1, beside, ?_, plan_fireIf_of_busy busy2 _,
          State.fireIf_job_of_some busy2 ((beside.job i).trans hj')⟩
        rw [State.account, State.writeCompare_accounts, State.account]
      | false =>
        rw [State.emptyCradle_of_plain wants await]
        exact ⟨s.bare n, .refl n _, rfl, .refl, hj'⟩
  obtain ⟨m, beside, own, plan, job⟩ := reach
  have keeps := PlanReach.keeps plan
  have besides := (beside_bare n s).trans beside
  refine ⟨?_, fun k other => ?_, (State.evalHold_job _ _ _).trans job, ?_, ?_, ?_, ?_, ?_⟩
  · rw [State.evalHold_account_self, keeps.account, own, s.bare_account]
  · rw [State.evalHold_account_ne _ _ _ (Ne.symm other), keeps.account, besides.accounts k other]
  · refine (sameLanes_of_rack besides.rack).trans ((SchedReach.lanes (PlanReach.toSched plan)).trans ?_)
    exact sameLanes_of_rack (State.evalHold_rack _ _)
  · rw [State.evalHold_shuttle, keeps.shuttle, besides.shuttle]
  · rw [State.evalHold_seq, keeps.seq, besides.seq]
  · rw [State.evalHold_bins, keeps.bins, besides.bins]
  · exact (besides.kept.trans keeps.kept).trans (kept_evalHold _ _)

end Cradle

/-! ### The bar on its way (R84, R135) -/

section Way
variable {s : State} {i : Slot} {j : Job} {b : BarRecord}

/-- A RETURN's MOVE with its bar issued, to its home lane with a reservation where that is fit, else to REJECT. -/
structure OnItsWay (s : State) (i : Slot) (j : Job) (b : BarRecord) (t : State) : Prop where
  job : t.job i = some { j with step := .three, lane := if homeFit (s.lane b.home) b then some b.home else none }
  others : ∀ i', i' ≠ i → t.job i' = s.job i'
  lanes : ∀ x, t.lane x = if homeFit (s.lane b.home) b ∧ x = b.home then { s.lane x with reserved := 1 } else s.lane x
  shuttle : t.shuttle =
    s.shuttle.issued .move (if homeFit (s.lane b.home) b then .lane b.home else .reject) s.shuttle.load.speed
  order : t.seq.order = some ⟨.move, if homeFit (s.lane b.home) b then .lane b.home else .reject⟩
  phase : t.seq.phase = .outstanding
  timer : t.timer = { s.timer with stepTimer := .running s.params.stepLimitMove }
  events : t.events = s.events
  accounts : t.accounts = s.accounts
  kept : Kept s t

theorem onItsWay (active : s.active = some (i, j)) (kind : j.kind = .ret) (unmarked : j.cancel = .none)
    (load : s.shuttle.load ≠ .none) (runs : s.shuttle.haltPending = false) :
    OnItsWay s i j b ((s.chooseDestination i b).afterOutcome i .three true) := by
  obtain ⟨isActive, hj⟩ := State.active_eq_some.1 active
  have dest := destined hj b
  obtain ⟨z, is⟩ : ∃ z, s.chooseDestination i b = z := ⟨_, rfl⟩
  rw [is] at dest ⊢
  obtain ⟨j', isJob⟩ : ∃ j', { j with step := .three, lane := if homeFit (s.lane b.home) b then some b.home else none } = j' :=
    ⟨_, rfl⟩
  obtain ⟨u, isU⟩ : ∃ u, z.setSlot i (some j') = u := ⟨_, rfl⟩
  have goes : z.afterOutcome i .three true = u.goOn := by
    rw [State.afterOutcome_goesOn dest.job (.inl unmarked), ← isU, ← isJob]
  have own : u.job i = some j' := isU ▸ State.setSlot_job_self _ _ _
  have frame : u = { s with rack := z.rack, sched := u.sched } := by
    rw [← isU, dest.frame]
    rfl
  have active' : u.active = some (i, j') := State.active_eq_some.2 ⟨by rw [frame]; exact isActive, own⟩
  have order : j'.order = some ⟨.move, if homeFit (s.lane b.home) b then .lane b.home else .reject⟩ := by
    rw [← isJob]
    by_cases fit : homeFit (s.lane b.home) b
    · rw [if_pos fit, if_pos fit]
      simp [Job.order, kind, Job.destination]
    · rw [if_neg fit, if_neg fit]
      simp [Job.order, kind, Job.destination]
  have passes : u.guardPasses (if homeFit (s.lane b.home) b then .lane b.home else .reject) = true := by
    split <;> rfl
  have three : j'.step ≠ .two := by
    rw [← isJob]
    exact fun h => by cases h
  have shuttle : u.shuttle = s.shuttle := by rw [frame]
  rw [goes, State.goOn_of_loaded active' (by rw [shuttle]; exact load) (by rw [shuttle]; exact runs)
    (State.nothingToPick_eq_false (.inr three)), State.moveTaken_of_passes active' order passes, shuttle]
  refine ⟨own.trans (congrArg some isJob.symm), fun i' other => ?_, fun x => ?_, rfl, rfl, rfl, ?_, ?_, ?_, ?_⟩
  · change u.job i' = _
    rw [← isU]
    exact (State.setSlot_job_ne _ _ _ _ (Ne.symm other)).trans (dest.others i' other)
  · change u.lane x = _
    rw [← isU]
    exact dest.lanes x
  · rw [frame]
  · change u.events = _
    rw [frame]
  · change u.accounts = _
    rw [frame]
  · have kept : Kept s u := by
      rw [frame]
      exact ⟨rfl, rfl, rfl, rfl, rfl, rfl, rfl, rfl, rfl, rfl⟩
    exact kept.trans ⟨rfl, rfl, rfl, rfl, rfl, rfl, rfl, rfl, rfl, rfl⟩

theorem homeFit_congr {l l' : LaneRecord} {c : Nat} (h : l' = { l with claimed := c }) (b : BarRecord) :
    homeFit l' b ↔ homeFit l b := by rw [h]

end Way

/-- A RETURN fills its slot before and after its PICK: the empty slots are the same. -/
theorem State.emptySlot_setSlot {s : State} {i : Slot} {j : Job} (hj : s.job i = some j) (j' : Job) :
    (s.setSlot i (some j')).emptySlot = s.emptySlot := by
  have same : (fun k => ((s.setSlot i (some j')).job k).isNone) = fun k => (s.job k).isNone := by
    funext k
    by_cases own : i = k
    · subst own
      rw [State.setSlot_job_self, hj]
      rfl
    · rw [State.setSlot_job_ne _ _ _ _ own]
  unfold State.emptySlot
  rw [same]

/-! ### The completion of a RETURN (R107, R137) -/

/-- A RETURN completes with no JOB_DONE, and the shuttle is IDLE. -/
theorem State.completeActive_ret {s : State} {i : Slot} {j : Job} (hj : s.job i = some j) (kind : j.kind = .ret)
    (stepping : s.shuttle.state = .stepping) (runs : s.shuttle.haltPending = false) (deferred : s.sched.deferred = [])
    (others : s.noOtherReady i) :
    s.completeActive i .plain =
      { s with
        seq := .clear
        shuttle := { s.shuttle with state := .idle }
        sched := { s.sched with slots := s.sched.slots.write i none, stack := s.sched.stack.erase i } } := by
  have silent : s.jobDone j = s := by rw [State.jobDone, kind]
  rw [(State.completeActive_eq hj deferred).1, State.completed_dispatch stepping (.inr others),
    State.completed_frame stepping, silent, Shuttle.left_running runs]

/-! ### PICK LATHE with the bar sensed (R26, R135) -/

section Pick
variable {x : State} {i : Slot} {j : Job} {c : CradleBar}

/-- The bar of a RETURN on the shuttle, the cradle not yet emptied. -/
def State.lifted (x : State) (i : Slot) (j : Job) (b : BarRecord) : State :=
  (x.setLoad .bar).setSlot i (some { j with bar := some b })

/-- The cradle emptied and its hold reasons evaluated. -/
def State.unloaded (u : State) (n : Lathe) : State := (u.emptyCradle n).evalHold n

theorem State.takeOutcome_ret_two {l : Load} (kind : j.kind = .ret) (two : j.step = .two) :
    x.takeOutcome i j l = if l = .bar then x.returnPickBar i j else x.returnPickMissing i j := by
  unfold State.takeOutcome
  simp only [kind, two]

theorem State.takeOutcome_ret_four {l : Load} (kind : j.kind = .ret) (four : j.step = .four) :
    x.takeOutcome i j l = x.returnPlace i j := by
  unfold State.takeOutcome
  simp only [kind, four]

theorem State.returnPickBar_eq (cradle : (x.account j.lathe).cradle = some c) :
    x.returnPickBar i j =
      (((x.lifted i j c.bar).unloaded j.lathe).chooseDestination i c.bar).afterOutcome i .three true := by
  unfold State.returnPickBar State.pickedRecord
  simp only [cradle]
  rfl

theorem State.returnPickMissing_eq (cradle : (x.account j.lathe).cradle = some c) :
    x.returnPickMissing i j =
      State.completeActive
        (((x.setLoad .none).post (event .cradleMissing (BitVec.ofNat 32 c.bar.id) (lathe := some j.lathe)
          (job := some j.id))).unloaded j.lathe) i .plain := by
  unfold State.returnPickMissing State.pickedRecord
  simp only [cradle]
  rfl

theorem State.unloaded_of_plain {u : State} {n : Lathe} (unwanted : ((u.bare n).account n).wantsCompare = false)
    (away : (u.account n).state ≠ .await) : u.unloaded n = (u.bare n).evalHold n := by
  rw [State.unloaded, State.emptyCradle_of_plain unwanted away]

/-- In IDLE and STOPPED an emptied cradle is the account's own matter (R26). -/
theorem State.unloaded_frame {u : State} {n : Lathe}
    (rests : (u.account n).state = .idle ∨ (u.account n).state = .stopped) :
    u.unloaded n =
      { u with
        accounts := (u.unloaded n).accounts, lines := (u.unloaded n).lines, ports := (u.unloaded n).ports } := by
  have unwanted : ((u.bare n).account n).wantsCompare = false := by
    rw [u.bare_account]
    rcases rests with h | h <;> simp [Account.wantsCompare, h]
  have away : (u.account n).state ≠ .await := by
    rcases rests with h | h <;> simp [h]
  rw [State.unloaded_of_plain unwanted away]
  exact ((u.bare n).evalHold_frame n).trans rfl

/-- A DELIVER job asked for lathe `n`, due at `due`, stands in the first empty slot of `u`. -/
def State.askedIn (u v : State) (n : Lathe) (due : Time) : Prop :=
  ∀ i2, u.emptySlot = some i2 → ∃ j2, v.job i2 = some j2 ∧ j2.kind = .deliver ∧ j2.lathe = n ∧
    j2.state = .waiting ∧ j2.step = .one ∧ j2.deadline = due ∧ j2.created = u.now

section Unloaded
variable {u : State} {n : Lathe} {due : Time}

/-- With a current bar in RUNNING or LOST an emptied cradle arms the compare (R26, R45). -/
theorem State.unloaded_armed (wants : ((u.bare n).account n).wantsCompare = true)
    (out : ({ u.account n with cradle := none } : Account).outAt u.now = some due) :
    (u.unloaded n).compareOf n = .written (due - BitVec.ofNat 32 u.params.lookahead) u.now ∧
      (atOrBefore (due - BitVec.ofNat 32 u.params.lookahead) u.now = false ∨ u.hasJob n .deliver = true ∨
          (u.account n).stockShort = true →
        (∀ i, (u.unloaded n).job i = u.job i) ∧ (u.unloaded n).events = u.events) ∧
      (atOrBefore (due - BitVec.ofNat 32 u.params.lookahead) u.now = true → u.hasJob n .deliver = false →
        (u.account n).stockShort = false → (u.account n).program.isSome = true → u.shuttleFree = false →
        u.sched.deferred = [] → u.askedIn (u.unloaded n) n due) := by
  have away : (u.account n).state ≠ .await := by
    have h := wantsCompare_not_await wants
    rw [u.bare_account] at h
    exact h
  have is : u.unloaded n = ((u.bare n).rearm n).evalHold n := by
    rw [State.unloaded, State.emptyCradle_of_wanted wants away]
  have beside := beside_bare n u
  have account := u.bare_account n
  have events : (u.bare n).events = u.events := rfl
  have out' : ((u.bare n).account n).outAt (u.bare n).now = some due := by rw [account]; exact out
  rw [is]
  generalize u.bare n = b at *
  have written := State.rearm_compareOf wants out'
  rw [beside.kept.params, beside.now] at written
  refine ⟨(State.evalHold_compareOf _ _ _).trans written, fun quiet => ?_,
    fun reached lacks stock program busy deferred i2 slot => ?_⟩
  · rw [State.rearm_of_quiet wants out' (by
      rw [beside.kept.params, beside.now, beside.hasJob, account]
      exact quiet)]
    refine ⟨fun i => ?_, ?_⟩
    · rw [State.evalHold_job, State.job, State.setCompare_sched, beside.sched, State.job]
    · rw [State.evalHold_events]
      exact events
  · obtain ⟨g, program⟩ := Option.isSome_iff_exists.1 program
    rw [State.evalHold_job, State.rearm_of_fired wants out' (by rw [beside.kept.params, beside.now]; exact reached)
      ((beside.hasJob n _).trans lacks) (by rw [account]; exact stock) (beside.shuttleFree.trans busy)]
    let w := b.setCompare n (.written (due - BitVec.ofNat 32 b.params.lookahead) b.now)
    have besides : Beside n u w := beside.trans (beside_setCompare n b _)
    obtain ⟨made, -⟩ := State.request_deliver_made (s := w) (n := n) (g := g)
      (show (b.account n).program = some g by rw [account]; exact program) ((besides.hasJob n _).trans lacks)
      (besides.emptySlot.trans slot) (by rw [besides.sched]; exact deferred)
    have bar : ((b.account n).current).isSome = true := by
      simp only [Account.wantsCompare, Bool.and_eq_true] at wants
      exact wants.1.2
    obtain ⟨c, current⟩ := Option.isSome_iff_exists.1 bar
    exact ⟨_, made, rfl, rfl, rfl, rfl, Account.deliverDeadline_of_out current out', besides.now⟩

/-- In AWAIT an emptied cradle asks for a bar (R12, R26). -/
theorem State.unloaded_awaiting (await : (u.account n).state = .await) :
    (u.unloaded n).compareOf n = u.compareOf n ∧
      (∀ d j, u.findJob n .deliver = some d → u.job d = some j →
        (u.unloaded n).job d = some { j with deadline := (u.account n).awaitEntry.read u.now } ∧
          (u.unloaded n).events = u.events) ∧
      (u.findJob n .deliver = none → (u.account n).stockShort = true → ∀ i, (u.unloaded n).job i = u.job i) ∧
      (u.findJob n .deliver = none → (u.account n).stockShort = false → (u.account n).current = none →
        (u.account n).program.isSome = true → u.shuttleFree = false → u.sched.deferred = [] →
        u.askedIn (u.unloaded n) n ((u.account n).awaitEntry.read u.now)) := by
  have is : u.unloaded n = ((u.bare n).wantBar n).evalHold n := by
    rw [State.unloaded, State.emptyCradle_of_await await]
  have beside := beside_bare n u
  have account := u.bare_account n
  have events : (u.bare n).events = u.events := rfl
  have compare : (u.bare n).compareOf n = u.compareOf n := rfl
  rw [is]
  generalize u.bare n = b at *
  refine ⟨?_, fun d j has hj => ?_, fun lacks short i => ?_, fun lacks stock barless program busy deferred i2 slot => ?_⟩
  · rw [State.evalHold_compareOf, (SchedReach.keeps (sched_wantBar b n)).compares, compare]
  · rw [State.wantBar_of_has ((beside.findJob n .deliver).trans has), account, beside.now]
    refine ⟨(State.evalHold_job _ _ _).trans (State.setDeadline_job_self ((beside.job d).trans hj)), ?_⟩
    rw [State.evalHold_events]
    exact events
  · rw [State.wantBar_of_short ((beside.findJob n .deliver).trans lacks) (by rw [account]; exact short),
      State.evalHold_job, beside.job]
  · obtain ⟨g, program⟩ := Option.isSome_iff_exists.1 program
    rw [State.evalHold_job, State.wantBar_of_busy ((beside.findJob n .deliver).trans lacks) (by rw [account]; exact stock)
      (beside.shuttleFree.trans busy)]
    obtain ⟨made, -⟩ := State.request_deliver_made (s := b) (n := n) (g := g) (by rw [account]; exact program)
      (State.hasJob_of_findJob ((beside.findJob n .deliver).trans lacks)) (beside.emptySlot.trans slot)
      (by rw [beside.sched]; exact deferred)
    refine ⟨_, made, rfl, rfl, rfl, rfl, ?_, beside.now⟩
    change (b.account n).deliverDeadline b.now = _
    rw [account, beside.now]
    exact Account.deliverDeadline_of_empty barless

end Unloaded

/-- The bar of a RETURN taken and sent on its way. -/
structure Picked (x : State) (i : Slot) (j : Job) (c : CradleBar) (t : State) : Prop where
  busy : (x.lifted i j c.bar).shuttleFree = false
  emptied : CradleEmptied (x.lifted i j c.bar) j.lathe i { j with bar := some c.bar }
    ((x.lifted i j c.bar).unloaded j.lathe)
  way : OnItsWay ((x.lifted i j c.bar).unloaded j.lathe) i { j with bar := some c.bar } c.bar t

theorem picked (active : x.active = some (i, j)) (kind : j.kind = .ret) (unmarked : j.cancel = .none)
    (stepping : x.shuttle.state = .stepping) (runs : x.shuttle.haltPending = false)
    (cradle : (x.account j.lathe).cradle = some c) : Picked x i j c (x.returnPickBar i j) := by
  rw [State.returnPickBar_eq cradle]
  obtain ⟨isActive, -⟩ := State.active_eq_some.1 active
  have busy : (x.lifted i j c.bar).shuttleFree = false := State.shuttleFree_of_state (by
    change x.shuttle.state ≠ .idle
    rw [stepping]
    decide)
  have emptied : CradleEmptied (x.lifted i j c.bar) j.lathe i { j with bar := some c.bar }
      ((x.lifted i j c.bar).unloaded j.lathe) :=
    cradleEmptied busy (State.setSlot_job_self _ _ _) kind
  refine ⟨busy, emptied, onItsWay (State.active_eq_some.2 ⟨?_, emptied.job⟩) kind unmarked ?_ ?_⟩
  · rw [emptied.seq]
    exact isActive
  · rw [emptied.shuttle]
    exact fun h => by cases h
  · rw [emptied.shuttle]
    exact runs

/-- What a RETURN's PICK with its bar sensed leaves, seen from the state before the command: `v` is the state with the
cradle emptied. -/
structure PickedFrom (s : State) (w : Word) (i : Slot) (j : Job) (c : CradleBar) (v t : State) : Prop where
  account : t.account j.lathe =
    { ({ s.account j.lathe with cradle := none } : Account) with
      holdSet := ({ s.account j.lathe with cradle := none } : Account).reasons }
  accounts : ∀ m, m ≠ j.lathe → t.account m = s.account m
  job : t.job i = some
    { j with
      bar := some c.bar, step := .three
      lane := if homeFit (s.lane c.bar.home) c.bar then some c.bar.home else none }
  others : ∀ i', i' ≠ i → t.job i' = v.job i'
  lanes : ∀ k, t.lane k =
    if homeFit (s.lane c.bar.home) c.bar ∧ k = c.bar.home then { v.lane k with reserved := 1 } else v.lane k
  sameLanes : SameLanes s v
  shuttle : t.shuttle = (s.shuttle.ended w .bar).issued .move
    (if homeFit (s.lane c.bar.home) c.bar then .lane c.bar.home else .reject) .slow
  order : t.seq.order = some ⟨.move, if homeFit (s.lane c.bar.home) c.bar then .lane c.bar.home else .reject⟩
  phase : t.seq.phase = .outstanding
  timer : t.timer.stepTimer = .running s.params.stepLimitMove
  compares : ∀ n, t.compareOf n = v.compareOf n
  events : t.events = v.events
  kept : Kept s t

theorem Picked.from {s t : State} {w : Word} (p : Picked (s.orderEnded w) i j c t) :
    PickedFrom s w i j c (((s.orderEnded w).lifted i j c.bar).unloaded j.lathe) t := by
  obtain ⟨u, isU⟩ : ∃ u, (s.orderEnded w).lifted i j c.bar = u := ⟨_, rfl⟩
  have way := p.way
  have emptied := p.emptied
  rw [isU] at way emptied ⊢
  generalize u.unloaded j.lathe = v at *
  have account (n : Lathe) : u.account n = s.account n := isU ▸ rfl
  have lane (k : LaneNo) : u.lane k = s.lane k := isU ▸ rfl
  have shuttle : v.shuttle = s.shuttle.ended w .bar := emptied.shuttle.trans (isU ▸ rfl)
  have start : Kept s u := isU ▸ ⟨rfl, rfl, rfl, rfl, rfl, rfl, rfl, rfl, rfl, rfl⟩
  have kept : Kept s v := start.trans emptied.kept
  have same : SameLanes s v := fun k => by
    obtain ⟨q, h⟩ := emptied.lanes k
    exact ⟨q, by rw [h, lane]⟩
  have fits : homeFit (v.lane c.bar.home) c.bar ↔ homeFit (s.lane c.bar.home) c.bar := by
    obtain ⟨q, h⟩ := same c.bar.home
    exact homeFit_congr h c.bar
  have accounts (n : Lathe) : t.account n = v.account n := by rw [State.account, way.accounts, State.account]
  have job := way.job
  have sent := way.shuttle
  have order := way.order
  have lanes := way.lanes
  simp only [fits] at job sent order lanes
  rw [shuttle] at sent
  refine ⟨?_, fun m other => ?_, job, way.others, lanes, same, sent, order, way.phase, ?_, fun n => ?_, way.events,
    kept.trans way.kept⟩
  · rw [accounts, emptied.account, account]
  · rw [accounts, emptied.accounts m other, account]
  · rw [way.timer, kept.params]
  · rw [State.compareOf, way.timer]
    rfl

/-- What the bar on the shuttle leaves of the state before the command, but for the load and the RETURN itself. -/
structure Lifted (s : State) (i : Slot) (u : State) : Prop where
  accounts : u.accounts = s.accounts
  rack : u.rack = s.rack
  others : ∀ i', i' ≠ i → u.job i' = s.job i'
  events : u.events = s.events
  compares : u.timer.compare = s.timer.compare
  slot : u.emptySlot = s.emptySlot
  found : ∀ n, u.findJob n .deliver = s.findJob n .deliver
  deferred : u.sched.deferred = []
  kept : Kept s u

theorem State.findJob_of_sched {s t : State} (same : t.sched = s.sched) (n : Lathe) (k : JobKind) :
    t.findJob n k = s.findJob n k := by
  have isJobOf : t.isJobOf n k = s.isJobOf n k := by
    funext i
    rw [State.isJobOf, State.isJobOf, State.job, same, State.job]
  rw [State.findJob, isJobOf, State.findJob]

theorem lifted_orderEnded {s : State} (w : Word) (hj : (s.orderEnded w).job i = some j) (kind : j.kind = .ret)
    (deferred : s.sched.deferred = []) (b : BarRecord) : Lifted s i ((s.orderEnded w).lifted i j b) := by
  have notDeliver {b' : Option BarRecord} : ({ j with bar := b' } : Job).kind ≠ .deliver := by
    rw [show ({ j with bar := b' } : Job).kind = .ret from kind]
    decide
  obtain ⟨y, isY⟩ : ∃ y, (s.orderEnded w).setLoad .bar = y := ⟨_, rfl⟩
  have sched : y.sched = s.sched := isY ▸ rfl
  have filled : y.job i = some j := isY ▸ hj
  have is : (s.orderEnded w).lifted i j b = y.setSlot i (some { j with bar := some b }) := isY ▸ rfl
  rw [is]
  refine ⟨isY ▸ rfl, isY ▸ rfl, fun i' other => (State.setSlot_job_ne _ _ _ _ (Ne.symm other)).trans (by rw [State.job, sched, State.job]),
    isY ▸ rfl, isY ▸ rfl, (State.emptySlot_setSlot filled _).trans ?_, fun n => ?_, ?_,
    isY ▸ ⟨rfl, rfl, rfl, rfl, rfl, rfl, rfl, rfl, rfl, rfl⟩⟩
  · simp only [State.emptySlot, State.job, sched]
  · refine (State.findJob_of_written n (fun j' hj' => ?_) (fun j' hj' => ?_) rfl).trans (State.findJob_of_sched sched n _)
    · cases filled.symm.trans hj'
      exact notDeliver (b' := j.bar)
    · cases hj'
      exact notDeliver
  · change y.sched.deferred = []
    rw [sched, deferred]

end Pick

/-! ### The PLACE of a RETURN (R85, R86, R136) -/

/-- The rack once a RETURN has placed its bar `b`: at the front of its lane, or in the reject rack. -/
def State.rackWith (s : State) (j : Job) (b : BarRecord) : Rack :=
  match j.lane with
  | some k =>
    (s.setLane k { s.lane k with bars := { b with returned := true } :: (s.lane k).bars, reserved := 0 }).rack
  | none => { s.rack with reject := s.rack.reject + 1 }

/-- On a closed lane no stock is gained by a bar returned. -/
theorem State.returnPlace_eq {x : State} {i : Slot} {j : Job} {b : BarRecord} (bar : j.bar = some b)
    (closed : ∀ k, j.lane = some k → (x.lane k).isOpen = false) :
    x.returnPlace i j = ((x.barGone i j).setRack (x.rackWith j b)).completeActive i .plain := by
  obtain ⟨y, is⟩ : ∃ y, x.barGone i j = y := ⟨_, rfl⟩
  have rack : y.rack = x.rack := is ▸ rfl
  unfold State.returnPlace
  simp only [bar]
  rw [show (x.setLoad .none).setSlot i (some { j with bar := none }) = y from is, is]
  unfold State.rackWith
  cases lane : j.lane with
  | none => rw [State.rejectBar, rack]
  | some k =>
    simp only
    rw [State.stockGain_of_closed (by rw [State.setLane_lane_self, State.lane, rack]; exact closed k lane),
      State.setLane, State.lane, rack]
    rfl

theorem State.rackWith_spec (s : State) (j : Job) (b : BarRecord) :
    (∀ k, (s.rackWith j b).lanes.read k =
      if j.lane = some k then
        { s.lane k with bars := { b with returned := true } :: (s.lane k).bars, reserved := 0 }
      else s.lane k) ∧
    (s.rackWith j b).reject = (if j.lane = none then s.rack.reject + 1 else s.rack.reject) := by
  unfold State.rackWith
  cases lane : j.lane with
  | none => exact ⟨fun k => rfl, rfl⟩
  | some h =>
    refine ⟨fun k => ?_, rfl⟩
    refine (Bank.read_write _ _ _ _).trans ?_
    by_cases here : h = k
    · subst here
      rw [if_pos rfl, if_pos rfl]
    · rw [if_neg here, if_neg fun same => here (Option.some.inj same)]
      rfl

/-- Settles O53: the checks of PICK and PLACE, the bar taken or missed at the cradle, and the bar placed. -/
theorem returnPlacesBarAtFront : Obligations.ReturnPlacesBarAtFront := by
  intro s o w i j done active kind stepping runs deferred others ends
  obtain ⟨out, held, step, other⟩ := done
  have run := exec_orderComplete out held other
  obtain ⟨x, is⟩ : ∃ x, s.orderEnded w = x := ⟨_, rfl⟩
  have start : Outcome s x := is ▸ outcome_orderEnded s w
  have active' : x.active = some (i, j) := is ▸ active
  have hj : x.job i = some j := (State.active_eq_some.1 active').2
  have account (n : Lathe) : x.account n = s.account n := is ▸ rfl
  have jobs (i' : Slot) : x.job i' = s.job i' := is ▸ rfl
  have lanes (k : LaneNo) : x.lane k = s.lane k := is ▸ rfl
  have events : x.events = s.events := is ▸ rfl
  have now : x.now = s.now := is ▸ rfl
  have params : x.params = s.params := is ▸ rfl
  have accepted {l : Load} (sensed : sensedLoad w = l) (accepts : j.accepts l = true) :
      exec .orderComplete s = .next (x.takeOutcome i j l) := by
    rw [run, is, State.handOn_of_accepted step active' (sensed ▸ accepts), sensed]
  have lifted (c : CradleBar) (two : j.step = .two) (cradle : (s.account j.lathe).cradle = some c)
      (sensed : sensedLoad w = .bar) (unmarked : j.cancel = .none) : ∃ u t,
      exec .orderComplete s = .next t ∧ x.lifted i j c.bar = u ∧ Picked x i j c t ∧
        PickedFrom s w i j c (u.unloaded j.lathe) t := by
    have p := picked active' kind unmarked (is ▸ stepping) (is ▸ runs) ((account j.lathe).symm ▸ cradle)
    have goes := accepted sensed (by simp [Job.accepts, kind, two])
    rw [State.takeOutcome_ret_two kind two, if_pos rfl] at goes
    exact ⟨_, _, goes, rfl, p, by subst is; exact p.from⟩
  have liftedIs {c : CradleBar} {u : State} (isU : x.lifted i j c.bar = u) : Lifted s i u := by
    subst is isU
    exact lifted_orderEnded w hj kind deferred c.bar
  refine ⟨?_, ?_, fun one sensed unmarked => ⟨fun c cradle free => ?_, fun nothing away => ?_⟩,
    fun three sensed unmarked room => ?_, fun b four bar sensed closed => ?_⟩
  · intro c two cradle rests a emptied fit place
    refine ⟨fun sensed unmarked => ?_, fun sensed room => ?_⟩
    · obtain ⟨u, t, goes, isU, -, f⟩ := lifted c two cradle sensed unmarked
      have l := liftedIs isU
      have frame := State.unloaded_frame (u := u) (n := j.lathe) (by rw [State.account, l.accounts]; exact rests)
      generalize u.unloaded j.lathe = v at *
      refine ⟨t, goes, ⟨f.account, f.accounts⟩, f.job, fun i' other => ?_, fun k => ?_, f.shuttle, f.order, f.phase, f.timer,
        ?_, f.kept⟩
      · rw [f.others i' other, frame]
        exact l.others i' other
      · have lane : v.lane k = s.lane k := by
          rw [frame]
          change u.rack.lanes.read k = _
          rw [l.rack]
          rfl
        rw [f.lanes, lane]
      · rw [f.events, frame]
        exact l.events
    · have goes := accepted sensed (by simp [Job.accepts, kind, two])
      rw [State.takeOutcome_ret_two kind two, if_neg (by decide), State.returnPickMissing_eq (by rw [account]; exact cradle)]
        at goes
      obtain ⟨e, isE⟩ : ∃ e, event .cradleMissing (BitVec.ofNat 32 c.bar.id) (lathe := some j.lathe)
        (job := some j.id) = e := ⟨_, rfl⟩
      rw [isE] at goes
      obtain ⟨y, isY⟩ : ∃ y, (x.setLoad .none).post e = y := ⟨_, rfl⟩
      rw [isY] at goes
      have frame := (x.setLoad .none).post_frame e
      have records := State.post_records (s := x.setLoad .none) e (by rw [← is]; exact room)
      rw [isY] at frame records
      have busy : y.shuttleFree = false := State.shuttleFree_of_state (by
        rw [frame, ← is]
        change s.shuttle.state ≠ .idle
        rw [stepping]
        decide)
      have ownJob : y.job i = some j := by rw [frame]; exact hj
      have accountY (n : Lathe) : y.account n = s.account n := by rw [frame]; exact account n
      have emptied := cradleEmptied (n := j.lathe) busy ownJob kind
      have frameZ := State.unloaded_frame (u := y) (n := j.lathe) (by rw [accountY]; exact rests)
      change CradleEmptied y j.lathe i j (y.unloaded j.lathe) at emptied
      generalize y.unloaded j.lathe = z at *
      have shuttle : z.shuttle = s.shuttle.ended w .none := by
        rw [frameZ, frame, ← is]
        rfl
      have sched : z.sched = s.sched := by
        rw [frameZ, frame, ← is]
        rfl
      have read (i' : Slot) : z.job i' = s.job i' := by rw [State.job, sched, State.job]
      rw [State.completeActive_ret emptied.job kind (by rw [shuttle]; exact stepping) (by rw [shuttle]; exact runs)
        (by rw [sched]; exact deferred) ⟨by rw [sched]; exact others.1, fun i' j' other hj' =>
          others.2 i' j' other ((read i').symm.trans hj')⟩, shuttle] at goes
      have start : Kept s y := by
        rw [frame, ← is]
        exact ⟨rfl, rfl, rfl, rfl, rfl, rfl, rfl, rfl, rfl, rfl⟩
      refine ⟨_, goes, ⟨?_, fun n other => ?_⟩, ⟨Bank.read_write_self _ _ _, fun i' other => ?_, rfl, rfl, ?_, ?_⟩, ?_, ?_⟩
      · refine emptied.account.trans ?_
        rw [accountY]
      · exact (emptied.accounts n other).trans (accountY n)
      · exact (Bank.read_write_ne _ _ _ _ (Ne.symm other)).trans (read i')
      · refine emptied.bins.trans ?_
        rw [frame, ← is]
        rfl
      · exact (start.trans emptied.kept).trans ⟨rfl, rfl, rfl, rfl, rfl, rfl, rfl, rfl, rfl, rfl⟩
      · change z.rack = _
        rw [frameZ, frame, ← is]
        rfl
      · change z.events.records = _
        rw [frameZ]
        refine records.trans ?_
        rw [← is, ← isE]
        rfl
  · intro c two cradle sensed unmarked n a fit place asked picked
    obtain ⟨u, t, goes, isU, p, f⟩ := lifted c two cradle sensed unmarked
    have l := liftedIs isU
    have busy := p.busy
    rw [isU] at busy
    have ownIs : u.account n = s.account n := by rw [State.account, l.accounts, State.account]
    have nowIs : u.now = s.now := l.kept.now
    have isPicked : picked t := by
      refine ⟨f.account, f.accounts, f.job, fun k => ?_, f.shuttle, f.order, f.phase, f.kept⟩
      obtain ⟨q, same⟩ := f.sameLanes k
      rw [f.lanes, same]
      by_cases here : homeFit (s.lane c.bar.home) c.bar ∧ k = c.bar.home
      · rw [if_pos here, if_pos here]
        exact ⟨rfl, rfl⟩
      · rw [if_neg here, if_neg here]
        exact ⟨rfl, rfl⟩
    have isAsked {due : Time} (made : u.askedIn (u.unloaded n) n due) : asked t due := fun i2 slot => by
      obtain ⟨j2, hj2, facts⟩ := made i2 (l.slot.trans slot)
      have apart : i2 ≠ i := by
        intro same
        have empty := State.emptySlot_spec slot
        rw [same, ← jobs, hj] at empty
        cases empty
      rw [nowIs] at facts
      exact ⟨j2, (f.others i2 apart).trans hj2, facts⟩
    refine ⟨?_, fun await barless program => ?_⟩
    · intro cur held' left cyc state current out left' cycle program due value
      have wants : ((u.bare n).account n).wantsCompare = true := by
        rw [u.bare_account, ownIs]
        have isState : (s.account n).state = .running ∨ (s.account n).state = .lost := state
        have isCurrent : (s.account n).current = some cur := current
        simpa [Account.wantsCompare, isCurrent] using isState
      obtain ⟨compare, quiet, fired⟩ := State.unloaded_armed (u := u) (n := n) (due := due) wants (by
        rw [ownIs, nowIs]
        exact Account.outAt_used out left' cycle)
      rw [nowIs, l.kept.params, ownIs] at quiet fired
      rw [nowIs, l.kept.params] at compare
      refine ⟨t, goes, isPicked, (f.compares n).trans compare, fun still => ?_, fun reached stock lacks =>
        isAsked (fired reached ?_ stock program busy l.deferred)⟩
      · have calm := quiet (still.imp id fun h => h.symm.imp (fun has => by rw [State.hasJob, l.found]; exact has) id)
        exact ⟨fun i' other => (f.others i' other).trans ((calm.1 i').trans (l.others i' other)),
          f.events.trans (calm.2.trans l.events)⟩
      · rw [State.hasJob, l.found]
        exact lacks
    · obtain ⟨compare, has, short, asks⟩ := State.unloaded_awaiting (u := u) (n := n) (by rw [ownIs]; exact await)
      rw [ownIs, nowIs] at has asks
      rw [ownIs] at short
      refine ⟨t, goes, isPicked, ?_, fun d j2 found hj2 => ?_, fun lacks stock i' other => ?_, fun lacks stock =>
        isAsked (asks ((l.found n).trans lacks) stock barless program busy l.deferred)⟩
      · rw [f.compares, compare, State.compareOf, l.compares, State.compareOf]
      · have apart : d ≠ i := by
          intro same
          obtain ⟨j3, hj3, -, kind3⟩ := State.findJob_spec found
          rw [same, ← jobs, hj] at hj3
          cases hj3
          cases kind.symm.trans kind3
        obtain ⟨job, events'⟩ := has d j2 ((l.found n).trans found) ((l.others d apart).trans hj2)
        exact ⟨(f.others d apart).trans job, f.events.trans (events'.trans l.events)⟩
      · exact (f.others i' other).trans ((short ((l.found n).trans lacks) stock i').trans (l.others i' other))
  · exact stepTaken_of_move ⟨out, held, step, other⟩ active unmarked sensed (by simp [Job.accepts, kind, one])
      (.inl ⟨one, rfl⟩) runs (.inr others.2) (by simp [State.nothingToPick, cradle, free]) (by simp [Job.order, kind])
      (by rintro (h | h) <;> cases h)
  · have goes := accepted sensed (by simp [Job.accepts, kind, one])
    obtain ⟨y, isY⟩ : ∃ y, (x.setLoad .none).setSlot i (some { j with step := .two }) = y := ⟨_, rfl⟩
    have shuttle : y.shuttle = s.shuttle.ended w .none := by
      rw [← isY, ← is]
      rfl
    have own : y.job i = some { j with step := .two } := isY ▸ State.setSlot_job_self _ _ _
    have activeY : y.active = some (i, { j with step := .two }) := State.active_eq_some.2
      ⟨by rw [← isY]; exact (State.active_eq_some.1 active').1, own⟩
    have read (i' : Slot) (other : i' ≠ i) : y.job i' = s.job i' := by
      rw [← isY]
      exact (State.setSlot_job_ne _ _ _ _ (Ne.symm other)).trans (jobs i')
    have idle (i' : Slot) (j' : Job) (other : i' ≠ i) (hj' : y.job i' = some j') : j'.eligible = false :=
      others.2 i' j' other ((read i' other).symm.trans hj')
    have accountY (n : Lathe) : y.account n = s.account n := by
      rw [← isY]
      exact account n
    have stackY : y.sched.stack = [] := by
      rw [← isY, ← is]
      exact others.1
    have picksNothing : y.nothingToPick { j with step := .two } = true :=
      (y.nothingToPick_iff _).2 ⟨kind, rfl, fun c held => nothing c (by rw [← accountY]; exact held)⟩
    rw [State.takeOutcome_of_one one, State.afterOutcome_goesOn (s := x.setLoad .none) hj (.inl unmarked), isY,
      State.goOn_of_runs (by rw [shuttle]; exact runs), State.crossBoundary_of_calm activeY
        (.inr (State.preemptor_of_alone own idle)),
      State.takeUp_of_nothing activeY picksNothing (by rw [accountY]; exact away) (by rw [shuttle]; exact runs)
        (by rw [← isY, ← is]; exact deferred) ⟨stackY, idle⟩, shuttle] at goes
    refine ⟨_, goes, ⟨Bank.read_write_self _ _ _, fun i' other =>
      (Bank.read_write_ne _ _ _ _ (Ne.symm other)).trans (read i' other), rfl, rfl, ?_, ?_⟩, ?_, ?_, ?_, ?_⟩
    all_goals
      rw [← isY, ← is]
    · rfl
    · exact ⟨rfl, rfl, rfl, rfl, rfl, rfl, rfl, rfl, rfl, rfl⟩
    all_goals rfl
  · exact stepTaken_of_move ⟨out, held, step, other⟩ active unmarked sensed (by simp [Job.accepts, kind, three])
      (.inr ⟨three, rfl⟩) runs (.inl (by decide)) (State.nothingToPick_eq_false (.inr (by simp)))
      (by cases lane : j.lane <;> simp [Job.order, kind, Job.destination]) fun _ => room
  · have goes := accepted sensed (by simp [Job.accepts, kind, four])
    rw [State.takeOutcome_ret_four kind four] at goes
    rw [State.returnPlace_eq bar (by intro k lane; rw [lanes]; exact closed k lane)] at goes
    obtain ⟨y, isY⟩ : ∃ y, (x.barGone i j).setRack (x.rackWith j b) = y := ⟨_, rfl⟩
    have shuttle : y.shuttle = s.shuttle.ended w .none := by
      rw [← isY, ← is]
      rfl
    have own : y.job i = some { j with bar := none } := isY ▸ State.setSlot_job_self _ _ _
    have read (i' : Slot) (other : i' ≠ i) : y.job i' = s.job i' := by
      rw [← isY]
      exact (State.setSlot_job_ne _ _ _ _ (Ne.symm other)).trans (jobs i')
    have planned : y.sched.stack = [] ∧ y.sched.deferred = [] := by
      rw [← isY, ← is]
      exact ⟨others.1, deferred⟩
    rw [isY, State.completeActive_ret own kind (by rw [shuttle]; exact stepping) (by rw [shuttle]; exact runs) planned.2
      ⟨planned.1, fun i' j' other hj' => others.2 i' j' other ((read i' other).symm.trans hj')⟩, shuttle] at goes
    obtain ⟨isLanes, isReject⟩ := x.rackWith_spec j b
    have rack : y.rack = x.rackWith j b := isY ▸ rfl
    refine ⟨_, goes, ⟨Bank.read_write_self _ _ _, fun i' other =>
      (Bank.read_write_ne _ _ _ _ (Ne.symm other)).trans (read i' other), rfl, rfl, ?_, ?_⟩, fun k => ?_, ?_, ?_, ?_, ?_⟩
    · rw [← isY, ← is]
      rfl
    · rw [← isY, ← is]
      exact ⟨rfl, rfl, rfl, rfl, rfl, rfl, rfl, rfl, rfl, rfl⟩
    · change y.rack.lanes.read k = _
      rw [rack, isLanes, lanes]
    · change y.rack.reject = _
      rw [rack, isReject, ← is]
      rfl
    all_goals
      rw [← isY, ← is]
      rfl

end Sys2Proof.Machine

/-! PROOFS. JOB CANCEL (R108 to R110, R114, R116): the job that leaves its slot, the deferred list that its slot serves,
and the lathe that a leaving RETURN job frees. -/
namespace Sys2Proof.Machine

open Sys2Proof

/-! ### The lathe a RETURN job leaves (R12) -/

section Departs
variable {u : State} {n : Lathe}

theorem State.enterNoStock_stack (s : State) (i : Slot) : (s.enterNoStock i).sched.stack = s.sched.stack := by
  unfold State.enterNoStock
  split
  · rfl
  · rw [State.post_sched]
    rfl

/-- A request for a DELIVER job leaves the suspension stack. -/
theorem State.request_deliver_stack (s : State) (n : Lathe) : (s.request n .deliver).sched.stack = s.sched.stack := by
  have defers : (s.defer n .deliver).sched.stack = s.sched.stack := by
    unfold State.defer
    split <;> rfl
  unfold State.request State.createIn
  split
  · rfl
  · split
    · exact defers
    · split
      · dsimp only
        split
        · rfl
        · split
          · rfl
          · exact State.enterNoStock_stack _ _
      · exact defers

theorem State.wantBar_stack (busy : u.shuttleFree = false) : (u.wantBar n).sched.stack = u.sched.stack := by
  cases has : u.findJob n .deliver with
  | some i =>
    rw [State.wantBar_of_has has]
    rfl
  | none =>
    cases stock : (u.account n).stockShort with
    | true => rw [State.wantBar_of_short has stock]
    | false =>
      rw [State.wantBar_of_busy has stock busy]
      exact u.request_deliver_stack n

/-- What the departure of its one RETURN job does for lathe `n`, with the shuttle not free. -/
structure Departs (u : State) (n : Lathe) (t : State) : Prop where
  stack : t.sched.stack = u.sched.stack
  seq : t.seq = u.seq
  shuttle : t.shuttle = u.shuttle
  bins : t.bins = u.bins
  kept : Kept u t
  accounts : ∀ k, k ≠ n → t.account k = u.account k
  stays : (u.account n).state ≠ .await ∨ (u.account n).cradle.isSome = true → t.sched = u.sched ∧ t.rack = u.rack
  away : (u.account n).state ≠ .await → t.account n = u.account n ∧ t.events = u.events
  wants : (u.account n).state = .await → (u.account n).cradle = none →
    t.account n = { u.account n with holdSet := (u.account n).reasons } ∧
      (∀ d j, u.findJob n .deliver = some d → u.job d = some j →
        t.job d = some { j with deadline := (u.account n).awaitEntry.read u.now } ∧
          (∀ i, i ≠ d → t.job i = u.job i) ∧ t.rack = u.rack ∧ t.events = u.events) ∧
      (u.findJob n .deliver = none → (u.account n).stockShort = true → t.sched = u.sched) ∧
      (u.findJob n .deliver = none → (u.account n).stockShort = false → (u.account n).current = none →
        (u.account n).program.isSome = true → u.askedIn t n ((u.account n).awaitEntry.read u.now)) ∧
      ∀ i, u.findJob n .deliver ≠ some i → u.job i ≠ none → t.job i = u.job i
  loads : ∀ c, (u.account n).state = .await → (u.account n).cradle = some c →
    t.account n =
        { ({ u.account n with
              state := .loading, cradle := some { c with loading := true }
              loadTimer := .running u.params.loadLimit } : Account) with
          holdSet := ({ u.account n with
            state := .loading, cradle := some { c with loading := true }
            loadTimer := .running u.params.loadLimit } : Account).reasons } ∧
      t.events.records = u.events.records ++
        [⟨.latheState, u.now, some n, none, none, none, latheStateValue .loading (u.account n).resume .await⟩] ∧
      loadGoMsg c.bar ∈ (t.port (lathePort n)).queue

theorem departs (busy : u.shuttleFree = false) (deferred : u.sched.deferred = []) (free : u.hasJob n .ret = false)
    (room : u.events.records.length < 64) : Departs u n (u.returnDeparted n) := by
  by_cases await : (u.account n).state = .await
  · have acts : u.returnDeparted n = (u.actOnCradle n).evalHold n := if_pos await
    have inAwait : (u.account n).state ≠ .loading := by
      rw [await]
      decide
    cases cradle : (u.account n).cradle with
    | some c =>
      rw [acts, State.actOnCradle_of_free cradle free]
      obtain ⟨l, isL⟩ : ∃ l, (u.goTo n .loading).loadingGone n c = l := ⟨_, rfl⟩
      have beside : Beside n u l := isL ▸ (beside_goTo n u _).trans (beside_setAccount n _ _)
      have account : l.account n =
          { u.account n with
            state := .loading, cradle := some { c with loading := true }
            loadTimer := .running u.params.loadLimit } := by
        rw [← isL, State.loadingGone, State.setAccount_account_self, State.goTo_account_self, State.goTo_params]
      have records := State.goTo_records u n .loading inAwait room
      have events : l.events = (u.goTo n .loading).events := isL ▸ rfl
      rw [await, ← events] at records
      rw [isL]
      have besides := beside.trans ((beside_notice n n l (loadGoMsg c.bar)).trans (beside_evalHold n _))
      refine ⟨by rw [besides.sched], besides.seq, besides.shuttle, besides.bins, besides.kept, besides.accounts,
        fun _ => ⟨besides.sched, besides.rack⟩, fun h => absurd await h, fun _ h => ?_, fun c' _ h => ?_⟩
      · rw [cradle] at h
        cases h
      · rw [cradle] at h
        cases h
        refine ⟨?_, ?_, mem_evalHold_queue (by simp [loadGoMsg]) ?_⟩
        · rw [State.evalHold_account_self, State.notice_account, account]
        · rw [State.evalHold_events, State.notice_events]
          exact records
        · rw [State.notice_port_self]
          exact List.mem_append_right _ List.mem_cons_self
    | none =>
      have stands : u.goTo n .await = u := if_pos await
      have wants : u.returnDeparted n = (u.wantBar n).evalHold n := by
        rw [acts]
        unfold State.actOnCradle
        rw [cradle]
        simp only
        rw [stands]
      have keeps := PlanReach.keeps (plan_wantBar_of_busy (n := n) busy)
      have beside := beside_evalHold n (u.wantBar n)
      rw [wants]
      refine ⟨by rw [beside.sched, State.wantBar_stack busy], by rw [beside.seq, keeps.seq],
        by rw [beside.shuttle, keeps.shuttle], by rw [beside.bins, keeps.bins], keeps.kept.trans beside.kept,
        fun k other => by rw [beside.accounts k other, keeps.account], fun h => ?_, fun h => absurd await h,
        fun _ _ => ⟨?_, fun d j has hj => ?_, fun lacks short => ?_,
          fun lacks stock barless program i2 slot => ?_, fun i other filled => ?_⟩, fun c _ h => ?_⟩
      · rcases h with h | h
        · exact absurd await h
        · rw [cradle] at h
          cases h
      · rw [State.evalHold_account_self, keeps.account]
      · rw [State.wantBar_of_has has]
        refine ⟨(State.evalHold_job _ _ _).trans (State.setDeadline_job_self hj), fun i other =>
          (State.evalHold_job _ _ _).trans (State.setDeadline_job_ne (Ne.symm other)), ?_, ?_⟩
        · rw [State.evalHold_rack]
          rfl
        · rw [State.evalHold_events]
          rfl
      · rw [beside.sched, State.wantBar_of_short lacks short]
      · obtain ⟨g, program⟩ := Option.isSome_iff_exists.1 program
        obtain ⟨made, -⟩ := State.request_deliver_made program (State.hasJob_of_findJob lacks) slot deferred
        rw [State.wantBar_of_busy lacks stock busy, State.evalHold_job]
        exact ⟨_, made, rfl, rfl, rfl, rfl, Account.deliverDeadline_of_empty barless, rfl⟩
      · rw [State.evalHold_job]
        cases has : u.findJob n .deliver with
        | some d =>
          rw [State.wantBar_of_has has]
          exact State.setDeadline_job_ne fun same => other (by rw [has, same])
        | none =>
          obtain ⟨j, hj⟩ := Option.ne_none_iff_exists'.1 filled
          cases stock : (u.account n).stockShort with
          | true => rw [State.wantBar_of_short has stock]
          | false =>
            rw [State.wantBar_of_busy has stock busy, hj]
            exact State.request_job_of_some _ hj
      · rw [cradle] at h
        cases h
  · rw [State.returnDeparted_of_away await]
    exact ⟨rfl, rfl, rfl, rfl, Kept.refl u, fun _ _ => rfl, fun _ => ⟨rfl, rfl⟩, fun _ => ⟨rfl, rfl⟩,
      fun h => absurd h await, fun _ h => absurd h await⟩

end Departs

/-! ### The slot left (R80, R95, R108 to R110) -/

section Leaves
variable {s : State} {i : Slot} {j : Job}

theorem State.releaseClaim_rack (s : State) (j : Job) :
    (s.releaseClaim j).rack.reject = s.rack.reject ∧ (s.releaseClaim j).rack.lastBarId = s.rack.lastBarId := by
  unfold State.releaseClaim
  split <;> exact ⟨rfl, rfl⟩

/-- With no claim to release and the shuttle not free, a cancelled job leaves its slot to the deferred list. -/
theorem State.cancelIdle_of_unclaimed (hj : s.job i = some j) (claim : j.claim = false) (busy : s.shuttleFree = false) :
    s.cancelIdle i = ((s.vacate i).serveDeferred).departed j := by
  have keeps := PlanReach.keeps (plan_serveDeferred (s.vacate i))
  have busy' : (s.vacate i).serveDeferred.shuttleFree = false :=
    (State.shuttleFree_congr keeps.shuttle keeps.seq).trans busy
  have gain (u : State) : u.gainOfRelease j = u := by simp [State.gainOfRelease, claim]
  unfold State.cancelIdle
  simp only [hj, State.releaseClaim_of_none claim, State.dispatch_of_busy busy', gain]

/-- The same for an active job, in FAULT or HALTED with load NONE. -/
theorem State.removeActive_of_released (hj : s.job i = some j) (claim : j.claim = false)
    (deferred : s.sched.deferred = []) : s.removeActive i = ((s.removedFrom i j).departed j).dispatch := by
  have served : (s.removedFrom i j).serveDeferred = s.removedFrom i j :=
    State.serveDeferred_of_empty (by rw [State.removedFrom_frame]; exact deferred)
  have gain (u : State) : u.gainOfRelease j = u := by simp [State.gainOfRelease, claim]
  unfold State.removeActive
  rw [hj]
  simp only
  change ((((s.removedFrom i j).serveDeferred).gainOfRelease j).departed j).dispatch = _
  rw [served, gain]

end Leaves

theorem State.stopJobTimers_timer (s : State) :
    s.stopJobTimers.timer =
      { s.timer with
        guardWait := .stopped
        stepTimer := if s.shuttle.outstanding = none then .stopped else s.timer.stepTimer } := by
  unfold State.stopJobTimers
  cases out : s.shuttle.outstanding with
  | none =>
    simp only [State.setGuardWait, State.setTimer, out]
    rfl
  | some o =>
    simp only [State.setGuardWait, State.setTimer, out]
    rfl

/-- A deferred COLLECT request whose tray stands at the threshold fills the one empty slot (R93, R95). -/
theorem State.serveFrom_collect {s : State} {i : Slot} {n : Lathe} {g : Program} {rest : List (Lathe × JobKind)}
    {full : Time} (program : (s.account n).program = some g) (reached : g.threshold ≤ (s.account n).tray)
    (lacks : s.findJob n .collect = none) (slot : s.emptySlot = some i)
    (due : ((s.account n).fullAt s.now).getD s.now = full) :
    s.serveFrom ((n, .collect) :: rest) =
      s.setSched
        { s.sched with
          slots := s.sched.slots.write i (some
            { madeJob s.nextJobId .collect n s.now full with
              bin := some g.bin, block := gateOf (s.bin g.bin) g.capacity })
          lastJobId := s.nextJobId
          deferred := rest } := by
  have holds : s.deferredHolds n .collect = true := by
    simp [State.deferredHolds, program, reached, State.hasJob_of_findJob lacks]
  obtain ⟨c, isC⟩ : ∃ c, s.setSched { s.sched with deferred := rest } = c := ⟨_, rfl⟩
  have serves : s.serveFrom ((n, .collect) :: rest) = c.createIn i n .collect := by
    rw [State.serveFrom, if_pos holds, slot, ← isC]
  have sched := State.createIn_collect_sched (s := c) (full := full) i (by rw [← isC]; exact program)
    (by rw [← isC]; exact due)
  rw [serves, State.createIn_collect_frame, sched, ← isC]
  rfl

/-- A deferred request whose lathe has no program is dropped (R95). -/
theorem State.serveFrom_dropped {s : State} {n : Lathe} {k : JobKind} (program : (s.account n).program = none) :
    s.serveFrom [(n, k)] = s.setSched { s.sched with deferred := [] } := by
  have fails : ¬s.deferredHolds n k = true := by simp [State.deferredHolds, program]
  rw [State.serveFrom, if_neg fails, State.serveFrom]

/-- The state once a RETURN job has left slot `i`, its lathe still to act. -/
structure Vacated (s : State) (i : Slot) (j : Job) (u : State) : Prop where
  busy : u.shuttleFree = false
  sched : u.sched = { s.sched with slots := s.sched.slots.write i none, stack := s.sched.stack.erase i }
  seq : u.seq = if j.state = .active then .clear else s.seq
  rack : u.rack = s.rack
  shuttle : u.shuttle = s.shuttle
  bins : u.bins = s.bins
  accounts : u.accounts = s.accounts
  events : u.events = s.events
  kept : Kept s u

section Vacated
variable {s u : State} {i : Slot} {j : Job}

theorem Vacated.job (h : Vacated s i j u) (i' : Slot) : u.job i' = if i' = i then none else s.job i' := by
  rw [State.job, h.sched]
  refine (Bank.read_write _ _ _ _).trans ?_
  by_cases here : i = i'
  · rw [if_pos here, if_pos here.symm]
  · rw [if_neg here, if_neg (Ne.symm here)]
    rfl

theorem Vacated.account (h : Vacated s i j u) (n : Lathe) : u.account n = s.account n := by
  rw [State.account, h.accounts, State.account]

theorem Vacated.findJob (h : Vacated s i j u) {k : JobKind} (hj : s.job i = some j) (other : j.kind ≠ k) (n : Lathe) :
    u.findJob n k = s.findJob n k := by
  have written : (s.setSched u.sched).findJob n k = s.findJob n k := by
    refine State.findJob_of_written (x := none) n (fun j' hj' => ?_) (fun _ none' => by cases none') (by rw [h.sched])
    cases hj.symm.trans hj'
    exact other
  exact (State.findJob_of_sched (s := s.setSched u.sched) rfl n k).trans written

theorem Vacated.free (h : Vacated s i j u)
    (others : ∀ i' j', i' ≠ i → s.job i' = some j' → j'.lathe = j.lathe → j'.kind ≠ .ret) :
    u.hasJob j.lathe .ret = false :=
  State.hasJob_of_findJob (Option.eq_none_iff_forall_ne_some.2 fun i' has => by
    obtain ⟨j', hj', lathe, isRet⟩ := State.findJob_spec has
    rw [h.job] at hj'
    by_cases here : i' = i
    · rw [if_pos here] at hj'
      cases hj'
    · rw [if_neg here] at hj'
      exact others i' j' here hj' lathe isRet)

/-- The supervisor's reply comes before: it touches the ports alone. -/
theorem Vacated.of_answered {m : State} (frame : m = { s with ports := m.ports }) (h : Vacated m i j u) :
    Vacated s i j u := by
  rw [frame] at h
  exact ⟨h.busy, h.sched, h.seq, h.rack, h.shuttle, h.bins, h.accounts, h.events,
    h.kept.pending, h.kept.params, h.kept.guardSeen, h.kept.pins, h.kept.pointer, h.kept.now, h.kept.binary,
    h.kept.decimal, h.kept.sel, h.kept.capture⟩

theorem vacated_idle (idle : j.state ≠ .active) (busy : s.shuttleFree = false) : Vacated s i j (s.vacate i) :=
  ⟨busy, rfl, (if_neg idle).symm, rfl, rfl, rfl, rfl, rfl, ⟨rfl, rfl, rfl, rfl, rfl, rfl, rfl, rfl, rfl, rfl⟩⟩

theorem vacated_active (active : j.state = .active) (claim : j.claim = false)
    (stops : s.shuttle.state = .fault ∨ s.shuttle.state = .halted) : Vacated s i j (s.removedFrom i j) := by
  obtain ⟨stays, busy⟩ := State.removedFrom_busy (i := i) (j := j) stops
  have whole := s.removedFrom_frame i j
  rw [stays, State.releaseClaim_of_none claim, State.stopJobTimers_timer] at whole
  refine ⟨busy, ?_, ?_, ?_, ?_, ?_, ?_, ?_, ?_⟩
  all_goals rw [whole]
  · exact (if_pos active).symm
  · exact ⟨rfl, rfl, rfl, rfl, rfl, rfl, rfl, rfl, rfl, rfl⟩

end Vacated

section Cancel
variable {s : State} {x : Byte} {i : Slot} {j : Job}

theorem exec_jobCancel (free : (s.port supervisorPort).replyPending = false) :
    exec (.jobCancel x) s = .next (s.handleJobCancel x) :=
  congrArg Host.Outcome.next (State.taken_of_not_replyPending _ free)

theorem State.slotOfId_eq_none {id : Nat} (absent : ∀ i j, s.job i = some j → j.id ≠ id) : s.slotOfId id = none := by
  unfold State.slotOfId
  refine List.find?_eq_none.2 fun i _ => ?_
  cases hj : s.job i with
  | none => simp
  | some j => simp [absent i j hj]

/-- A job found by its id is cancelled by its state (R108, R116). -/
theorem State.handleJobCancel_of_found (named : x.toNat ≠ 0) (found : s.slotOfId x.toNat = some i)
    (hj : s.job i = some j) :
    s.handleJobCancel x = if j.state = .active then s.cancelActive i j else (s.ackSup 0x73).cancelIdle i := by
  have nonzero : x ≠ 0 := fun h => named (by rw [h]; rfl)
  unfold State.handleJobCancel
  rw [if_neg nonzero, found]
  simp only [hj]
  cases j.state <;> rfl

theorem State.cancelActive_of_stopped (stopped : s.shuttle.state = .fault ∨ s.shuttle.state = .halted) :
    s.cancelActive i j =
      if s.shuttle.load = .none then (s.ackSup 0x73).removeActive i
      else if s.shuttle.load = .bar ∧ j.kind = .deliver then (s.ackSup 0x73).convertToReturn i
      else s.refuseSup 0x73 .carrying := by
  unfold State.cancelActive
  rw [if_neg (by rcases stopped with h | h <;> rw [h] <;> decide)]
  cases s.shuttle.load with
  | none => rfl
  | parts => rfl
  | bar => cases j.kind <;> rfl

end Cancel

/-- Settles O44: the refusals, the slot that empties, the deferred list served, the lathe a RETURN frees, and the
bar under way. -/
theorem jobCancelActsByState : Obligations.JobCancelActsByState := by
  intro x s free acked refused freed
  have run := exec_jobCancel (x := x) free
  have ack : s.ackSup 0x73 = acked := s.ackSup_eq_reply _
  refine ⟨fun zero => ?_, fun named absent => ?_, fun i j named found hj => ?_⟩
  · rw [run, State.handleJobCancel, if_pos (BitVec.eq_of_toNat_eq zero), s.refuseSup_eq_reply]
    rfl
  · rw [run, State.handleJobCancel, if_neg (fun h => named (by rw [h]; rfl)), State.slotOfId_eq_none absent,
      s.refuseSup_eq_reply]
    rfl
  rw [State.handleJobCancel_of_found named found hj, ack] at run
  obtain ⟨m, isM⟩ : ∃ m, acked = m := ⟨_, rfl⟩
  have frame : m = { s with ports := m.ports } := isM ▸ rfl
  have hjM : m.job i = some j := by rw [frame]; exact hj
  have busyM (busy : s.shuttleFree = false) : m.shuttleFree = false := by rw [frame]; exact busy
  have stopped (active : j.state = .active) (stops : s.shuttle.state = .fault ∨ s.shuttle.state = .halted) :=
    run.trans (congrArg Host.Outcome.next ((if_pos active).trans (State.cancelActive_of_stopped stops)))
  simp only [ack, isM] at run stopped
  obtain ⟨c, isC⟩ : ∃ c, m.vacate i = c := ⟨_, rfl⟩
  have jobC (i' : Slot) : c.job i' = if i' = i then none else s.job i' := by
    rw [← isC, frame]
    refine (Bank.read_write _ _ _ _).trans ?_
    by_cases here : i = i'
    · rw [if_pos here, if_pos here.symm]
    · rw [if_neg here, if_neg (Ne.symm here)]
      rfl
  refine ⟨fun active noFault noHalt => ?_, fun active stops carries => ?_, fun kind busy deferred closed =>
    ⟨fun idle => ?_, fun active stops load => ?_⟩, fun n entries kind waits claim busy full listed => ⟨?_, ?_⟩,
    fun kind claim busy deferred room leaves others => ?_, fun b active stops load kind bar own => ?_⟩
  · rw [run, if_pos active, State.cancelActive, if_pos (by simp [noFault, noHalt]), s.refuseSup_eq_reply]
    rfl
  · have refuses : s.refuseSup 0x73 .carrying = refused 17 := s.refuseSup_eq_reply _ _
    rw [stopped active stops]
    rcases carries with parts | ⟨bar, notDeliver⟩
    · rw [if_neg (by rw [parts]; decide), if_neg (by rw [parts]; exact fun h => by cases h.1), refuses]
    · rw [if_neg (by rw [bar]; decide), if_neg fun h => notDeliver h.2, refuses]
  · have closed' : ∀ k, j.claim = true → j.lane = some k → (m.lane k).isOpen = false := by rw [frame]; exact closed
    rw [run, if_neg idle, State.cancelIdle_eq hjM kind (busyM busy) (by rw [frame]; exact deferred) closed']
    refine ⟨_, rfl, ?_, ⟨?_, ?_, fun k => ?_⟩, ?_⟩
    · rw [m.releaseClaim_frame, frame]
      rfl
    · refine (m.releaseClaim_rack j).1.trans ?_
      rw [frame]
    · refine (m.releaseClaim_rack j).2.trans ?_
      rw [frame]
    · refine (m.releaseClaim_lane j k).trans ?_
      rw [frame]
      rfl
    · rw [isM, m.releaseClaim_frame]
      rfl
  · have stopsM : m.shuttle.state = .fault ∨ m.shuttle.state = .halted := by rw [frame]; exact stops
    have closed' : ∀ k, j.claim = true → j.lane = some k → (m.lane k).isOpen = false := by rw [frame]; exact closed
    obtain ⟨stays, busy'⟩ := State.removedFrom_busy (i := i) (j := j) stopsM
    have whole := m.removedFrom_frame i j
    rw [stays] at whole
    rw [stopped active stops, if_pos load, State.removeActive_eq hjM kind (by rw [frame]; exact deferred) closed',
      State.dispatch_of_busy busy', whole]
    refine ⟨_, rfl, ?_, ⟨?_, ?_, fun k => ?_⟩, rfl, ?_, isM ▸ rfl⟩
    · rw [frame]
    · refine (m.releaseClaim_rack j).1.trans ?_
      rw [frame]
    · refine (m.releaseClaim_rack j).2.trans ?_
      rw [frame]
    · refine (m.releaseClaim_lane j k).trans ?_
      rw [frame]
      rfl
    · refine m.stopJobTimers_timer.trans ?_
      rw [frame]
  · intro last program
    subst last
    rw [run, if_neg (by rw [waits]; decide), State.cancelIdle_of_unclaimed hjM claim (busyM busy),
      State.departed_of_not_ret _ kind, isC, State.serveDeferred,
      show c.sched.deferred = [(n, .collect)] by rw [← isC, frame]; exact listed,
      State.serveFrom_dropped (by rw [← isC, frame]; exact program)]
    refine ⟨_, rfl, (jobC i).trans (if_pos rfl), fun i' other => (jobC i').trans (if_neg other), rfl, ?_, ?_⟩
    all_goals
      rw [← isC, frame]
      rfl
  · intro g held cyc program isHeld cycle reached others due
    have isFull : ((c.account n).fullAt c.now).getD c.now = due := by
      rw [← isC, frame]
      change ((s.account n).fullAt s.now).getD s.now = due
      rw [Account.fullAt, isHeld, program]
      exact congrArg (fun x : Option Time => x.getD s.now) ((s.account n).useTime_used s.now _ _ cyc cycle)
    have lacks : c.findJob n .collect = none :=
      Option.eq_none_iff_forall_ne_some.2 fun i' has => by
        obtain ⟨j', hj', lathe, isCollect⟩ := State.findJob_spec has
        rw [jobC] at hj'
        by_cases here : i' = i
        · rw [if_pos here] at hj'
          cases hj'
        · rw [if_neg here] at hj'
          exact others i' j' here hj' lathe isCollect
    have slot : c.emptySlot = some i :=
      State.emptySlot_of_first ((jobC i).trans (if_pos rfl)) fun i' below => by
        rw [jobC, if_neg (ne_of_lt below)]
        exact full i'
    rw [run, if_neg (by rw [waits]; decide), State.cancelIdle_of_unclaimed hjM claim (busyM busy),
      State.departed_of_not_ret _ kind, isC, State.serveDeferred,
      show c.sched.deferred = (n, .collect) :: entries by rw [← isC, frame]; exact listed,
      State.serveFrom_collect (by rw [← isC, frame]; exact program) (by rw [← isC, frame]; exact reached) lacks slot isFull]
    have nowC : c.now = s.now := by rw [← isC, frame]; rfl
    have binC : c.bin g.bin = s.bin g.bin := by rw [← isC, frame]; rfl
    refine ⟨_, c.nextJobId, rfl, ?_, fun i' other => ⟨?_, fun j' hj' => ?_⟩, rfl, rfl, ?_, ?_⟩
    · rw [State.setSched_job, Bank.read_write_self, nowC, binC]
    · exact (Bank.read_write_ne _ _ _ _ (Ne.symm other)).trans ((jobC i').trans (if_neg other))
    · exact State.nextJobId_free (i := i') ((jobC i').trans ((if_neg other).trans hj'))
    all_goals
      rw [← isC, frame]
      rfl
  · intro n a
    have act {u : State} (left : Vacated s i j u) : Departs u n (u.returnDeparted n) :=
      departs left.busy (by rw [left.sched]; exact deferred) (left.free others) (by rw [left.events]; exact room)
    obtain ⟨u, goes, left⟩ : ∃ u, exec (.jobCancel x) s = .next (u.returnDeparted n) ∧ Vacated s i j u := by
      have isDeparted (u : State) : u.departed j = u.returnDeparted n := if_pos kind
      have deferredM : m.sched.deferred = [] := by rw [frame]; exact deferred
      by_cases active : j.state = .active
      · obtain ⟨stops, load⟩ := leaves.resolve_left fun idle => idle active
        have left := (vacated_active (i := i) active claim (by rw [frame]; exact stops)).of_answered frame
        refine ⟨_, ?_, left⟩
        have d := act left
        rw [stopped active stops, if_pos load, State.removeActive_of_released hjM claim deferredM, isDeparted,
          State.dispatch_of_busy ((State.shuttleFree_congr d.shuttle d.seq).trans left.busy)]
      · refine ⟨c, ?_, isC ▸ (vacated_idle active (busyM busy)).of_answered frame⟩
        rw [run, if_neg active, State.cancelIdle_of_unclaimed hjM claim (busyM busy), isC,
          State.serveDeferred_of_empty (by rw [← isC]; exact deferredM), isDeparted]
    have found := left.findJob hj (k := .deliver) (by rw [kind]; decide) n
    have account := left.account
    have d := act left
    have now := left.kept.now
    generalize u.returnDeparted n = t at *
    refine ⟨t, goes, ?_, ?_, d.shuttle.trans left.shuttle, d.bins.trans left.bins, left.kept.trans d.kept,
      fun k other => (d.accounts k other).trans (account k), fun stays => ?_, fun away => ?_,
      fun await cradle barless program => ?_, ?_⟩
    · rw [d.stack, left.sched]
    · exact d.seq.trans left.seq
    · obtain ⟨sched, rack⟩ := d.stays (by rw [account]; exact stays)
      exact ⟨by rw [sched, left.sched], rack.trans left.rack⟩
    · obtain ⟨own, events⟩ := d.away (by rw [account]; exact away)
      exact ⟨own.trans (account n), events.trans left.events⟩
    · obtain ⟨own, has, short, asks, rest⟩ := d.wants (by rw [account]; exact await) (by rw [account]; exact cradle)
      rw [account] at own has short asks
      rw [found] at has short asks rest
      rw [now] at has asks
      refine ⟨own, fun d' j2 isDeliver hj2 => ?_, fun lacks i2 slot first => ?_, fun i' other none' filled => ?_⟩
      · have apart : d' ≠ i := by
          intro same
          obtain ⟨j3, hj3, -, kind3⟩ := State.findJob_spec isDeliver
          rw [same, hj] at hj3
          cases hj3
          cases kind.symm.trans kind3
        obtain ⟨job, others', rack, events⟩ := has d' j2 isDeliver ((left.job d').trans ((if_neg apart).trans hj2))
        exact ⟨job, (others' i (Ne.symm apart)).trans ((left.job i).trans (if_pos rfl)), rack.trans left.rack,
          events.trans left.events⟩
      · have empty : u.job i2 = none := by
          rw [left.job]
          rcases slot with rfl | none'
          · exact if_pos rfl
          · rw [none', ite_self]
        cases stock : a.stockShort with
        | true =>
          rw [if_pos rfl, State.job, short lacks stock]
          exact empty
        | false =>
          rw [if_neg (by decide)]
          obtain ⟨j2, hj2, facts⟩ := asks lacks stock barless program i2
            (State.emptySlot_of_first empty fun i' below => by
              rw [left.job, if_neg (first i' below).1]
              exact (first i' below).2)
          rw [now] at facts
          exact ⟨j2, hj2, facts⟩
      · have stands : u.job i' = s.job i' := (left.job i').trans (if_neg other)
        exact (rest i' none' (by rw [stands]; exact filled)).trans stands
    · intro c await cradle b
      obtain ⟨own, records, told⟩ := d.loads c (by rw [account]; exact await) (by rw [account]; exact cradle)
      rw [account, left.kept.params] at own
      rw [account, now, left.events] at records
      exact ⟨own, records, told⟩
  · intro home fit
    rw [stopped active stops, if_neg (by rw [load]; decide), if_pos ⟨load, kind⟩]
    obtain ⟨z, converts, dest⟩ := State.convertToReturn_destined hjM bar
    have lanes (k : LaneNo) : (m.setSlot i (some (j.converted m))).lane k = s.lane k := by
      rw [frame]
      rfl
    have job := dest.job
    have isLanes := dest.lanes
    simp only [lanes] at job isLanes
    have isFrame := dest.frame
    rw [converts, job]
    refine ⟨_, rfl, job.trans ?_, fun k other => (dest.others k other).trans ?_, isLanes, ?_, ?_, ?_, ?_, ?_, ?_, ?_⟩
    · rw [frame]
      rfl
    · rw [frame]
      exact State.setSlot_job_ne _ _ _ _ (Ne.symm other)
    · rw [State.setSeq_seq]
      simp only [Option.bind_some]
      by_cases fits : homeFit (s.lane b.home) b
      · rw [if_pos fits, if_pos fits]
        rfl
      · rw [if_neg fits, if_neg fits]
        rfl
    all_goals
      rw [isFrame, frame]
    · rfl
    · rfl
    · rfl
    · rfl
    · rfl
    · rw [← frame, ← isM]
      exact congrArg Port.queue (State.reply_port_self _ _ _)

end Sys2Proof.Machine

/-! PROOFS. STOCK (R27, R68, R73, R74, R79): the bar entered, the stock gain, and the lathes that leave stock-short one
after another. -/
namespace Sys2Proof.Machine

open Sys2Proof

/-! ### Jobs that keep their identity -/

/-- What of a job a stock gain leaves. -/
def Job.tag (j : Job) : Nat × JobKind × Lathe × Time := (j.id, j.kind, j.lathe, j.deadline)

/-- Every slot holds a job of the same id, kind, lathe and deadline, or none as before. -/
def SameTags (s t : State) : Prop := ∀ i, (t.job i).map Job.tag = (s.job i).map Job.tag

section Tags
variable {s t u : State} {n : Lathe} {i : Slot} {k : LaneNo}

theorem SameTags.trans (h : SameTags s t) (g : SameTags t u) : SameTags s u := fun i => (g i).trans (h i)

theorem SameTags.of_sched (h : t.sched = s.sched) : SameTags s t := fun i => by rw [State.job, h, State.job]

theorem SameTags.findJob (h : SameTags s t) (n : Lathe) (k : JobKind) : t.findJob n k = s.findJob n k := by
  have same : t.isJobOf n k = s.isJobOf n k := by
    funext i
    have tag := h i
    unfold State.isJobOf
    cases ht : t.job i with
    | none =>
      rw [ht] at tag
      cases hs : s.job i with
      | none => rfl
      | some j =>
        rw [hs] at tag
        cases tag
    | some j' =>
      rw [ht] at tag
      cases hs : s.job i with
      | none =>
        rw [hs] at tag
        cases tag
      | some j =>
        rw [hs] at tag
        simp only [Option.map_some, Job.tag, Option.some.injEq, Prod.mk.injEq] at tag
        simp only [tag]
  rw [State.findJob, same, State.findJob]

theorem SameTags.job {j : Job} (h : SameTags s t) (hj : s.job i = some j) :
    ∃ j', t.job i = some j' ∧ j'.id = j.id ∧ j'.kind = j.kind ∧ j'.lathe = j.lathe ∧ j'.deadline = j.deadline := by
  have tag := h i
  rw [hj, Option.map_some, Option.map_eq_some_iff] at tag
  obtain ⟨j', hj', same⟩ := tag
  simp only [Job.tag, Prod.mk.injEq] at same
  exact ⟨j', hj', same⟩

theorem sameTags_takeClaim (i : Slot) (k : LaneNo) : SameTags s (s.takeClaim i k) := fun i' => by
  by_cases own : i = i'
  · subst own
    rw [State.takeClaim, State.updateJob, State.setSlot_job_self, Option.map_map]
    rfl
  · rw [State.takeClaim_job_ne k own]

theorem sameTags_present (k : LaneNo) (fuel : Nat) (s : State) : SameTags s (State.present k fuel s) := by
  induction fuel generalizing s with
  | zero => exact fun _ => rfl
  | succ fuel ih =>
    unfold State.present
    split
    · split
      · exact (sameTags_takeClaim _ k).trans (ih _)
      · exact fun _ => rfl
    · exact fun _ => rfl

theorem sameTags_stockGain (k : LaneNo) (s : State) : SameTags s (s.stockGain k) := by
  unfold State.stockGain
  split
  · exact sameTags_present k 32 s
  · exact fun _ => rfl

/-- A stock gain that no job waits for (R79). -/
theorem State.stockGain_of_unwanted (unwanted : ∀ i j, s.job i = some j → j.block ≠ .noStock) : s.stockGain k = s := by
  have stops : ∀ fuel, State.present k fuel s = s := fun fuel => by
    cases fuel with
    | zero => rfl
    | succ fuel =>
      unfold State.present
      split
      · split
        · next i j best =>
          obtain ⟨hj, wants⟩ := State.bestJob_spec best
          exact absurd ((State.wantsLane_iff).1 wants).2.2.1 (unwanted i j hj)
        · rfl
      · rfl
  unfold State.stockGain
  split
  · exact stops 32
  · rfl

end Tags

/-! ### What a request for a DELIVER job leaves -/

section Request
variable {s : State} {n : Lathe} {i : Slot}

/-- A request for a DELIVER job fills an empty slot with a job of its lathe, or none. -/
theorem State.request_deliver_job (s : State) (n : Lathe) (i : Slot) :
    (s.request n .deliver).job i = s.job i ∨
      s.job i = none ∧ ∃ j, (s.request n .deliver).job i = some j ∧ j.lathe = n := by
  cases has : s.hasJob n .deliver with
  | true =>
    rw [State.request_of_has has]
    exact .inl rfl
  | false =>
    cases slot : s.emptySlot with
    | none =>
      rw [State.request_of_full has slot]
      refine .inl ?_
      unfold State.defer
      split <;> rfl
    | some e =>
      by_cases listed : s.sched.deferred = []
      · cases program : (s.account n).program with
        | none =>
          rw [State.request_of_room has slot listed]
          refine .inl ?_
          simp only [State.createIn, program]
        | some g =>
          obtain ⟨made, others, -⟩ := State.request_deliver_made program has slot listed
          by_cases own : i = e
          · subst own
            exact .inr ⟨State.emptySlot_spec slot, _, made, rfl⟩
          · exact .inl (others i own)
      · refine .inl ?_
        have defers : s.request n .deliver = s.defer n .deliver := by
          simp [State.request, has, slot, listed]
        rw [defers]
        unfold State.defer
        split <;> rfl

/-- A request that is not dropped makes a DELIVER job or is deferred (R92). -/
theorem State.request_deliver_asks (program : (s.account n).program.isSome = true) (lacks : s.hasJob n .deliver = false) :
    (n, JobKind.deliver) ∈ (s.request n .deliver).sched.deferred ∨
      ∃ i j, (s.request n .deliver).job i = some j ∧ j.kind = .deliver ∧ j.lathe = n ∧
        j.deadline = (s.account n).deliverDeadline s.now := by
  have defers : (n, JobKind.deliver) ∈ (s.defer n .deliver).sched.deferred := by
    unfold State.defer
    split
    · next listed => exact listed
    · exact List.mem_append_right _ List.mem_cons_self
  cases slot : s.emptySlot with
  | none =>
    rw [State.request_of_full lacks slot]
    exact .inl defers
  | some i =>
    by_cases listed : s.sched.deferred = []
    · obtain ⟨g, program⟩ := Option.isSome_iff_exists.1 program
      obtain ⟨made, -⟩ := State.request_deliver_made program lacks slot listed
      exact .inr ⟨i, _, made, rfl, rfl, rfl⟩
    · rw [show s.request n .deliver = s.defer n .deliver by simp [State.request, lacks, slot, listed]]
      exact .inl defers

end Request

/-! ### A lathe that leaves stock-short (R27, R74) -/

section Clear
variable {s t u : State} {n m : Lathe} {k : LaneNo}

/-- A STOCK into lane `k` takes lathe `n` out of stock-short. -/
def State.supplies (s : State) (k : LaneNo) (n : Lathe) : Bool :=
  (s.account n).stockShort &&
    (s.account n).program.any fun g => g.material == (s.lane k).material && g.diameter == (s.lane k).diameter

theorem State.suits_eq (s : State) (k : LaneNo) (n : Lathe) :
    s.suits k n =
      (s.account n).program.any fun g => g.material == (s.lane k).material && g.diameter == (s.lane k).diameter := by
  unfold State.suits
  cases (s.account n).program with
  | none => rfl
  | some g =>
    change ((s.lane k).material == g.material && (s.lane k).diameter == g.diameter) = _
    rw [Option.any_some, BEq.comm (a := g.material), BEq.comm (a := g.diameter)]

theorem State.supplies_congr {s t : State} (account : t.account n = s.account n) (lanes : SameLanes s t) :
    t.supplies k n = s.supplies k n := by
  obtain ⟨c, lane⟩ := lanes k
  rw [State.supplies, account, lane, State.supplies]

theorem State.clearShort_of_unsupplied (h : s.supplies k n = false) : s.clearShort k n = s := by
  rw [State.clearShort_eq, s.suits_eq, ← State.supplies, h]
  rfl

section Supplied
variable (h : s.supplies k n = true)
include h

/-- The lathe is stock-short no more, its AWAIT entry time not yet rewritten. -/
theorem State.clearShort_of_await (await : (s.account n).state = .await) (cradle : (s.account n).cradle = none) :
    s.clearShort k n = ((s.setStockShort n false).arrived n).wantBar n := by
  rw [State.clearShort_eq, s.suits_eq, ← State.supplies, if_pos h, await, cradle]
  rfl

theorem State.clearShort_of_armed (away : ¬((s.account n).state = .await ∧ (s.account n).cradle = none))
    (armed : (s.compareOf n).armed = true) : s.clearShort k n = (s.setStockShort n false).rearm n := by
  rw [State.clearShort_eq, s.suits_eq, ← State.supplies, if_pos h, armed, if_neg (by simpa using away), if_pos rfl]

theorem State.clearShort_of_disarmed (away : ¬((s.account n).state = .await ∧ (s.account n).cradle = none))
    (disarmed : (s.compareOf n).armed = false) : s.clearShort k n = s.setStockShort n false := by
  rw [State.clearShort_eq, s.suits_eq, ← State.supplies, if_pos h, disarmed, if_neg (by simpa using away)]
  rfl

end Supplied

/-- What is left by the lathes `l` as they leave stock-short. -/
structure Spared (l : List Lathe) (s t : State) : Prop where
  accounts : ∀ n, n ∉ l → t.account n = s.account n
  compares : ∀ n, n ∉ l → t.compareOf n = s.compareOf n
  lanes : SameLanes s t
  ports : t.ports = s.ports
  issued : t.rack.lastBarId = s.rack.lastBarId ∧ t.rack.reject = s.rack.reject
  kept : Kept s t

theorem Spared.trans {l l' : List Lathe} (h : Spared l s t) (g : Spared l' t u) : Spared (l ++ l') s u where
  accounts n out := by
    rw [List.mem_append, not_or] at out
    exact (g.accounts n out.2).trans (h.accounts n out.1)
  compares n out := by
    rw [List.mem_append, not_or] at out
    exact (g.compares n out.2).trans (h.compares n out.1)
  lanes := h.lanes.trans g.lanes
  ports := g.ports.trans h.ports
  issued := ⟨g.issued.1.trans h.issued.1, g.issued.2.trans h.issued.2⟩
  kept := h.kept.trans g.kept

theorem SchedReach.issued {s t : State} (h : SchedReach s t) :
    t.rack.lastBarId = s.rack.lastBarId ∧ t.rack.reject = s.rack.reject := by
  induction h with
  | refl => exact ⟨rfl, rfl⟩
  | tail _ p ih =>
    cases p with
    | plan q =>
      cases q with
      | sched => exact ih
      | claim => exact ih
      | post e =>
        rw [State.post_rack]
        exact ih
    | seq => exact ih
    | shuttle => exact ih
    | guardWait => exact ih
    | stepTimer => exact ih
    | inFlight => exact ih

/-- The planning that follows leaves accounts, compares and lines. -/
theorem SchedReach.spared {s t : State} (h : SchedReach s t) : Spared [] s t :=
  ⟨fun n _ => h.keeps.account n, fun n _ => h.keeps.compares n, SchedReach.lanes h, h.keeps.ports, h.issued, h.keeps.kept⟩

theorem Beside.spared (h : Beside n s t) (ports : t.ports = s.ports) : Spared [n] s t :=
  ⟨fun m out => h.accounts m (by simpa using out), fun m out => h.compares m (by simpa using out), sameLanes_of_rack h.rack,
    ports, by rw [h.rack]; exact ⟨rfl, rfl⟩, h.kept⟩

theorem Spared.refl (l : List Lathe) (s : State) : Spared l s s :=
  ⟨fun _ _ => rfl, fun _ _ => rfl, SameLanes.refl s, rfl, ⟨rfl, rfl⟩, Kept.refl s⟩

theorem spared_clearShort (k : LaneNo) (n : Lathe) (s : State) : Spared [n] s (s.clearShort k n) := by
  have cleared : Spared [n] s (s.setStockShort n false) := (beside_setAccount n s _).spared rfl
  cases h : s.supplies k n with
  | false =>
    rw [State.clearShort_of_unsupplied h]
    exact .refl _ s
  | true =>
    by_cases entered : (s.account n).state = .await ∧ (s.account n).cradle = none
    · rw [State.clearShort_of_await h entered.1 entered.2]
      have arrived : Spared [n] s ((s.setStockShort n false).arrived n) :=
        ((beside_setAccount n s _).trans (beside_setAccount n _ _)).spared rfl
      exact arrived.trans (sched_wantBar _ n).spared
    · cases armed : (s.compareOf n).armed with
      | false =>
        rw [State.clearShort_of_disarmed h entered armed]
        exact cleared
      | true =>
        rw [State.clearShort_of_armed h entered armed]
        have written : Spared [n] s (State.writeCompare (s.setStockShort n false) n).1 :=
          ((beside_setAccount n s _).trans (beside_writeCompare n _)).spared (State.writeCompare_ports _ _)
        exact written.trans (sched_fireIf _ n _).spared

theorem spared_foldl (k : LaneNo) (l : List Lathe) (s : State) :
    Spared l s (l.foldl (fun s n => s.clearShort k n) s) := by
  induction l generalizing s with
  | nil => exact .refl [] s
  | cons n l ih => exact (spared_clearShort k n s).trans (ih _)

/-- The account of a lathe that leaves stock-short, or does not (R27, R199). -/
theorem State.clearShort_account (s : State) (k : LaneNo) (n : Lathe) :
    ((s.clearShort k n).account n).state = (s.account n).state ∧
      ((s.clearShort k n).account n).stockShort = ((s.account n).stockShort &&
        !((s.account n).program.any fun g =>
          g.material == (s.lane k).material && g.diameter == (s.lane k).diameter)) := by
  have cleared : (s.setStockShort n false).account n = { s.account n with stockShort := false } :=
    State.setAccount_account_self _ _ _
  cases h : s.supplies k n with
  | false =>
    rw [State.clearShort_of_unsupplied h]
    unfold State.supplies at h
    refine ⟨rfl, ?_⟩
    revert h
    cases (s.account n).stockShort with
    | false => exact fun _ => rfl
    | true => exact fun h => by rw [Bool.true_and] at h; rw [h]; rfl
  | true =>
    have fits : ((s.account n).program.any fun g =>
        g.material == (s.lane k).material && g.diameter == (s.lane k).diameter) = true := by
      unfold State.supplies at h
      rw [Bool.and_eq_true] at h
      exact h.2
    rw [fits, Bool.not_true, Bool.and_false]
    by_cases entered : (s.account n).state = .await ∧ (s.account n).cradle = none
    · rw [State.clearShort_of_await h entered.1 entered.2, (sched_wantBar _ n).keeps.account, State.arrived_account, cleared]
      exact ⟨rfl, rfl⟩
    · cases armed : (s.compareOf n).armed with
      | false =>
        rw [State.clearShort_of_disarmed h entered armed, cleared]
        exact ⟨rfl, rfl⟩
      | true =>
        rw [State.clearShort_of_armed h entered armed, State.rearm_account, cleared]
        exact ⟨rfl, rfl⟩

/-- The turn of lathe `n` among all twelve. -/
theorem turns_of (n : Lathe) : ∃ before after, n ∉ before ∧ n ∉ after ∧ List.finRange 12 = before ++ n :: after := by
  obtain ⟨before, after, split⟩ := List.append_of_mem (List.mem_finRange n)
  have nodup := List.nodup_finRange 12
  rw [split, List.nodup_append, List.nodup_cons] at nodup
  exact ⟨before, after, fun mem => nodup.2.2 n mem n List.mem_cons_self rfl, nodup.2.1.1, split⟩

/-- Every lathe in its turn (R74). -/
def State.clearAll (s : State) (k : LaneNo) : State := (List.finRange 12).foldl (fun s n => s.clearShort k n) s

/-- What of the schedule is left by the lathes `l` as they leave stock-short, with the shuttle not free. -/
structure SparedJobs (l : List Lathe) (s t : State) : Prop where
  jobs : ∀ i j, j.lathe ∉ l → (t.job i = some j ↔ s.job i = some j)
  deferred : ∀ e ∈ s.sched.deferred, e ∈ t.sched.deferred
  busy : t.shuttleFree = false

theorem SparedJobs.trans {l l' : List Lathe} (h : SparedJobs l s t) (g : SparedJobs l' t u) :
    SparedJobs (l ++ l') s u where
  jobs i j out := by
    rw [List.mem_append, not_or] at out
    exact (g.jobs i j out.2).trans (h.jobs i j out.1)
  deferred e mem := g.deferred e (h.deferred e mem)
  busy := g.busy

theorem SparedJobs.findJob {l : List Lathe} (h : SparedJobs l s t) (out : n ∉ l) (k : JobKind) :
    t.findJob n k = s.findJob n k := by
  have same : t.isJobOf n k = s.isJobOf n k := by
    funext i
    have told (x : State) : x.isJobOf n k i = true ↔ ∃ j, x.job i = some j ∧ j.lathe = n ∧ j.kind = k := by
      unfold State.isJobOf
      cases x.job i with
      | none => simp
      | some j => simp
    rw [Bool.eq_iff_iff, told, told]
    refine exists_congr fun j => and_congr_left fun own => h.jobs i j ?_
    rw [own.1]
    exact out
  rw [State.findJob, same, State.findJob]

theorem SparedJobs.of_sched (l : List Lathe) (sched : t.sched = s.sched) (busy : t.shuttleFree = false) :
    SparedJobs l s t :=
  ⟨fun i j _ => by rw [State.job, sched, State.job], fun e mem => by rw [sched]; exact mem, busy⟩

theorem sparedJobs_request (busy : s.shuttleFree = false) : SparedJobs [n] s (s.request n .deliver) where
  jobs i j out := by
    rw [List.mem_singleton] at out
    rcases s.request_deliver_job n i with same | ⟨empty, j', made, lathe⟩
    · rw [same]
    · rw [made, empty]
      exact ⟨fun h => by cases h; exact absurd lathe out, fun h => by cases h⟩
  deferred := (jobsStay_request n .deliver).deferred
  busy := by
    have keeps := PlanReach.keeps (plan_request s n .deliver)
    exact (State.shuttleFree_congr keeps.shuttle keeps.seq).trans busy

theorem sparedJobs_wantBar (busy : s.shuttleFree = false) : SparedJobs [n] s (s.wantBar n) := by
  cases has : s.findJob n .deliver with
  | some d =>
    rw [State.wantBar_of_has has]
    refine ⟨fun i j out => ?_, fun e mem => mem, busy⟩
    by_cases own : d = i
    · subst own
      obtain ⟨j', hj', lathe, -⟩ := State.findJob_spec has
      rw [List.mem_singleton] at out
      rw [State.setDeadline_job_self hj', hj']
      exact ⟨fun h => by cases h; exact absurd lathe out, fun h => by cases h; exact absurd lathe out⟩
    · rw [State.setDeadline_job_ne own]
  | none =>
    cases stock : (s.account n).stockShort with
    | true =>
      rw [State.wantBar_of_short has stock]
      exact .of_sched _ rfl busy
    | false =>
      rw [State.wantBar_of_busy has stock busy]
      exact sparedJobs_request busy

theorem sparedJobs_fireIf (busy : s.shuttleFree = false) (fired : Bool) : SparedJobs [n] s (s.fireIf n fired) := by
  unfold State.fireIf State.deliverOnFire
  split
  · split
    · exact .of_sched _ rfl busy
    · rw [State.request_dispatch_of_busy busy]
      exact sparedJobs_request busy
  · exact .of_sched _ rfl busy

theorem Beside.sparedJobs (h : Beside n s t) (busy : s.shuttleFree = false) : SparedJobs [] s t :=
  .of_sched _ h.sched (h.shuttleFree.trans busy)

theorem beside_arrived (n : Lathe) (s : State) : Beside n s (s.arrived n) := beside_setAccount n s _

theorem sparedJobs_clearShort (k : LaneNo) (busy : s.shuttleFree = false) : SparedJobs [n] s (s.clearShort k n) := by
  have cleared : Beside n s (s.setStockShort n false) := beside_setAccount n s _
  cases h : s.supplies k n with
  | false =>
    rw [State.clearShort_of_unsupplied h]
    exact .of_sched _ rfl busy
  | true =>
    by_cases entered : (s.account n).state = .await ∧ (s.account n).cradle = none
    · rw [State.clearShort_of_await h entered.1 entered.2]
      have arrived := (cleared.trans (beside_arrived n _)).sparedJobs busy
      exact arrived.trans (sparedJobs_wantBar (s := (s.setStockShort n false).arrived n) arrived.busy)
    · cases armed : (s.compareOf n).armed with
      | false =>
        rw [State.clearShort_of_disarmed h entered armed]
        exact .of_sched _ rfl busy
      | true =>
        rw [State.clearShort_of_armed h entered armed]
        have written := (cleared.trans (beside_writeCompare n _)).sparedJobs busy
        exact written.trans (sparedJobs_fireIf (s := (State.writeCompare (s.setStockShort n false) n).1) written.busy _)

theorem sparedJobs_foldl (k : LaneNo) (l : List Lathe) (busy : s.shuttleFree = false) :
    SparedJobs l s (l.foldl (fun s n => s.clearShort k n) s) := by
  induction l generalizing s with
  | nil => exact .of_sched _ rfl busy
  | cons n l ih =>
    have first := sparedJobs_clearShort (n := n) k busy
    exact first.trans (ih first.busy)

/-- Lathes that the STOCK does not supply take no turn. -/
theorem foldl_of_unsupplied (l : List Lathe) (none' : ∀ m ∈ l, s.supplies k m = false) :
    l.foldl (fun s n => s.clearShort k n) s = s := by
  induction l with
  | nil => rfl
  | cons m l ih =>
    rw [List.foldl_cons, State.clearShort_of_unsupplied (none' m List.mem_cons_self)]
    exact ih fun m' mem => none' m' (List.mem_cons_of_mem _ mem)

/-- The turn of lathe `n`: `u` is the state before it, `t` the state after every lathe's. -/
structure Turn (s : State) (k : LaneNo) (n : Lathe) (u t : State) : Prop where
  account : u.account n = s.account n
  compare : u.compareOf n = s.compareOf n
  lanes : SameLanes s u
  kept : Kept s u
  busy : u.shuttleFree = false
  jobs : ∀ i j, j.lathe = n → (u.job i = some j ↔ s.job i = some j)
  found : u.findJob n .deliver = s.findJob n .deliver
  accountAfter : t.account n = (u.clearShort k n).account n
  compareAfter : t.compareOf n = (u.clearShort k n).compareOf n
  jobsAfter : ∀ i j, j.lathe = n → (t.job i = some j ↔ (u.clearShort k n).job i = some j)
  deferredAfter : ∀ e ∈ (u.clearShort k n).sched.deferred, e ∈ t.sched.deferred
  alone : (∀ m, m ≠ n → s.supplies k m = false) → u = s ∧ t = s.clearShort k n

theorem turn_of (k : LaneNo) (n : Lathe) (busy : s.shuttleFree = false) : ∃ u, Turn s k n u (s.clearAll k) := by
  obtain ⟨before, after, out, out', split⟩ := turns_of n
  obtain ⟨u, isU⟩ : ∃ u, before.foldl (fun s n => s.clearShort k n) s = u := ⟨_, rfl⟩
  have whole : s.clearAll k = after.foldl (fun s n => s.clearShort k n) (u.clearShort k n) := by
    rw [State.clearAll, split, List.foldl_append, isU, List.foldl_cons]
  have first := isU ▸ spared_foldl k before s
  have firstJobs := isU ▸ sparedJobs_foldl k before busy
  have own := sparedJobs_clearShort (n := n) k firstJobs.busy
  have last := spared_foldl k after (u.clearShort k n)
  have lastJobs := sparedJobs_foldl k after own.busy
  rw [← whole] at last lastJobs
  refine ⟨u, first.accounts n out, first.compares n out, first.lanes, first.kept, firstJobs.busy,
    fun i j lathe => firstJobs.jobs i j (by rw [lathe]; exact out), firstJobs.findJob out _, last.accounts n out',
    last.compares n out', fun i j lathe => lastJobs.jobs i j (by rw [lathe]; exact out'), lastJobs.deferred, fun alone => ?_⟩
  have same : u = s := by
    rw [← isU]
    exact foldl_of_unsupplied before fun m mem => alone m fun eq => out (eq ▸ mem)
  refine ⟨same, ?_⟩
  rw [whole, same]
  refine foldl_of_unsupplied after fun m mem => ?_
  have apart : m ≠ n := fun eq => out' (eq ▸ mem)
  have spared := spared_clearShort k n s
  rw [State.supplies_congr (spared.accounts m (by simpa using apart)) spared.lanes]
  exact alone m apart

theorem State.clearAll_account (s : State) (k : LaneNo) (n : Lathe) :
    ((s.clearAll k).account n).state = (s.account n).state ∧
      ((s.clearAll k).account n).stockShort = ((s.account n).stockShort &&
        !((s.account n).program.any fun g =>
          g.material == (s.lane k).material && g.diameter == (s.lane k).diameter)) := by
  obtain ⟨before, after, out, out', split⟩ := turns_of n
  obtain ⟨u, isU⟩ : ∃ u, before.foldl (fun s n => s.clearShort k n) s = u := ⟨_, rfl⟩
  have first := isU ▸ spared_foldl k before s
  have last := spared_foldl k after (u.clearShort k n)
  obtain ⟨c, lane⟩ := first.lanes k
  have own := u.clearShort_account k n
  rw [first.accounts n out, lane] at own
  rw [State.clearAll, split, List.foldl_append, isU, List.foldl_cons, last.accounts n out']
  exact own

/-- Lathe `n` has a DELIVER job or a deferred request for one; without one before, it is due at `due`. -/
def State.asks (s : State) (n : Lathe) (has : Bool) (due : Time) : Prop :=
  (n, JobKind.deliver) ∈ s.sched.deferred ∨
    ∃ i j, s.job i = some j ∧ j.kind = .deliver ∧ j.lathe = n ∧ (has = false → j.deadline = due)

/-- The one lathe that the STOCK supplies asks for a DELIVER job from a state `w` like `s` but for its own account and
compare. -/
def State.asksAlone (s t : State) (n : Lathe) (due : Time) : Prop :=
  ∃ w : State, Beside n s w ∧ w.events = s.events ∧ (w.account n).program = (s.account n).program ∧
    (w.account n).deliverDeadline w.now = due ∧ t = w.request n .deliver

section Turns
variable {due : Time}

theorem Turn.asks (turn : Turn s k n u t) {has : Bool} (asked : (u.clearShort k n).asks n has due) : t.asks n has due := by
  rcases asked with listed | ⟨i, j, hj, kind, lathe, deadline⟩
  · exact .inl (turn.deferredAfter _ listed)
  · exact .inr ⟨i, j, (turn.jobsAfter i j lathe).2 hj, kind, lathe, deadline⟩

theorem Turn.supplies (turn : Turn s k n u t) (h : s.supplies k n = true) : u.supplies k n = true :=
  (State.supplies_congr turn.account turn.lanes).trans h

theorem program_of_supplies (h : s.supplies k n = true) : (s.account n).program.isSome = true := by
  unfold State.supplies at h
  cases program : (s.account n).program with
  | none => simp [program] at h
  | some g => rfl

/-- A lathe in AWAIT with an empty cradle asks for a bar as it leaves stock-short (R74). -/
theorem Turn.awaits (turn : Turn s k n u t) (h : s.supplies k n = true) (await : (s.account n).state = .await)
    (cradle : (s.account n).cradle = none) (barless : (s.account n).current = none) :
    t.account n = { s.account n with stockShort := false, awaitEntry := .fresh s.now } ∧
      t.compareOf n = s.compareOf n ∧ t.asks n (s.hasJob n .deliver) s.now ∧
      (∀ i j, s.findJob n .deliver = some i → s.job i = some j → t.job i = some { j with deadline := s.now }) ∧
      ((∀ m, m ≠ n → s.supplies k m = false) → s.hasJob n .deliver = false → s.asksAlone t n s.now) := by
  have clears (x : State) (account : x.account n = s.account n) (supplied : x.supplies k n = true) (now : x.now = s.now) :
      ∃ w : State, x.clearShort k n = w.wantBar n ∧ Beside n x w ∧ w.events = x.events ∧
        w.compareOf n = x.compareOf n ∧ w.account n = { s.account n with stockShort := false, awaitEntry := .fresh s.now } := by
    refine ⟨_, State.clearShort_of_await supplied (by rw [account]; exact await) (by rw [account]; exact cradle),
      (beside_setAccount n x _).trans (beside_arrived n _), rfl, rfl, ?_⟩
    rw [State.arrived_account, State.setStockShort, State.setAccount_account_self, account, ← now]
    rfl
  obtain ⟨w, clear, beside, -, compare, account⟩ := clears u turn.account (turn.supplies h) turn.kept.now
  have now : w.now = s.now := beside.now.trans turn.kept.now
  have busy : w.shuttleFree = false := beside.shuttleFree.trans turn.busy
  have keeps := SchedReach.keeps (sched_wantBar w n)
  have found : w.findJob n .deliver = s.findJob n .deliver := (beside.findJob n _).trans turn.found
  have entry : (w.account n).awaitEntry.read w.now = s.now := by
    rw [account]
    exact Stamp.read_fresh _ _
  have due : (w.account n).deliverDeadline w.now = s.now := by
    rw [Account.deliverDeadline_of_empty (by rw [account]; exact barless), entry]
  have has (d : Slot) (j : Job) (isFound : s.findJob n .deliver = some d) (hj : s.job d = some j) :
      (u.clearShort k n).job d = some { j with deadline := s.now } := by
    obtain ⟨j', hj', lathe, -⟩ := State.findJob_spec isFound
    cases hj.symm.trans hj'
    rw [clear, State.wantBar_of_has (found.trans isFound), entry]
    exact State.setDeadline_job_self ((beside.job d).trans ((turn.jobs d j lathe).2 hj))
  refine ⟨?_, ?_, turn.asks ?_, fun d j isFound hj => ?_, fun alone lacks => ?_⟩
  · rw [turn.accountAfter, clear, keeps.account, account]
  · rw [turn.compareAfter, clear, keeps.compares]
    rw [compare, turn.compare]
  · cases isFound : s.findJob n .deliver with
    | some d =>
      obtain ⟨j, hj, lathe, kind⟩ := State.findJob_spec isFound
      exact .inr ⟨d, _, has d j isFound hj, kind, lathe, fun _ => rfl⟩
    | none =>
      rw [clear, State.wantBar_of_busy (found.trans isFound) (by rw [account]) busy]
      refine (State.request_deliver_asks ?_ (State.hasJob_of_findJob (found.trans isFound))).imp id ?_
      · rw [account]
        exact program_of_supplies h
      · rintro ⟨i, j, hj, kind, lathe, deadline⟩
        exact ⟨i, j, hj, kind, lathe, fun _ => deadline.trans due⟩
  · obtain ⟨j', hj', lathe, -⟩ := State.findJob_spec isFound
    cases hj.symm.trans hj'
    exact (turn.jobsAfter d { j with deadline := s.now } lathe).2 (has d j isFound hj)
  · obtain ⟨-, last⟩ := turn.alone alone
    obtain ⟨x, clear', beside', events, -, account'⟩ := clears s rfl h rfl
    have isFound : s.findJob n .deliver = none := by
      unfold State.hasJob at lacks
      exact Option.isNone_iff_eq_none.1 (Option.isSome_eq_false_iff.1 lacks)
    refine ⟨x, beside', events, by rw [account'], ?_, ?_⟩
    · rw [Account.deliverDeadline_of_empty (by rw [account']; exact barless), account']
      exact Stamp.read_fresh _ _
    · have busy' : x.shuttleFree = false := by
        obtain ⟨same, -⟩ := turn.alone alone
        exact beside'.shuttleFree.trans (same ▸ turn.busy)
      rw [last, clear', State.wantBar_of_busy ((beside'.findJob n _).trans isFound) (by rw [account']) busy']

/-- A lathe in RUNNING or LOST with its compare armed has it written again as it leaves stock-short (R27). -/
theorem Turn.rearms (turn : Turn s k n u t) (h : s.supplies k n = true) (wants : (s.account n).wantsCompare = true)
    (armed : (s.compareOf n).armed = true) (out : (s.account n).outAt s.now = some due) :
    t.account n = { s.account n with stockShort := false } ∧
      t.compareOf n = .written (due - BitVec.ofNat 32 s.params.lookahead) s.now ∧
      (atOrBefore (due - BitVec.ofNat 32 s.params.lookahead) s.now = true →
        t.asks n (s.hasJob n .deliver) due ∧
          ((∀ m, m ≠ n → s.supplies k m = false) → s.hasJob n .deliver = false → s.asksAlone t n due)) ∧
      (atOrBefore (due - BitVec.ofNat 32 s.params.lookahead) s.now = false →
        (∀ m, m ≠ n → s.supplies k m = false) → t.sched = s.sched ∧ t.events = s.events ∧ t.rack = s.rack) := by
  obtain ⟨value, isValue⟩ : ∃ value, due - BitVec.ofNat 32 s.params.lookahead = value := ⟨_, rfl⟩
  have away : (s.account n).state ≠ .await := wantsCompare_not_await wants
  have bar : (s.account n).current.isSome = true := by
    simp only [Account.wantsCompare, Bool.and_eq_true] at wants
    exact wants.1.2
  obtain ⟨c, current⟩ := Option.isSome_iff_exists.1 bar
  have clears (x : State) (account : x.account n = s.account n) (compare : x.compareOf n = s.compareOf n)
      (supplied : x.supplies k n = true) :
      ∃ w : State, x.clearShort k n = w.rearm n ∧ Beside n x w ∧ w.events = x.events ∧
        w.account n = { s.account n with stockShort := false } := by
    refine ⟨_, State.clearShort_of_armed supplied (by rw [account]; exact fun h => away h.1) (by rw [compare]; exact armed),
      beside_setAccount n x _, rfl, ?_⟩
    rw [State.setStockShort, State.setAccount_account_self, account]
  have reads (x w : State) (kept : Kept s x) (beside : Beside n x w)
      (account : w.account n = { s.account n with stockShort := false }) :
      (w.account n).wantsCompare = true ∧ (w.account n).outAt w.now = some due ∧
        due - BitVec.ofNat 32 w.params.lookahead = value ∧ w.now = s.now := by
    have now : w.now = s.now := beside.now.trans kept.now
    rw [account, now, beside.kept.params, kept.params]
    exact ⟨wants, out, isValue, rfl⟩
  obtain ⟨w, clear, beside, -, account⟩ := clears u turn.account turn.compare (turn.supplies h)
  obtain ⟨wants', out', value', now⟩ := reads u w turn.kept beside account
  have busy : w.shuttleFree = false := beside.shuttleFree.trans turn.busy
  have found : w.findJob n .deliver = s.findJob n .deliver := (beside.findJob n _).trans turn.found
  have due' : (w.account n).deliverDeadline w.now = due :=
    Account.deliverDeadline_of_out (by rw [account]; exact current) out'
  have written := State.rearm_compareOf wants' out'
  rw [value', now] at written
  rw [isValue]
  refine ⟨?_, ?_, fun reached => ⟨turn.asks ?_, fun alone lacks => ?_⟩, fun early alone => ?_⟩
  · rw [turn.accountAfter, clear, State.rearm_account, account]
  · rw [turn.compareAfter, clear, written]
  · rw [clear]
    cases has : s.hasJob n .deliver with
    | true =>
      rw [State.rearm_of_quiet wants' out' (.inr (.inl (by rw [State.hasJob, found]; exact has)))]
      obtain ⟨d, isFound⟩ := Option.isSome_iff_exists.1 has
      obtain ⟨j, hj, lathe, kind⟩ := State.findJob_spec isFound
      exact .inr ⟨d, j, (beside.job d).trans ((turn.jobs d j lathe).2 hj), kind, lathe, fun h => by cases h⟩
    | false =>
      have lacks : w.hasJob n .deliver = false := by
        rw [State.hasJob, found]
        exact has
      rw [State.rearm_of_fired wants' out' (by rw [value', now]; exact reached) lacks (by rw [account]) busy]
      obtain ⟨y, isY⟩ : ∃ y, w.setCompare n (.written (due - BitVec.ofNat 32 w.params.lookahead) w.now) = y := ⟨_, rfl⟩
      have besideY : Beside n w y := isY ▸ beside_setCompare n w _
      have accountY : y.account n = w.account n := isY ▸ rfl
      rw [isY]
      refine (State.request_deliver_asks ?_ ((besideY.hasJob n _).trans lacks)).imp id ?_
      · rw [accountY, account]
        exact program_of_supplies h
      · rintro ⟨i, j, hj, kind, lathe, deadline⟩
        rw [accountY, besideY.now, due'] at deadline
        exact ⟨i, j, hj, kind, lathe, fun _ => deadline⟩
  all_goals
    obtain ⟨same, last⟩ := turn.alone alone
    obtain ⟨x, clear', beside', events, account'⟩ := clears s rfl rfl h
    obtain ⟨wants'', out'', value'', now'⟩ := reads s x (Kept.refl s) beside' account'
    rw [last, clear']
  · have busy' : x.shuttleFree = false := beside'.shuttleFree.trans (same ▸ turn.busy)
    obtain ⟨y, isY⟩ : ∃ y, x.setCompare n (.written (due - BitVec.ofNat 32 x.params.lookahead) x.now) = y := ⟨_, rfl⟩
    have besideY : Beside n x y := isY ▸ beside_setCompare n x _
    have accountY : y.account n = x.account n := isY ▸ rfl
    refine ⟨y, beside'.trans besideY, isY ▸ events, by rw [accountY, account'], ?_, ?_⟩
    · rw [accountY, besideY.now]
      exact Account.deliverDeadline_of_out (by rw [account']; exact current) out''
    · rw [State.rearm_of_fired wants'' out'' (by rw [value'', now']; exact reached) ((beside'.hasJob n _).trans lacks)
        (by rw [account']) busy', isY]
  · rw [State.rearm_of_quiet wants'' out'' (.inl (by rw [value'', now']; exact early))]
    exact ⟨beside'.sched, events, beside'.rack⟩

/-- The job made for the one lathe that asks, with nothing deferred (R78, R93, R97). -/
theorem State.asksAlone.made {i : Slot} {g : Program} (asked : s.asksAlone t n due)
    (lacks : s.hasJob n .deliver = false) (slot : s.emptySlot = some i) (deferred : s.sched.deferred = [])
    (program : (s.account n).program = some g) :
    (∀ i', i' ≠ i → t.job i' = s.job i') ∧
      (∀ q, firstLane s.lane g q →
        t.job i = some { madeJob s.nextJobId .deliver n s.now due with lane := some q, claim := true } ∧
          t.events = s.events ∧
          ∀ q', t.lane q' = if q' = q then { s.lane q with claimed := (s.lane q).claimed + 1 } else s.lane q') ∧
      ((∀ q, ¬takesClaim (s.lane q) g) →
        t.job i = some { madeJob s.nextJobId .deliver n s.now due with block := .noStock } ∧ ∀ q', t.lane q' = s.lane q') := by
  obtain ⟨w, beside, events, program', isDue, rfl⟩ := asked
  have programW : (w.account n).program = some g := program'.trans program
  have lacksW := (beside.hasJob n .deliver).trans lacks
  have slotW := beside.emptySlot.trans slot
  have deferredW : w.sched.deferred = [] := by
    rw [beside.sched]
    exact deferred
  obtain ⟨made, others, -, lanes⟩ := State.request_deliver_made programW lacksW slotW deferredW
  have template : w.madeDeliver n = madeJob s.nextJobId .deliver n s.now due := by
    rw [State.madeDeliver, isDue, beside.nextJobId, beside.now]
  rw [template, beside.claimLane] at made
  simp only [beside.claimLane, beside.lane] at lanes
  refine ⟨fun i' other => (others i' other).trans (beside.job i'), fun q first => ?_, fun nowhere => ?_⟩
  · have claims := State.claimLane_of_first first
    refine ⟨?_, ?_, fun q' => ?_⟩
    · rw [made, claims]
      rfl
    · rw [State.request_of_room lacksW slotW deferredW,
        State.createIn_deliver_claim programW ((beside.claimLane g).trans claims)]
      exact events
    · rw [lanes, claims]
      by_cases here : q' = q
      · subst here
        rw [if_pos rfl, if_pos rfl]
      · rw [if_neg (fun h => here (Option.some.inj h).symm), if_neg here]
  · have claims := State.claimLane_of_none nowhere
    refine ⟨?_, fun q' => ?_⟩
    · rw [made, claims]
      rfl
    · rw [lanes, claims]
      exact if_neg fun h => by cases h

end Turns

end Clear

/-! ### The bar entered (R68, R73) -/

section Stock
variable {s : State} {x : Byte} {length lot : BitVec 16} {k : LaneNo}

theorem exec_stock (free : (s.port supervisorPort).replyPending = false) :
    exec (.stock x length lot) s = .next (s.handleStock x length lot) :=
  congrArg Host.Outcome.next (State.taken_of_not_replyPending _ free)

/-- The bar entered and its id answered, the stock gain still to come. -/
def State.stocked (s : State) (k : LaneNo) (length lot : BitVec 16) : State :=
  (s.stockBar k length.toNat lot).answer (barMsg 0x69 s.nextBarId)

theorem LaneRecord.assigned_iff (l : LaneRecord) : l.assigned = true ↔ l.material ≠ 0 := by
  simp [LaneRecord.assigned]

theorem State.handleStock_of_named (named : k.val = x.toNat) (inRange : 1000 ≤ length.toNat ∧ length.toNat ≤ 40000) :
    s.handleStock x length lot =
      if (s.lane k).material = 0 then s.refuseSup 0x69 .laneUnassigned
      else if 12 ≤ (s.lane k).bars.length + (s.lane k).reserved then s.refuseSup 0x69 .laneFull
      else ((s.stocked k length lot).stockGain k).dispatch.clearAll k := by
  unfold State.handleStock
  rw [s.numbered_of_val_eq _ _ _ named]
  rw [if_neg (by simp [inRange.1, inRange.2])]
  by_cases unassigned : (s.lane k).material = 0
  · rw [if_pos unassigned, if_pos (by simp [LaneRecord.assigned, unassigned])]
  · rw [if_neg unassigned, if_neg (by simp [LaneRecord.assigned, unassigned])]
    rfl

theorem State.stocked_lane (s : State) (k q : LaneNo) (length lot : BitVec 16) :
    (s.stocked k length lot).lane q =
      if q = k then
        { s.lane k with
          bars := (s.lane k).bars ++
            [⟨s.nextBarId, length.toNat, lot, k, (s.lane k).material, (s.lane k).diameter, false⟩] }
      else s.lane q := by
  refine (Bank.read_write _ _ _ _).trans ?_
  by_cases here : k = q
  · subst here
    rw [if_pos rfl, if_pos rfl]
    rfl
  · rw [if_neg here, if_neg (Ne.symm here)]
    rfl

end Stock

/-- Settles O39: the refusals, the bar entered, and the turn of each lathe that leaves stock-short. -/
theorem stockEntersBar : Obligations.StockEntersBar := by
  intro x length lot s free badLength
  have run := exec_stock (x := x) (length := length) (lot := lot) free
  refine ⟨fun bad => ?_, fun k named inRange => ?_⟩
  · rw [run, State.handleStock]
    rcases Nat.lt_or_ge 23 x.toNat with beyond | within
    · rw [s.numbered_of_le _ _ _ beyond]
    · have isBad : length.toNat < 1000 ∨ 40000 < length.toNat := bad.resolve_left (Nat.not_lt.2 within)
      rw [s.numbered_of_val_eq (k := ⟨x.toNat, Nat.lt_succ_of_le within⟩) _ _ _ rfl, if_pos (by
        simp only [Bool.not_eq_true', Bool.and_eq_false_iff, decide_eq_false_iff_not]
        omega)]
      exact congrArg Host.Outcome.next (s.refuseSup_eq_reply _ _)
  intro l
  have range : 1000 ≤ length.toNat ∧ length.toNat ≤ 40000 := by
    change ¬(length.toNat < 1000 ∨ 40000 < length.toNat) at inRange
    omega
  rw [State.handleStock_of_named named range] at run
  refine ⟨fun unassigned => ?_, fun assigned full => ?_, fun assigned room => ?_⟩
  · rw [run, if_pos unassigned, s.refuseSup_eq_reply]
    rfl
  · rw [run, if_neg assigned, if_pos full, s.refuseSup_eq_reply]
    rfl
  rw [if_neg assigned, if_neg (Nat.not_le.2 room)] at run
  obtain ⟨m, isM⟩ : ∃ m, s.stocked k length lot = m := ⟨_, rfl⟩
  have laneM (q : LaneNo) := s.stocked_lane k q length lot
  have issued : m.rack.lastBarId = s.nextBarId ∧ m.rack.reject = s.rack.reject := isM ▸ ⟨rfl, rfl⟩
  have queue : (m.port supervisorPort).queue = (s.port supervisorPort).queue ++ [⟨0x55, 0x69 :: b2 s.nextBarId⟩] := by
    rw [← isM]
    exact congrArg Port.queue (State.reply_port_self _ _ _)
  have frame : m = { s with rack := m.rack, ports := m.ports } := isM ▸ rfl
  rw [isM] at run laneM
  have start : Kept s m := by
    rw [frame]
    exact ⟨rfl, rfl, rfl, rfl, rfl, rfl, rfl, rfl, rfl, rfl⟩
  have reach : SchedReach m (m.stockGain k).dispatch := (plan_stockGain m k).toSched.trans (sched_dispatch _)
  obtain ⟨b, isB⟩ : ∃ b, (m.stockGain k).dispatch = b := ⟨_, rfl⟩
  rw [isB] at run reach
  have gained := SchedReach.spared reach
  have account (n : Lathe) : b.account n = s.account n := by
    rw [gained.accounts n List.not_mem_nil, frame]
    rfl
  obtain ⟨claims, own⟩ := gained.lanes k
  rw [laneM, if_pos rfl] at own
  have whole : Spared (List.finRange 12) m (b.clearAll k) := gained.trans (spared_foldl k (List.finRange 12) b)
  have accounts := b.clearAll_account k
  have turns (busy : b.shuttleFree = false) (n : Lathe) := turn_of k n busy
  generalize b.clearAll k = t at *
  refine ⟨t, run, ?_, whole.issued.1.trans issued.1, whole.issued.2.trans issued.2, fun q other => ?_, ?_, fun n => ?_,
    start.trans whole.kept, fun busy => ?_⟩
  · obtain ⟨c, lane⟩ := whole.lanes k
    rw [lane, laneM, if_pos rfl]
  · obtain ⟨c, lane⟩ := whole.lanes q
    rw [lane, laneM, if_neg other]
  · rw [State.port, whole.ports]
    exact queue
  · have h := accounts n
    rw [account, own] at h
    exact h
  intro bar stocked hit wants rearms asked
  have busyM : m.shuttleFree = false := by
    rw [frame]
    exact busy
  have gain : b = m.stockGain k := by
    have keeps := PlanReach.keeps (plan_stockGain m k)
    rw [← isB, State.dispatch_of_busy (keeps.shuttleFree.trans busyM)]
  have tags : SameTags s b := by
    rw [gain]
    exact (SameTags.of_sched (by rw [frame])).trans (sameTags_stockGain k m)
  have busyB : b.shuttleFree = false := by
    rw [gain]
    exact (PlanReach.keeps (plan_stockGain m k)).shuttleFree.trans busyM
  have compare (n : Lathe) : b.compareOf n = s.compareOf n := by
    rw [gained.compares n List.not_mem_nil, frame]
    rfl
  have now : b.now = s.now := start.now ▸ gained.kept.now
  have params : b.params = s.params := gained.kept.params.trans start.params
  have found (n : Lathe) : b.findJob n .deliver = s.findJob n .deliver := tags.findJob n _
  have has (n : Lathe) : b.hasJob n .deliver = s.hasJob n .deliver := by rw [State.hasJob, found, State.hasJob]
  have supplies (n : Lathe) : b.supplies k n = true ↔ hit n := by
    rw [State.supplies, account, own, Bool.and_eq_true]
  have alone {n : Lathe} (only : ∀ n', hit n' → n' = n) (n' : Lathe) (other : n' ≠ n) : b.supplies k n' = false :=
    Bool.eq_false_iff.2 fun h => other (only n' ((supplies n').1 h))
  have stands (unblocked : ∀ i' j, s.job i' = some j → j.block ≠ .noStock) : b = m := by
    rw [gain]
    refine State.stockGain_of_unwanted fun i j hj => unblocked i j ?_
    rw [frame] at hj
    exact hj
  have isAsked {n : Lathe} {due : Time} (asks : t.asks n (b.hasJob n .deliver) due)
      (made : (∀ n', n' ≠ n → b.supplies k n' = false) → b.hasJob n .deliver = false → b.asksAlone t n due) :
      asked n due := by
    rw [has] at asks
    refine ⟨asks, fun i g only unblocked lacks slot deferred program => ?_⟩
    have made := made (alone only) ((has n).trans lacks)
    have isLane : m.lane = stocked := funext laneM
    rw [stands unblocked] at made
    have result := made.made (by rw [frame]; exact lacks) (by rw [frame]; exact slot) (by rw [frame]; exact deferred)
      (by rw [frame]; exact program)
    have job (i' : Slot) : m.job i' = s.job i' := by
      rw [frame]
      rfl
    have nextId : m.nextJobId = s.nextJobId := by
      rw [frame]
      rfl
    have events : m.events = s.events := by rw [frame]
    simp only [isLane, job, nextId, events, start.now] at result
    exact result
  refine ⟨fun n unhit => ?_, ?_, ?_⟩
  · obtain ⟨u, turn⟩ := turns busyB n
    have idle := State.clearShort_of_unsupplied
      ((State.supplies_congr turn.account turn.lanes).trans (Bool.eq_false_iff.2 fun h => unhit ((supplies n).1 h)))
    rw [turn.accountAfter, turn.compareAfter, idle, turn.account, turn.compare]
    exact ⟨account n, compare n⟩
  · rintro n ⟨isHit, await, cradle, barless⟩
    obtain ⟨u, turn⟩ := turns busyB n
    obtain ⟨own, compare', asks, due, made⟩ := turn.awaits ((supplies n).2 isHit) (by rw [account]; exact await)
      (by rw [account]; exact cradle) (by rw [account]; exact barless)
    rw [now] at asks made
    refine ⟨?_, compare'.trans (compare n), isAsked asks made, fun i j isFound hj => ?_⟩
    · rw [own, account, now]
      rfl
    · obtain ⟨j', hj', id, -⟩ := tags.job hj
      refine ⟨_, due i j' ((found n).trans isFound) hj', id, now⟩
  · rintro n held left cyc ⟨isHit, state, current, cradle, armed⟩ out isLeft cycle
    obtain ⟨u, turn⟩ := turns busyB n
    intro due value
    have wantsCompare : (b.account n).wantsCompare = true := by
      rw [account]
      simpa [Account.wantsCompare, current, cradle] using state
    obtain ⟨own, compare', reached, early⟩ := turn.rearms (due := due) ((supplies n).2 isHit) wantsCompare
      (by rw [compare]; exact armed) (by rw [account, now]; exact Account.outAt_used out isLeft cycle)
    rw [now, params] at compare' reached early
    refine ⟨by rw [own, account], compare', fun fires => ?_, fun waits only unblocked => ?_⟩
    · obtain ⟨asks, made⟩ := reached fires
      exact isAsked asks made
    · obtain ⟨sched, events, rack⟩ := early waits (alone only)
      rw [stands unblocked] at sched events rack
      refine ⟨by rw [sched, frame], by rw [events, frame], fun q => ?_⟩
      rw [State.lane, rack]
      exact laneM q

end Sys2Proof.Machine

/-! PROOFS. HALL_TICK in every state (R53, R56, R59 to R61, R101, R124): what the poll and a guard change leave, the
inputs sampled lathe by lathe, and the compares tested last. -/
namespace Sys2Proof.Machine

open Sys2Proof

/-! ### What the poll and a guard change leave -/

/-- What the sequencer's part of a tick leaves, but for the lines of the lathes `l`. -/
structure Tame (l : List Lathe) (s t : State) : Prop where
  account : ∀ n, (t.account n).program = (s.account n).program ∧ (t.account n).stockShort = (s.account n).stockShort
  compares : ∀ n, t.compareOf n = s.compareOf n
  lines : ∀ n, n ∉ l → (t.line n).debounce = (s.line n).debounce ∧ (t.line n).guardClosed = (s.line n).guardClosed ∧
    (t.line n).settle = (s.line n).settle
  bars : ∀ k, (t.lane k).bars = (s.lane k).bars
  kept : Kept s t

section Tame
variable {s t u : State} {l l' : List Lathe} {n : Lathe}

theorem Tame.refl (l : List Lathe) (s : State) : Tame l s s :=
  ⟨fun _ => ⟨rfl, rfl⟩, fun _ => rfl, fun _ _ => ⟨rfl, rfl, rfl⟩, fun _ => rfl, Kept.refl s⟩

theorem Tame.trans (h : Tame l s t) (g : Tame l' t u) : Tame (l ++ l') s u where
  account n := ⟨(g.account n).1.trans (h.account n).1, (g.account n).2.trans (h.account n).2⟩
  compares n := (g.compares n).trans (h.compares n)
  lines n out := by
    rw [List.mem_append, not_or] at out
    obtain ⟨debounce, closed, settle⟩ := h.lines n out.1
    obtain ⟨debounce', closed', settle'⟩ := g.lines n out.2
    exact ⟨debounce'.trans debounce, closed'.trans closed, settle'.trans settle⟩
  bars k := (g.bars k).trans (h.bars k)
  kept := h.kept.trans g.kept

/-- Two steps that leave every line. -/
theorem Tame.then (h : Tame [] s t) (g : Tame [] t u) : Tame [] s u := h.trans g

theorem SchedReach.tame (h : SchedReach s t) : Tame [] s t := by
  have keeps := SchedReach.keeps h
  exact ⟨fun n => by rw [keeps.account]; exact ⟨rfl, rfl⟩, keeps.compares,
    fun n _ => by rw [keeps.line]; exact ⟨rfl, rfl, rfl⟩, keeps.bars, keeps.kept⟩

theorem PlanReach.tame (h : PlanReach s t) : Tame [] s t := SchedReach.tame (PlanReach.toSched h)

theorem tame_setAccount {a : Account} (program : a.program = (s.account n).program)
    (stock : a.stockShort = (s.account n).stockShort) : Tame [] s (s.setAccount n a) := by
  have beside := beside_setAccount n s a
  refine ⟨fun m => ?_, fun _ => rfl, fun _ _ => ⟨rfl, rfl, rfl⟩, fun _ => rfl, beside.kept⟩
  by_cases own : m = n
  · subst own
    rw [State.setAccount_account_self]
    exact ⟨program, stock⟩
  · rw [beside.accounts m own]
    exact ⟨rfl, rfl⟩

theorem tame_goTo (n : Lathe) (s : State) (new : AcctState) : Tame [] s (s.goTo n new) := by
  unfold State.goTo
  dsimp only
  split
  · exact .refl [] s
  · have set : Tame [] s (s.setAccount n { s.account n with state := new }) := tame_setAccount rfl rfl
    exact set.then (PlanReach.tame (plan_post _ _))

theorem tame_evalHold (n : Lathe) (s : State) : Tame [] s (s.evalHold n) := by
  refine ⟨fun m => ?_, fun m => by simp, fun m _ => ?_, fun k => by simp, kept_evalHold s n⟩
  · by_cases own : n = m
    · subst own
      rw [State.evalHold_account_self]
      exact ⟨rfl, rfl⟩
    · rw [State.evalHold_account_ne _ _ _ own]
      exact ⟨rfl, rfl⟩
  · by_cases own : n = m
    · subst own
      rw [State.evalHold_line_self]
      unfold Line.command
      split
      · exact ⟨rfl, rfl, rfl⟩
      · split <;> exact ⟨rfl, rfl, rfl⟩
    · rw [State.evalHold_line_ne _ _ _ own]
      exact ⟨rfl, rfl, rfl⟩

theorem tame_notice (n : Lathe) (m : Msg) (s : State) : Tame [] s (s.notice n m) :=
  ⟨fun _ => ⟨rfl, rfl⟩, fun _ => rfl, fun _ _ => ⟨rfl, rfl, rfl⟩, fun _ => rfl,
    ⟨rfl, rfl, rfl, rfl, rfl, rfl, rfl, rfl, rfl, rfl⟩⟩

theorem tame_actOnCradle (n : Lathe) (s : State) : Tame [] s (s.actOnCradle n) := by
  unfold State.actOnCradle
  split
  · split
    · exact tame_goTo n s _
    · next c _ _ =>
      have set : Tame [] (s.goTo n .loading) (s.goTo n .loading |>.setAccount n
          { (s.goTo n .loading).account n with
            cradle := some { c with loading := true }
            loadTimer := .running s.params.loadLimit }) := tame_setAccount rfl rfl
      exact ((tame_goTo n s _).then set).then (tame_notice n _ _)
  · exact (tame_goTo n s _).then (SchedReach.tame (sched_wantBar _ n))

theorem tame_returnDeparted (n : Lathe) (s : State) : Tame [] s (s.returnDeparted n) := by
  unfold State.returnDeparted
  split
  · exact (tame_actOnCradle n s).then (tame_evalHold n _)
  · exact .refl [] s

theorem tame_removeActive (i : Slot) (s : State) : Tame [] s (s.removeActive i) := by
  have departs (u : State) (j : Job) : Tame [] u (u.departed j) := by
    unfold State.departed
    split
    · exact tame_returnDeparted _ u
    · exact .refl [] u
  unfold State.removeActive
  split
  · exact .refl [] s
  · next j _ =>
    have left : SchedReach s
        ((((((s.stopJobTimers.releaseClaim j).setSeq .clear).releaseShuttle).vacate i).serveDeferred).gainOfRelease j) :=
      ((((((sched_stopJobTimers s).trans (plan_releaseClaim _ j).toSched).trans (sched_seq _ _)).trans
        (sched_releaseShuttle _)).trans (plan_vacate _ i).toSched).trans (plan_serveDeferred _).toSched).trans
        (plan_gainOfRelease _ j).toSched
    exact ((SchedReach.tame left).then (departs _ j)).then (SchedReach.tame (sched_dispatch _))

theorem tame_completeActive (i : Slot) (s : State) : Tame [] s (s.completeActive i .unpicked) := by
  unfold State.completeActive
  split
  · exact .refl [] s
  · next j _ =>
    have left : SchedReach s ((((((s.jobDone j).setSeq .clear).releaseShuttle).vacate i).serveDeferred)) :=
      ((((plan_jobDone s j).toSched.trans (sched_seq _ .clear)).trans (sched_releaseShuttle _)).trans
        (plan_vacate _ i).toSched).trans (plan_serveDeferred _).toSched
    exact ((SchedReach.tame left).then (tame_returnDeparted _ _)).then (SchedReach.tame (sched_dispatch _))

theorem tame_takeUp (s : State) : Tame [] s s.takeUp := by
  unfold State.takeUp
  dsimp only
  split
  · exact SchedReach.tame (sched_beginStep s)
  · split
    · exact (SchedReach.tame (sched_beginStep s)).then (tame_completeActive _ _)
    · exact SchedReach.tame ((sched_beginStep s).trans (sched_checkAndIssue _))

theorem tame_declareFault (s : State) (c : FaultCode) (d : Byte) (o : OutOrder) : Tame [] s (s.declareFault c d o) := by
  have freezes (u : State) : Tame [] u (u.freezeStep o) := by
    have frozen := (sched_seq u { u.seq with phase := .unissued }).trans (sched_dropInFlight _ o)
    unfold State.freezeStep
    dsimp only
    split
    · split
      · exact (SchedReach.tame frozen).then (tame_removeActive _ _)
      · exact SchedReach.tame frozen
    · exact SchedReach.tame frozen
  unfold State.declareFault
  dsimp only
  have stopped (x : Shuttle) := SchedReach.tame ((sched_stepTimer s .stopped).trans (sched_shuttle _ x))
  split
  · exact ((stopped _).then (freezes _)).then (PlanReach.tame (plan_post _ _))
  · exact (stopped _).then (PlanReach.tame (plan_post _ _))

theorem tame_poll (w : Word) (s : State) : Tame [] s (s.poll w) := by
  have evaluates (u : State) (o : OutOrder) : Tame [] u (u.evaluatePoll w o) := by
    have noted : Tame [] u (u.noteStatus w) := SchedReach.tame (sched_shuttle u _)
    unfold State.evaluatePoll
    split
    · exact SchedReach.tame (sched_shuttle u _)
    · dsimp only
      split
      · exact noted.then (tame_declareFault _ _ _ o)
      · split
        · exact noted.then (tame_declareFault _ _ _ o)
        · exact noted
  unfold State.poll
  split
  · exact .refl [] s
  · split
    · exact .refl [] s
    · dsimp only
      split
      · exact (SchedReach.tame (sched_exchange s _)).then (evaluates _ _)
      · exact SchedReach.tame ((sched_exchange s _).trans (sched_shuttle _ _))

theorem tame_guardChanged (n : Lathe) (closed : Bool) (s : State) : Tame [] s (s.guardChanged n closed) := by
  have posted : Tame [] s (if s.params.guardReport.getLsbD n.val = true then
      s.post (event .guardChange (if closed then 0 else 1) (lathe := some n)) else s) := by
    split
    · exact PlanReach.tame (plan_post s _)
    · exact .refl [] s
  have ends (u : State) : Tame [] u (u.endGuardWait n) := by
    unfold State.endGuardWait
    split
    · split
      · exact (SchedReach.tame (sched_guardWait u _)).then (tame_takeUp _)
      · exact .refl [] u
    · exact .refl [] u
  obtain ⟨p, isP⟩ : ∃ p, (if s.params.guardReport.getLsbD n.val = true then
      s.post (event .guardChange (if closed then 0 else 1) (lathe := some n)) else s) = p := ⟨_, rfl⟩
  rw [isP] at posted
  unfold State.guardChanged
  dsimp only
  rw [isP]
  cases closed with
  | true =>
    rw [if_pos rfl]
    exact (posted.then (ends p)).then (SchedReach.tame (sched_clearParked (p.endGuardWait n) n))
  | false => exact posted

/-! ### GUARD inputs sampled lathe by lathe (R60) -/

/-- GUARD of a line after a sample at level `closed`. -/
def Line.sampled (l : Line) (seen closed : Bool) : Bool × Nat :=
  (if seen = false ∨ (l.settle ≠ 0 ∧ closed ≠ l.guardClosed) then closed else l.guardClosed,
    if seen = false then l.settle else if closed ≠ l.guardClosed ∧ l.settle = 0 then 1 else 0)

theorem sampleGuard_spec (n : Lathe) (closed : Bool) (s : State) :
    Tame [n] s (s.sampleGuard n closed) ∧
      ((s.sampleGuard n closed).line n).debounce = (s.line n).debounce ∧
      ((s.sampleGuard n closed).line n).guardClosed = ((s.line n).sampled s.guardSeen closed).1 ∧
      ((s.sampleGuard n closed).line n).settle = ((s.line n).sampled s.guardSeen closed).2 := by
  have sets (x : Line) : Tame [n] s (s.setLine n x) :=
    ⟨fun _ => ⟨rfl, rfl⟩, fun _ => rfl, fun m out => by
      rw [State.setLine_line_ne _ _ _ _ (fun own => out (by rw [own]; exact List.mem_singleton.2 rfl))]
      exact ⟨rfl, rfl, rfl⟩, fun _ => rfl, ⟨rfl, rfl, rfl, rfl, rfl, rfl, rfl, rfl, rfl, rfl⟩⟩
  unfold State.sampleGuard Line.sampled
  dsimp only
  cases seen : s.guardSeen with
  | false =>
    refine ⟨sets _, ?_⟩
    simp
  | true =>
    by_cases same : closed = (s.line n).guardClosed
    · rw [if_neg (by decide), if_pos same]
      refine ⟨sets _, ?_⟩
      simp [same]
    · by_cases settled : (s.line n).settle = 0
      · rw [if_neg (by decide), if_neg same, if_pos settled]
        refine ⟨sets _, ?_⟩
        simp [same, settled]
      · rw [if_neg (by decide), if_neg same, if_neg settled]
        have changed := tame_guardChanged n closed (s.setLine n { s.line n with guardClosed := closed, settle := 0 })
        refine ⟨(sets _).trans changed, ?_⟩
        obtain ⟨debounce, isClosed, settle⟩ := changed.lines n List.not_mem_nil
        rw [debounce, isClosed, settle]
        simp [same, settled]

theorem tame_foldl_sampleGuard {guards : BitVec 12} (l : List Lathe) (s : State) :
    Tame l s (l.foldl (fun s n => s.sampleGuard n (guards.getLsbD n.val)) s) := by
  induction l generalizing s with
  | nil => exact .refl [] s
  | cons n l ih => exact (sampleGuard_spec n _ s).1.trans (ih _)

/-- Every GUARD after the samples of a tick (R60). -/
theorem sampleGuards_spec (guards : BitVec 12) (s : State) (n : Lathe) :
    ((s.sampleGuards guards).line n).debounce = (s.line n).debounce ∧
      ((s.sampleGuards guards).line n).guardClosed = ((s.line n).sampled s.guardSeen (guards.getLsbD n.val)).1 ∧
      ((s.sampleGuards guards).line n).settle = ((s.line n).sampled s.guardSeen (guards.getLsbD n.val)).2 := by
  obtain ⟨before, after, out, out', split⟩ := turns_of n
  obtain ⟨u, isU⟩ : ∃ u, before.foldl (fun s n => s.sampleGuard n (guards.getLsbD n.val)) s = u := ⟨_, rfl⟩
  have first : Tame before s u := isU ▸ tame_foldl_sampleGuard before s
  obtain ⟨-, debounce, closed, settle⟩ := sampleGuard_spec n (guards.getLsbD n.val) u
  have last := tame_foldl_sampleGuard (guards := guards) after (u.sampleGuard n (guards.getLsbD n.val))
  obtain ⟨debounce', closed', settle'⟩ := last.lines n out'
  obtain ⟨debounce₀, closed₀, settle₀⟩ := first.lines n out
  rw [first.kept.guardSeen, Line.sampled, closed₀, settle₀] at closed settle
  have whole : (s.sampleGuards guards).line n =
      (after.foldl (fun s n => s.sampleGuard n (guards.getLsbD n.val)) (u.sampleGuard n (guards.getLsbD n.val))).line n := by
    unfold State.sampleGuards
    rw [show allLathes = before ++ n :: after from split, List.foldl_append, isU, List.foldl_cons]
    rfl
  rw [whole]
  exact ⟨debounce'.trans (debounce.trans debounce₀), closed'.trans closed, settle'.trans settle⟩

end Tame

/-! ### What a guard change posts (R61, log 20) -/

/-- Every event kind but GUARD_CHANGE. -/
def otherThanGuard (k : EventKind) : Prop := k ≠ .guardChange

section Posted
variable {s : State} {n : Lathe}

theorem posts_actOnCradle (n : Lathe) (s : State) : Posts otherThanGuard s (s.actOnCradle n) := by
  have told : otherThanGuard .latheState := by
    unfold otherThanGuard
    decide
  have noStock : otherThanGuard .noStock := by
    unfold otherThanGuard
    decide
  unfold State.actOnCradle
  split
  · split
    · exact posts_goTo s n told _
    · exact (posts_goTo s n told _).trans (posts_of_events (by rw [State.notice_events]; rfl))
  · exact (posts_goTo s n told _).trans (posts_wantBar _ noStock n)

theorem posts_returnDeparted (n : Lathe) (s : State) : Posts otherThanGuard s (s.returnDeparted n) := by
  unfold State.returnDeparted
  split
  · exact (posts_actOnCradle n s).trans (posts_of_events (State.evalHold_events _ _))
  · exact .refl s

theorem posts_jobDone (s : State) (j : Job) : Posts otherThanGuard s (s.jobDone j) := by
  have done : otherThanGuard .jobDone := by
    unfold otherThanGuard
    decide
  unfold State.jobDone
  split
  · exact posts_post done
  · exact posts_post done
  · exact .refl s

theorem posts_unpicked (i : Slot) (s : State) : Posts otherThanGuard s (s.completeActive i .unpicked) := by
  unfold State.completeActive
  split
  · exact .refl s
  · next j _ =>
    have vacated : ((((s.jobDone j).setSeq .clear).releaseShuttle).vacate i).events = (s.jobDone j).events := by
      rw [State.releaseShuttle_frame]
      rfl
    have noStock : otherThanGuard .noStock := by
      unfold otherThanGuard
      decide
    exact ((((posts_jobDone s j).trans (posts_of_events vacated)).trans (posts_serveFrom noStock _ _)).trans
      (posts_returnDeparted j.lathe _)).trans (posts_of_events (State.dispatch_events _))

theorem posts_checkAndIssue (s : State) : Posts otherThanGuard s s.checkAndIssue := by
  have wait : otherThanGuard .rejectFull ∧ otherThanGuard .binWait := by
    unfold otherThanGuard
    decide
  unfold State.checkAndIssue
  split
  · exact .refl s
  · split
    · exact .refl s
    · split
      · exact posts_of_events rfl
      · split
        · split
          · exact posts_of_events (s.issueStep_events _ _)
          · exact (posts_of_events rfl).trans (posts_post wait.1)
        · split
          · exact posts_of_events (s.issueStep_events _ _)
          · exact (posts_of_events rfl).trans (posts_post wait.2)
        · exact posts_of_events (s.issueStep_events _ _)

theorem posts_endGuardWait (n : Lathe) (s : State) : Posts otherThanGuard s (s.endGuardWait n) := by
  have takes (u : State) : Posts otherThanGuard u u.takeUp := by
    unfold State.takeUp
    dsimp only
    split
    · exact posts_of_events rfl
    · split
      · exact (posts_of_events rfl).trans (posts_unpicked _ u.beginStep)
      · exact (posts_of_events rfl).trans (posts_checkAndIssue u.beginStep)
  unfold State.endGuardWait
  split
  · split
    · exact (posts_of_events rfl).trans (takes (s.setGuardWait .stopped))
    · exact .refl s
  · exact .refl s

theorem State.clearParked_events (s : State) (n : Lathe) : (s.clearParked n).events = s.events := by
  have unparks (u : State) (i : Slot) : (u.unpark n i).events = u.events := by
    unfold State.unpark
    split
    · split
      · exact State.evalBinBlock_events _ _
      · rfl
    · rfl
  have all (l : List Slot) (u : State) : (l.foldl (fun s i => s.unpark n i) u).events = u.events := by
    induction l generalizing u with
    | nil => rfl
    | cons i l ih => exact (ih _).trans (unparks u i)
  exact (State.dispatch_events _).trans (all allSlots s)

/-- GUARD_CHANGE comes first, if it is reported (R61, log 20). -/
theorem posts_guardChanged (n : Lathe) (closed : Bool) (s : State) (room : s.events.records.length < 64) :
    ∃ more, (s.guardChanged n closed).events.records = s.events.records ++
        ((if s.params.guardReport.getLsbD n.val = true then
          [⟨.guardChange, s.now, some n, none, none, none, if closed then 0 else 1⟩] else []) ++ more) ∧
      ∀ e ∈ more, e.kind ≠ .guardChange := by
  obtain ⟨p, isP⟩ : ∃ p, (if s.params.guardReport.getLsbD n.val = true then
      s.post (event .guardChange (if closed then 0 else 1) (lathe := some n)) else s) = p := ⟨_, rfl⟩
  have first : p.events.records = s.events.records ++ (if s.params.guardReport.getLsbD n.val = true then
      [⟨.guardChange, s.now, some n, none, none, none, if closed then 0 else 1⟩] else []) := by
    rw [← isP]
    by_cases report : s.params.guardReport.getLsbD n.val = true
    · rw [if_pos report, if_pos report, State.post_records _ room]
      rfl
    · rw [if_neg report, if_neg report, List.append_nil]
  have rest : Posts otherThanGuard p (s.guardChanged n closed) := by
    unfold State.guardChanged
    dsimp only
    rw [isP]
    cases closed with
    | true =>
      rw [if_pos rfl]
      exact (posts_endGuardWait n p).trans (posts_of_events (State.clearParked_events _ _))
    | false => exact .refl p
  obtain ⟨more, records, kinds⟩ := rest
  exact ⟨more, by rw [records, first, List.append_assoc], kinds⟩

end Posted

/-! ### The compares tested last (R46, R59, log 33) -/

section Compares
variable {s : State} {n : Lathe}

/-- What the tests of the compares of lathes `l` leave. -/
structure Tested (l : List Lathe) (s t : State) : Prop where
  accounts : ∀ n, t.account n = s.account n
  compares : ∀ n, n ∉ l → t.compareOf n = s.compareOf n
  lines : ∀ n, t.line n = s.line n
  bars : ∀ k, (t.lane k).bars = (s.lane k).bars
  kept : Kept s t
  jobs : JobsStay s t

theorem Tested.trans {l l' : List Lathe} {t u : State} (h : Tested l s t) (g : Tested l' t u) : Tested (l ++ l') s u where
  accounts n := (g.accounts n).trans (h.accounts n)
  compares n out := by
    rw [List.mem_append, not_or] at out
    exact (g.compares n out.2).trans (h.compares n out.1)
  lines n := (g.lines n).trans (h.lines n)
  bars k := (g.bars k).trans (h.bars k)
  kept := h.kept.trans g.kept
  jobs := h.jobs.trans g.jobs

/-- The test of one compare: spent where it is reached, and a DELIVER job asked for (R46, R59). -/
theorem testCompare_spec (n : Lathe) (s : State) :
    Tested [n] s (s.testCompare n) ∧
      (s.testCompare n).compareOf n =
        (if s.reaches n s.now then { s.compareOf n with spent := true } else s.compareOf n) ∧
      (s.reaches n s.now = true → (s.account n).program.isSome = true →
        (s.testCompare n).hasJob n .deliver = true ∨ (n, JobKind.deliver) ∈ (s.testCompare n).sched.deferred ∨
          (s.account n).stockShort = true) := by
  obtain ⟨v, isV⟩ : ∃ v, s.setCompare n { s.compareOf n with spent := true } = v := ⟨_, rfl⟩
  have tests : s.testCompare n = if s.reaches n s.now then v.deliverOnFire n else s := by
    unfold State.testCompare State.reaches
    dsimp only
    rw [isV]
  have beside : Beside n s v := isV ▸ beside_setCompare n s _
  rw [tests]
  cases reached : s.reaches n s.now with
  | false => exact ⟨⟨fun _ => rfl, fun _ _ => rfl, fun _ => rfl, fun _ => rfl, Kept.refl s, jobsStay_of_sched rfl⟩, rfl,
      fun h => by cases h⟩
  | true =>
    rw [if_pos rfl, if_pos rfl]
    have keeps : SchedKeeps v (v.deliverOnFire n) := SchedReach.keeps (sched_fireIf v n true)
    have account (m : Lathe) : v.account m = s.account m := isV ▸ rfl
    have stays : JobsStay v (v.deliverOnFire n) := by
      unfold State.deliverOnFire
      split
      · exact jobsStay_of_sched rfl
      · exact (jobsStay_request n .deliver).trans (jobsStay_dispatch _)
    refine ⟨⟨fun m => (keeps.account m).trans (account m), fun m out => ?_, fun m => (keeps.line m).trans (isV ▸ rfl),
      fun k => (keeps.bars k).trans (isV ▸ rfl), beside.kept.trans keeps.kept, (jobsStay_of_sched beside.sched).trans stays⟩,
      ?_, fun _ program => ?_⟩
    · rw [keeps.compares, beside.compares m fun own => out (List.mem_singleton.2 own)]
    · rw [keeps.compares, ← isV]
      exact State.setCompare_compareOf_self _ _ _
    · cases short : (s.account n).stockShort with
      | true => exact .inr (.inr rfl)
      | false =>
        cases has : v.hasJob n .deliver with
        | true => exact .inl (stays.hasJob has)
        | false =>
          have asks : v.deliverOnFire n = (v.request n .deliver).dispatch := by
            rw [State.deliverOnFire, if_neg (by rw [has, account, short]; decide)]
          rw [asks]
          have asked : (v.request n .deliver).hasJob n .deliver = true ∨
              (n, JobKind.deliver) ∈ (v.request n .deliver).sched.deferred := by
            rcases State.request_deliver_asks (by rw [account]; exact program) has with listed | ⟨i, j, hj, kind, lathe, -⟩
            · exact .inr listed
            · refine .inl ?_
              rw [State.hasJob, State.findJob, List.find?_isSome]
              exact ⟨i, List.mem_finRange i, by simp [State.isJobOf, hj, lathe, kind]⟩
          exact (JobsStay.asked (jobsStay_dispatch _) asked).imp id .inl

theorem tested_foldl (l : List Lathe) (s : State) : Tested l s (l.foldl (fun s n => s.testCompare n) s) := by
  induction l generalizing s with
  | nil => exact ⟨fun _ => rfl, fun _ _ => rfl, fun _ => rfl, fun _ => rfl, Kept.refl s, jobsStay_of_sched rfl⟩
  | cons n l ih => exact (testCompare_spec n s).1.trans (ih _)

theorem testCompares_spec (n : Lathe) (s : State) :
    s.testCompares.compareOf n =
        (if s.reaches n s.now then { s.compareOf n with spent := true } else s.compareOf n) ∧
      (s.reaches n s.now = true → (s.account n).program.isSome = true →
        s.testCompares.hasJob n .deliver = true ∨ (n, JobKind.deliver) ∈ s.testCompares.sched.deferred ∨
          (s.account n).stockShort = true) := by
  obtain ⟨before, after, out, out', split⟩ := turns_of n
  obtain ⟨u, isU⟩ : ∃ u, before.foldl (fun s n => s.testCompare n) s = u := ⟨_, rfl⟩
  have whole : s.testCompares = after.foldl (fun s n => s.testCompare n) (u.testCompare n) := by
    unfold State.testCompares
    rw [show allLathes = before ++ n :: after from split, List.foldl_append, isU, List.foldl_cons]
  have first : Tested before s u := isU ▸ tested_foldl before s
  obtain ⟨-, compare, asked⟩ := testCompare_spec n u
  have last := tested_foldl after (u.testCompare n)
  rw [← whole] at last
  have reaches : u.reaches n u.now = s.reaches n s.now := by
    rw [State.reaches, first.compares n out, first.kept.now, State.reaches]
  rw [reaches, first.compares n out] at compare
  rw [reaches, first.accounts] at asked
  refine ⟨(last.compares n out').trans compare, fun reached program => ?_⟩
  rcases asked reached program with has | listed | short
  · exact .inl (last.jobs.hasJob has)
  · exact .inr (.inl (last.jobs.deferred _ listed))
  · exact .inr (.inr short)

end Compares

/-! ### The sequencer's answer to a guard that closes (R101, R124) -/

section Closes
variable {s : State} {n : Lathe} {i : Slot} {j : Job}

theorem State.unpark_job_ne {i' : Slot} (h : i' ≠ i) : (s.unpark n i').job i = s.job i := by
  unfold State.unpark
  split
  · split
    · rw [State.evalBinBlock_job_ne h, State.setSlot_job_ne _ _ _ _ h]
    · rfl
  · rfl

theorem State.unpark_frame (s : State) (n : Lathe) (i : Slot) : s.unpark n i = s.setSched (s.unpark n i).sched := by
  unfold State.unpark
  split
  · split
    · refine (State.evalBinBlock_frame _ i).trans ?_
      generalize (State.evalBinBlock _ i).sched = x
      rfl
    · rfl
  · rfl

theorem foldl_unpark_frame (n : Lathe) (l : List Slot) (s : State) :
    l.foldl (fun s i => s.unpark n i) s = s.setSched (l.foldl (fun s i => s.unpark n i) s).sched := by
  induction l generalizing s with
  | nil => rfl
  | cons i l ih =>
    rw [List.foldl_cons]
    refine (ih _).trans ?_
    generalize (List.foldl (fun s i => s.unpark n i) (s.unpark n i) l).sched = x
    rw [s.unpark_frame n i]
    rfl

theorem foldl_unpark_job_ne (n : Lathe) (l : List Slot) (s : State) (out : i ∉ l) :
    (l.foldl (fun s i => s.unpark n i) s).job i = s.job i := by
  induction l generalizing s with
  | nil => rfl
  | cons i' l ih =>
    rw [List.mem_cons, not_or] at out
    exact (ih _ out.2).trans (State.unpark_job_ne (Ne.symm out.1))

/-- With the shuttle not free the clearing of GUARD_PARKED is the schedule's alone, slot by slot (R101). -/
theorem State.clearParked_of_busy (busy : s.shuttleFree = false) (n : Lathe) :
    s.clearParked n = s.setSched (s.clearParked n).sched ∧
      ∀ i, ∃ u : State, (s.clearParked n).job i = (u.unpark n i).job i ∧ u.job i = s.job i ∧ u = s.setSched u.sched := by
  obtain ⟨f, isF⟩ : ∃ f, allSlots.foldl (fun s i => s.unpark n i) s = f := ⟨_, rfl⟩
  have frame := foldl_unpark_frame n allSlots s
  rw [isF] at frame
  have whole : s.clearParked n = f := by
    have busy' : f.shuttleFree = false := by
      rw [frame]
      exact busy
    unfold State.clearParked
    rw [isF, State.dispatch_of_busy busy']
  rw [whole]
  refine ⟨frame, fun i => ?_⟩
  obtain ⟨before, after, split⟩ := List.append_of_mem (show i ∈ allSlots from List.mem_finRange i)
  have nodup : allSlots.Nodup := List.nodup_finRange _
  rw [split, List.nodup_append, List.nodup_cons] at nodup
  refine ⟨before.foldl (fun s i => s.unpark n i) s, ?_, ?_, foldl_unpark_frame n before s⟩
  · rw [← isF, split, List.foldl_append, List.foldl_cons, foldl_unpark_job_ne n after _ nodup.2.1.1]
  · exact foldl_unpark_job_ne n before s fun mem => nodup.2.2 i mem i List.mem_cons_self rfl

/-- A WAITING job freed of GUARD_PARKED, if it is lathe `n`'s (R101). -/
theorem State.unpark_job (hj : s.job i = some j) (waits : j.state = .waiting) (parked : j.block = .guardParked) :
    (j.lathe ≠ n → (s.unpark n i).job i = some j) ∧
      (j.lathe = n → ∃ block, (s.unpark n i).job i = some { j with block := block } ∧
        (j.kind ≠ .collect → block = .none) ∧
        ∀ b g, j.kind = .collect → j.bin = some b → (s.account n).program = some g →
          block = gateOf (s.bin b) g.capacity) := by
  refine ⟨fun other => ?_, fun own => ?_⟩
  · unfold State.unpark
    rw [hj]
    simp only
    rw [if_neg (by simp [other]), hj]
  · obtain ⟨u, isU⟩ : ∃ u, s.setSlot i (some { j with block := .none }) = u := ⟨_, rfl⟩
    have freed : s.unpark n i = u.evalBinBlock i := by
      unfold State.unpark
      rw [hj]
      simp only
      rw [if_pos (by simp [own, parked]), isU]
    have hu : u.job i = some { j with block := .none } := isU ▸ State.setSlot_job_self _ _ _
    have account : u.account j.lathe = s.account n := by
      rw [← isU, own]
      rfl
    have bin (b : BinNo) : u.bin b = s.bin b := isU ▸ rfl
    rw [freed]
    by_cases collect : j.kind = .collect
    · cases hasBin : j.bin with
      | none =>
        refine ⟨.none, ?_, fun h => absurd collect h, fun b g _ h => by cases h⟩
        unfold State.evalBinBlock
        rw [hu]
        simp only [hasBin]
        rw [hu, hasBin]
      | some b =>
        refine ⟨u.gate j.lathe b, ?_, fun h => absurd collect h, fun b' g _ h program => ?_⟩
        · unfold State.evalBinBlock
          rw [hu]
          simp only [hasBin, collect, waits]
          exact State.setSlot_job_self _ _ _
        · cases h
          rw [State.gate, account, program, bin, ← Bin.gate_eq]
    · refine ⟨.none, ?_, fun _ => rfl, fun b g h => absurd h collect⟩
      have stays : u.evalBinBlock i = u := by
        unfold State.evalBinBlock
        rw [hu]
        simp only
        split
        · rfl
        · rw [if_pos (by simpa using collect)]
      rw [stays, hu]

/-- A guard wait ends with its order issued (R124). -/
theorem State.endGuardWait_issues {k : OrderKind} (active : s.active = some (i, j)) (waits : s.seq.phase = .guardPending)
    (own : j.lathe = n) (order : j.order = some ⟨k, .lathe n⟩) (closed : (s.line n).guardClosed = true)
    (something : s.nothingToPick j = false) :
    (s.endGuardWait n).shuttle = s.shuttle.issued k (.lathe n) s.shuttle.load.speed ∧
      (s.endGuardWait n).seq.phase = .outstanding ∧ (s.endGuardWait n).seq.job = some i ∧
      (s.endGuardWait n).timer.guardWait = .stopped ∧
      (s.endGuardWait n).timer.stepTimer =
        .running (if k = .move then s.params.stepLimitMove else s.params.stepLimitHandle) := by
  obtain ⟨r, isR⟩ : ∃ r, (s.setGuardWait .stopped).beginStep = r := ⟨_, rfl⟩
  have activeR : r.active = some (i, j) := isR ▸ active
  have passes : r.guardPasses (.lathe n) = true := isR ▸ closed
  have ends : s.endGuardWait n = r.issueStep j ⟨k, .lathe n⟩ := by
    unfold State.endGuardWait
    rw [active]
    simp only
    rw [if_pos (by simp [waits, own]), State.takeUp_of_active (s := s.setGuardWait .stopped) active something, isR,
      State.checkAndIssue_of_clear activeR order passes (fun h => by cases h.1) (by rintro ⟨b, h, -⟩; cases h)]
  obtain ⟨shuttle, seq, timer, -, -⟩ := r.issueStep_fields j ⟨k, .lathe n⟩
  have limit : r.params.stepLimit k = if k = .move then s.params.stepLimitMove else s.params.stepLimitHandle := by
    have notHome := Job.order_kind_ne_home order
    rw [← isR]
    cases k with
    | home => exact absurd rfl notHome
    | _ => rfl
  rw [ends, shuttle, seq, timer, limit, ← isR]
  exact ⟨rfl, rfl, (State.active_eq_some.1 active).1, rfl, rfl⟩

end Closes

/-! ### A tick's samples -/

section Samples
variable {s p : State} {guards hsense : BitVec 12} {shin : BitVec 64} {n : Lathe}

/-- A line sensed is sampled as it stands (R63). -/
theorem Line.sense_guard (l : Line) (sensed : Bool) :
    (l.sense sensed).debounce = l.debounce ∧ (l.sense sensed).guardClosed = l.guardClosed ∧
      (l.sense sensed).settle = l.settle := by
  unfold Line.sense
  split <;> exact ⟨rfl, rfl, rfl⟩

/-- What comes after the samples of GUARD: HOLD sense and the levels seen. -/
theorem State.sampled_frame (s : State) (guards hsense : BitVec 12) (shin : BitVec 64) :
    ∃ g events, (s.countTick.poll (statusShifted shin)).sampleGuards guards = g ∧
      s.sampled guards hsense shin =
        { g with
          lines := g.lines.eachAt fun n x => x.sense (hsense.getLsbD n.val)
          events := events
          pins := { g.pins with guards := guards, hsense := hsense } } ∧
      ∃ more, events.records = g.events.records ++ more ∧ ∀ e ∈ more, e.kind = .holdMismatch := by
  obtain ⟨g, isG⟩ : ∃ g, (s.countTick.poll (statusShifted shin)).sampleGuards guards = g := ⟨_, rfl⟩
  obtain ⟨events, eq, posted, -⟩ := g.senseHolds_eq hsense
  refine ⟨g, events, isG, ?_, posted⟩
  rw [State.sampled, isG, eq]
  rfl

/-- One GUARD that changes among twelve (R60, R61). -/
theorem sampleGuards_of_one (seen : s.guardSeen = true) (settled : (s.line n).settle ≠ 0)
    (only : ∀ m : Lathe, guards.getLsbD m.val ≠ (s.line m).guardClosed ↔ m = n) :
    ∃ c : State, c = { s with lines := c.lines } ∧ (c.line n).guardClosed = guards.getLsbD n.val ∧
      ∃ lines, s.sampleGuards guards =
        { c.guardChanged n (guards.getLsbD n.val) with lines := lines, guardSeen := true } := by
  obtain ⟨before, after, out, out', split⟩ := turns_of n
  have nodup := List.nodup_finRange 12
  rw [split, List.nodup_append, List.nodup_cons] at nodup
  have same {m : Lathe} (other : m ≠ n) : guards.getLsbD m.val = (s.line m).guardClosed := by
    by_contra differs
    exact other ((only m).1 differs)
  obtain ⟨b, isB⟩ : ∃ b, before.foldl (fun s n => s.sampleGuard n (guards.getLsbD n.val)) s = b := ⟨_, rfl⟩
  have quiet := foldl_sampleGuard_quiet before s nodup.1 seen fun m mem => same fun own => out (own ▸ mem)
  rw [isB] at quiet
  have spared : Tame before s b := isB ▸ tame_foldl_sampleGuard before s
  obtain ⟨-, closed, settle⟩ := spared.lines n out
  obtain ⟨c, isC⟩ : ∃ c, b.setLine n { b.line n with guardClosed := guards.getLsbD n.val, settle := 0 } = c := ⟨_, rfl⟩
  have changes : b.sampleGuard n (guards.getLsbD n.val) = c.guardChanged n (guards.getLsbD n.val) := by
    have seenB : b.guardSeen = true := spared.kept.guardSeen.trans seen
    unfold State.sampleGuard
    simp only
    rw [if_neg (by rw [seenB]; decide), closed, if_neg ((only n).2 rfl), settle, if_neg settled, ← isC]
  have told := tame_guardChanged n (guards.getLsbD n.val) c
  obtain ⟨q, isQ⟩ : ∃ q, c.guardChanged n (guards.getLsbD n.val) = q := ⟨_, rfl⟩
  rw [isQ] at changes told
  have set := (sampleGuard_spec n (guards.getLsbD n.val) b).1
  rw [changes] at set
  have whole := spared.trans set
  have seenQ : q.guardSeen = true := whole.kept.guardSeen.trans seen
  have rest := foldl_sampleGuard_quiet (guards := guards) after q nodup.2.1.2 seenQ fun m mem => by
    have other : m ≠ n := fun own => out' (own ▸ mem)
    have outM : m ∉ before ++ [n] := by
      rw [List.mem_append, List.mem_singleton, not_or]
      exact ⟨fun mem' => nodup.2.2 m mem' m (List.mem_cons_of_mem _ mem) rfl, other⟩
    obtain ⟨-, closedM, -⟩ := whole.lines m outM
    rw [closedM]
    exact same other
  refine ⟨c, ?_, ?_, (q.lines.eachAt fun n x => if n ∈ after then { x with settle := 0 } else x), ?_⟩
  · rw [← isC, quiet]
    rfl
  · rw [← isC, State.setLine_line_self]
  · unfold State.sampleGuards
    rw [show allLathes = before ++ n :: after from split, List.foldl_append, isB, List.foldl_cons, changes, rest, isQ]
    rfl

/-- With no order outstanding and one GUARD that changes, a tick is its counts, that change and what the lines and the
event queue take. -/
theorem sampled_of_one (seen : s.guardSeen = true) (idle : s.shuttle.outstanding = none) (settled : (s.line n).settle ≠ 0)
    (only : ∀ m : Lathe, guards.getLsbD m.val ≠ (s.line m).guardClosed ↔ m = n) :
    ∃ (c : State) (lines : Bank Line 12) (events : EventQueue) (pins : Pins), c = { s.countTick with lines := c.lines } ∧
      (c.line n).guardClosed = guards.getLsbD n.val ∧
      s.sampled guards hsense shin =
        { c.guardChanged n (guards.getLsbD n.val) with
          lines := lines, guardSeen := true, events := events, pins := pins } ∧
      ∃ more, events.records = (c.guardChanged n (guards.getLsbD n.val)).events.records ++ more ∧
        ∀ e ∈ more, e.kind = .holdMismatch := by
  obtain ⟨g, events, isG, frame, more, records, kinds⟩ := s.sampled_frame guards hsense shin
  rw [State.poll_of_none (s := s.countTick) idle] at isG
  obtain ⟨c, isC, closed, lines, samples⟩ := sampleGuards_of_one (s := s.countTick) (n := n) (guards := guards) seen
    (by rw [State.countTick_line]; exact settled) fun m => by rw [State.countTick_line]; exact only m
  rw [isG] at samples
  refine ⟨c, g.lines.eachAt fun n x => x.sense (hsense.getLsbD n.val), events,
    { g.pins with guards := guards, hsense := hsense }, isC, closed, ?_, more, ?_, kinds⟩
  · rw [frame]
    generalize (g.lines.eachAt fun n x => x.sense (hsense.getLsbD n.val)) = l
    generalize ({ g.pins with guards := guards, hsense := hsense } : Pins) = v
    rw [samples]
  · rw [records, samples]

/-- GUARD_CHANGE posted, if the lathe's changes are reported (R61). -/
def State.guardTold (c : State) (n : Lathe) (closed : Bool) : State :=
  if c.params.guardReport.getLsbD n.val = true then
    c.post (event .guardChange (if closed then 0 else 1) (lathe := some n))
  else c

theorem State.guardTold_frame (c : State) (n : Lathe) (closed : Bool) :
    c.guardTold n closed = { c with events := (c.guardTold n closed).events } := by
  unfold State.guardTold
  split
  · exact State.post_frame _ _
  · rfl

theorem State.guardChanged_closed (c : State) (n : Lathe) :
    c.guardChanged n true = ((c.guardTold n true).endGuardWait n).clearParked n := by
  obtain ⟨p, isP⟩ : ∃ p, c.guardTold n true = p := ⟨_, rfl⟩
  change (if true = true then ((c.guardTold n true).endGuardWait n).clearParked n else c.guardTold n true) = _
  rw [isP]
  exact if_pos rfl

theorem State.guardChanged_open (c : State) (n : Lathe) : c.guardChanged n false = c.guardTold n false := by
  obtain ⟨p, isP⟩ : ∃ p, c.guardTold n false = p := ⟨_, rfl⟩
  change (if false = true then ((c.guardTold n false).endGuardWait n).clearParked n else c.guardTold n false) = _
  rw [isP]
  exact if_neg (by decide)

end Samples

section Sequencer
variable {c : State} {n : Lathe} {i : Slot} {j : Job}

/-- A guard that opens is told alone (R61). -/
theorem guardChanged_of_open (c : State) (n : Lathe) :
    (c.guardChanged n false).seq = c.seq ∧ (c.guardChanged n false).shuttle = c.shuttle ∧
      (c.guardChanged n false).sched = c.sched := by
  rw [State.guardChanged_open, State.guardTold_frame]
  exact ⟨rfl, rfl, rfl⟩

/-- A guard that closes ends a wait at its lathe: the order that waited is issued (R124). -/
theorem guardChanged_issues {k : OrderKind} (closed : (c.line n).guardClosed = true) (waits : c.seq.phase = .guardPending)
    (active : c.active = some (i, j)) (own : j.lathe = n) (order : j.order = some ⟨k, .lathe n⟩)
    (something : c.nothingToPick j = false) :
    (c.guardChanged n true).shuttle = c.shuttle.issued k (.lathe n) c.shuttle.load.speed ∧
      (c.guardChanged n true).seq.phase = .outstanding ∧ (c.guardChanged n true).seq.job = some i ∧
      (c.guardChanged n true).timer.guardWait = .stopped ∧
      (c.guardChanged n true).timer.stepTimer =
        .running (if k = .move then c.params.stepLimitMove else c.params.stepLimitHandle) := by
  have told := c.guardTold_frame n true
  obtain ⟨p, isP⟩ : ∃ p, c.guardTold n true = p := ⟨_, rfl⟩
  rw [isP] at told
  obtain ⟨shuttle, phase, job, guardWait, stepTimer⟩ := State.endGuardWait_issues (s := p) (n := n) (i := i) (j := j)
    (by rw [told]; exact active) (by rw [told]; exact waits) own order (by rw [told]; exact closed)
    (by rw [told]; exact something)
  obtain ⟨e, isE⟩ : ∃ e, p.endGuardWait n = e := ⟨_, rfl⟩
  rw [isE] at shuttle phase job guardWait stepTimer
  have busy : e.shuttleFree = false := State.shuttleFree_of_state (by
    rw [shuttle]
    exact fun h => by cases h)
  have frame := (State.clearParked_of_busy busy n).1
  generalize (e.clearParked n).sched = x at frame
  rw [State.guardChanged_closed, isP, isE, frame]
  have same : p.shuttle = c.shuttle ∧ p.params = c.params := by
    rw [told]
    exact ⟨rfl, rfl⟩
  rw [same.1] at shuttle
  rw [same.2] at stepTimer
  exact ⟨shuttle, phase, job, guardWait, stepTimer⟩

/-- A guard that closes with no wait clears GUARD_PARKED from its lathe's WAITING jobs (R101). -/
theorem guardChanged_unparks (calm : c.seq.phase ≠ .guardPending) (busy : c.shuttleFree = false) (hj : c.job i = some j)
    (waits : j.state = .waiting) (parked : j.block = .guardParked) :
    (j.lathe ≠ n → (c.guardChanged n true).job i = some j) ∧
      (j.lathe = n → ∃ block, (c.guardChanged n true).job i = some { j with block := block } ∧
        (j.kind ≠ .collect → block = .none) ∧
        ∀ b g, j.kind = .collect → j.bin = some b → (c.account n).program = some g →
          block = gateOf (c.bin b) g.capacity) := by
  have told := c.guardTold_frame n true
  obtain ⟨p, isP⟩ : ∃ p, c.guardTold n true = p := ⟨_, rfl⟩
  rw [isP] at told
  have stays : p.endGuardWait n = p := by
    have phase : p.seq.phase ≠ .guardPending := by
      rw [told]
      exact calm
    unfold State.endGuardWait
    split
    · rw [if_neg (by simp [phase])]
    · rfl
  have busyP : p.shuttleFree = false := by
    rw [told]
    exact busy
  obtain ⟨-, slots⟩ := State.clearParked_of_busy busyP n
  obtain ⟨u, unparked, jobU, frame⟩ := slots i
  rw [State.guardChanged_closed, isP, stays, unparked]
  have hu : u.job i = some j := by
    rw [jobU, told]
    exact hj
  have same : u.account n = c.account n ∧ ∀ b, u.bin b = c.bin b := by
    rw [frame, told]
    exact ⟨rfl, fun _ => rfl⟩
  have result := State.unpark_job (n := n) hu waits parked
  simp only [same.1, same.2] at result
  exact result

end Sequencer

section Tick
variable {s : State}

/-- What a tick leaves for its tests of the compares, whatever its poll and its samples do. -/
structure TickSampled (s : State) (guards hsense : BitVec 12) (u : State) : Prop where
  account : ∀ n, (u.account n).program = (s.account n).program ∧ (u.account n).stockShort = (s.account n).stockShort
  compare : ∀ n, u.compareOf n = s.compareOf n
  now : u.now = s.now + 1
  binary : u.timer.binary = 0
  decimal : u.timer.decimal = 0
  sel : u.timer.sel = s.timer.sel
  capture : u.timer.capture = s.timer.capture
  params : u.params = s.params
  guardSeen : u.guardSeen = true
  pins : u.pins = { s.pins with guards := guards, hsense := hsense }
  bars : ∀ k, (u.lane k).bars = (s.lane k).bars
  lines : ∀ n, (u.line n).debounce = min ((s.line n).debounce + 1) 255 ∧
    (u.line n).guardClosed = ((s.line n).sampled s.guardSeen (guards.getLsbD n.val)).1 ∧
    (u.line n).settle = ((s.line n).sampled s.guardSeen (guards.getLsbD n.val)).2

theorem tickSampled (guards hsense : BitVec 12) (shin : BitVec 64) (s : State) :
    TickSampled s guards hsense (s.sampled guards hsense shin) := by
  obtain ⟨p, isP⟩ : ∃ p, s.countTick.poll (statusShifted shin) = p := ⟨_, rfl⟩
  obtain ⟨g, events, isG, frame, -⟩ := s.sampled_frame guards hsense shin
  generalize s.sampled guards hsense shin = u at *
  rw [isP] at isG
  have polled : Tame [] s.countTick p := isP ▸ tame_poll _ _
  have seen : p.guardSeen = s.guardSeen := polled.kept.guardSeen
  have sampled := isG ▸ sampleGuards_spec guards p
  obtain ⟨f, isF⟩ : ∃ f, allLathes.foldl (fun s n => s.sampleGuard n (guards.getLsbD n.val)) p = f := ⟨_, rfl⟩
  have folded : Tame allLathes p f := isF ▸ tame_foldl_sampleGuard allLathes p
  have isSeen : g = f.setGuardSeen true := by rw [← isG, ← isF]; rfl
  have all := polled.trans folded
  have lines := congrArg State.lines frame
  rw [isSeen] at frame
  have pins := all.kept.pins
  refine ⟨fun n => ?_, fun n => ?_, ?_, ?_, ?_, ?_, ?_, ?_, ?_, ?_, fun k => ?_, fun n => ?_⟩
  · have own := all.account n
    rw [State.countTick_account] at own
    rw [frame]
    exact own
  · rw [frame]
    exact all.compares n
  · rw [frame]
    exact all.kept.now
  · rw [frame]
    exact all.kept.binary
  · rw [frame]
    exact all.kept.decimal
  · rw [frame]
    exact all.kept.sel
  · rw [frame]
    exact all.kept.capture
  · rw [frame]
    exact all.kept.params
  · rw [frame]
    rfl
  · rw [frame]
    change { f.pins with guards := guards, hsense := hsense } = _
    rw [pins]
    rfl
  · rw [frame]
    exact all.bars k
  · obtain ⟨debounce, closed, settle⟩ := sampled n
    obtain ⟨debounce', closed', settle'⟩ := polled.lines n List.not_mem_nil
    obtain ⟨debounce₀, closed₀, settle₀⟩ := (g.line n).sense_guard (hsense.getLsbD n.val)
    rw [s.countTick_line] at debounce' closed' settle'
    rw [State.line, lines, Bank.read_eachAt, ← State.line, debounce₀, closed₀, settle₀, debounce, closed, settle,
      Line.sampled, seen, debounce', closed', settle']
    exact ⟨rfl, rfl, rfl⟩

end Tick

/-- Settles O7: the counts, the samples, the one GUARD that changes, and the compares. -/
theorem hallTickCountsAndSamples : Obligations.HallTickCountsAndSamples := by
  intro guards hsense shin s
  have ran := exec_hallTick guards hsense shin s
  have k := tickSampled guards hsense shin s
  have one {n : Lathe} := sampled_of_one (s := s) (guards := guards) (hsense := hsense) (shin := shin) (n := n)
  generalize s.sampled guards hsense shin = u at *
  have tested : Tested allLathes u u.testCompares := tested_foldl allLathes u
  have compares (n : Lathe) := testCompares_spec n u
  have reaches (n : Lathe) : u.reaches n u.now = s.reaches n (s.now + 1) := by
    rw [State.reaches, k.compare, k.now, State.reaches]
  have rows := State.compareRows_eq u
  have kept := tested.kept
  generalize u.testCompares = t at *
  refine ⟨u, t, ran, rows, fun n => ⟨k.compare n, ?_⟩, fun n reached program => ?_, kept.now.trans k.now,
    kept.binary.trans k.binary, kept.decimal.trans k.decimal, kept.sel.trans k.sel, kept.capture.trans k.capture,
    kept.params.trans k.params, kept.guardSeen.trans k.guardSeen, ?_, ?_, ?_, fun q => (tested.bars q).trans (k.bars q),
    fun n => ?_, fun n seen idle settled only room => ?_⟩
  · have own := (compares n).1
    rw [reaches, k.compare] at own
    exact own
  · have own := (compares n).2 ((reaches n).trans reached) (by rw [(k.account n).1]; exact program)
    rw [(k.account n).2] at own
    exact own
  · rw [kept.pins, k.pins]
  · rw [kept.pins, k.pins]
  · rw [kept.pins, k.pins]
  · rw [tested.lines]
    exact k.lines n
  · obtain ⟨c, lines, events, pins, isC, closedC, frame, more', records', kinds'⟩ :=
      one seen idle settled only
    intro closed
    have jobs (i : Slot) : c.job i = (s.job i).map fun j => j.tick (s.now + 1) := by
      rw [isC]
      exact s.countTick_job i
    have fields : c.seq = s.seq ∧ c.shuttle = s.shuttle ∧ c.params = s.params ∧ c.now = s.now + 1 ∧
        c.events = s.events ∧ c.sched.stack = s.sched.stack := by
      rw [isC]
      exact ⟨rfl, rfl, rfl, rfl, rfl, rfl⟩
    obtain ⟨seq, shuttle, params, now, eventsC, stack⟩ := fields
    refine ⟨?_, fun opens => ?_, fun i j k closes waits active own order picks => ?_,
      fun closes calm busy i j hj waiting parked => ?_⟩
    · obtain ⟨more, records, kinds⟩ := posts_guardChanged n closed c (by rw [eventsC]; exact room)
      rw [eventsC, params, now] at records
      refine ⟨more ++ more', ?_, fun e mem => ?_⟩
      · rw [frame]
        change events.records = _
        rw [records', records, List.append_assoc, List.append_assoc]
      · rcases List.mem_append.1 mem with own | own
        · exact kinds e own
        · rw [kinds' e own]
          decide
    · rw [show guards.getLsbD n.val = false from opens] at frame
      obtain ⟨seq', shuttle', sched'⟩ := guardChanged_of_open c n
      rw [frame]
      exact ⟨seq'.trans seq, shuttle'.trans shuttle, (congrArg Schedule.stack sched').trans stack⟩
    · rw [show guards.getLsbD n.val = true from closes] at frame closedC
      have activeC : c.active = some (i, j.tick (s.now + 1)) := by
        have counted := s.countTick_active
        rw [active] at counted
        rw [isC]
        exact counted
      have something : c.nothingToPick (j.tick (s.now + 1)) = false := by
        rw [Bool.eq_false_iff]
        intro nothing
        obtain ⟨kind, step, finds⟩ := (c.nothingToPick_iff _).1 nothing
        obtain ⟨b, cradle, still⟩ := picks kind step
        have held : (c.account n).cradle = some b := by
          rw [isC]
          exact (congrArg Account.cradle (s.countTick_account n)).trans cradle
        have own' : (j.tick (s.now + 1)).lathe = n := own
        rw [finds b (by rw [own']; exact held)] at still
        cases still
      obtain ⟨shuttle', phase, job, guardWait, stepTimer⟩ := guardChanged_issues closedC (by rw [seq]; exact waits) activeC
        own (k := k) order something
      generalize c.guardChanged n true = q at *
      rw [frame]
      rw [shuttle] at shuttle'
      rw [params] at stepTimer
      exact ⟨shuttle', phase, job, guardWait, stepTimer⟩
    · rw [show guards.getLsbD n.val = true from closes] at frame
      have hjC : c.job i = some (j.tick (s.now + 1)) := by rw [jobs, hj]; rfl
      obtain ⟨elsewhere, here⟩ := guardChanged_unparks (n := n) (c := c) (by rw [seq]; exact calm)
        ((State.shuttleFree_congr shuttle seq).trans busy) hjC waiting parked
      have sameBin (b : BinNo) : c.bin b = s.bin b := by
        rw [isC]
        rfl
      have program : (c.account n).program = (s.account n).program := by
        have counted := congrArg Account.program (s.countTick_account n)
        rw [isC]
        exact counted
      generalize c.guardChanged n true = q at *
      rw [frame]
      by_cases own : j.lathe = n
      · obtain ⟨block, hj', free, gate⟩ := here own
        refine ⟨_, hj', rfl, waiting, fun h => absurd own h, fun _ notCollect => free notCollect,
          fun b g _ collect bin isProgram => ?_⟩
        rw [← sameBin]
        exact gate b g collect bin (program.trans isProgram)
      · exact ⟨_, elsewhere own, rfl, waiting, fun _ => parked, fun h => absurd h own, fun b g h => absurd h own⟩

end Sys2Proof.Machine

/-! PROOFS. The ids in use and the claims of a lane, counted place by place (R68, R77), and the ids that the allocators
issue. -/
namespace Sys2Proof

/-- A sum over a bank after a write: the record written counts in place of the one that stood. -/
theorem Bank.sum_write {α : Type} {n : Nat} (v : Bank α n) (f : α → Nat) (i : Fin n) (y : α) :
    (∑ k, f ((v.write i y).read k)) + f (v.read i) = (∑ k, f (v.read k)) + f y := by
  rw [← Finset.add_sum_erase Finset.univ _ (Finset.mem_univ i),
    ← Finset.add_sum_erase Finset.univ (fun k => f (v.read k)) (Finset.mem_univ i), Bank.read_write_self]
  have others : (∑ k ∈ Finset.univ.erase i, f ((v.write i y).read k)) = ∑ k ∈ Finset.univ.erase i, f (v.read k) :=
    Finset.sum_congr rfl fun k mem => by rw [Bank.read_write_ne _ _ _ _ (Finset.ne_of_mem_erase mem).symm]
  rw [others]
  omega

namespace Machine

/-! ### The allocators -/

theorem State.mem_barIds {s : State} {x : Nat} : x ∈ s.barIds ↔ s.barIdUsed x := by
  unfold State.barIds State.barIdUsed
  simp only [List.mem_append, List.mem_flatMap, List.mem_map, List.mem_filterMap, List.mem_finRange, true_and, allSlots,
    Option.bind_eq_some_iff, Option.map_eq_some_iff, or_assoc]
  refine or_congr Iff.rfl (or_congr (exists_congr fun i => ⟨?_, ?_⟩) Iff.rfl)
  · rintro ⟨j, hj, b, bar, id⟩
    exact ⟨j, b, hj, bar, id⟩
  · rintro ⟨j, b, hj, bar, id⟩
    exact ⟨j, hj, b, bar, id⟩

/-- The job id allocator issues an id that no job holds, and passes over ids that jobs hold (R89). -/
theorem State.nextJobId_spec {s : State} (h : s.sched.lastJobId ≤ 255) :
    ∃ d, 1 ≤ d ∧ d ≤ 255 ∧ s.nextJobId = (s.sched.lastJobId + d - 1) % 255 + 1 ∧
      ∀ e, 1 ≤ e → e < d → ∃ i j, s.job i = some j ∧ j.id = (s.sched.lastJobId + e - 1) % 255 + 1 := by
  obtain ⟨d, one, within, found, passed, -⟩ :=
    freeId_spec (used := s.jobIds) (fuel := s.jobIds.length) (top := Config.jobIdMax) (by decide) h
  have few := s.jobIds_length
  exact ⟨d, one, by omega, found, fun e one' below => State.mem_jobIds.1 (passed e one' below)⟩

/-- The bar id allocator issues an id not in use, and passes over ids in use (R68). -/
theorem State.nextBarId_spec {s : State} (h : s.rack.lastBarId ≤ 65535) (few : s.barIds.length < 65535) :
    ¬s.barIdUsed s.nextBarId ∧
      ∃ d, 1 ≤ d ∧ d ≤ 65535 ∧ s.nextBarId = (s.rack.lastBarId + d - 1) % 65535 + 1 ∧
        ∀ e, 1 ≤ e → e < d → s.barIdUsed ((s.rack.lastBarId + e - 1) % 65535 + 1) := by
  obtain ⟨d, one, within, found, passed, -⟩ :=
    freeId_spec (used := s.barIds) (fuel := s.barIds.length) (top := Config.barIdMax) (by decide) h
  refine ⟨fun used => freeId_free few (State.mem_barIds.2 used), d, one, by omega, found, fun e one' below => ?_⟩
  exact State.mem_barIds.1 (passed e one' below)

/-! ### The places that hold a bar id -/

/-- How often a lane holds the bar id `x`. -/
def LaneRecord.idCount (l : LaneRecord) (x : Nat) : Nat := (l.bars.map (·.id)).count x
/-- How often a slot's job holds the bar id `x`. -/
def slotIdCount (x : Nat) (o : Option Job) : Nat := (o.bind fun j => j.bar.map (·.id)).toList.count x
/-- How often an account holds the bar id `x`, on its cradle and in its spindle. -/
def Account.idCount (a : Account) (x : Nat) : Nat :=
  (a.cradle.map (·.bar.id)).toList.count x + (a.current.map (·.id)).toList.count x
/-- How often the bar id `x` is in use (R68). -/
def State.idCount (s : State) (x : Nat) : Nat :=
  (∑ k, (s.lane k).idCount x) + (∑ i, slotIdCount x (s.job i)) + ∑ n, (s.account n).idCount x

theorem State.idCount_eq (s : State) (x : Nat) : s.idCount x = s.barIds.count x := by
  have optional {n : Nat} (f : Fin n → Option Nat) :
      ((List.finRange n).filterMap f).count x = ∑ i, (f i).toList.count x := by
    rw [List.filterMap_eq_flatMap_toList, List.count_flatMap, Fin.sum_univ_def]
    rfl
  unfold State.barIds State.idCount allSlots
  rw [List.count_append, List.count_append, List.count_append, List.count_flatMap, optional, optional, optional]
  unfold Account.idCount
  rw [Finset.sum_add_distrib, Fin.sum_univ_def, ← Nat.add_assoc]
  rfl

/-- A nonzero bar id stands in at most one place exactly when it is counted at most once. -/
theorem State.idsOk_iff (s : State) : s.idsOk ↔ ∀ x, x ≠ 0 → s.idCount x ≤ 1 := by
  unfold State.idsOk
  rw [List.nodup_iff_count_le_one]
  refine forall_congr' fun x => ?_
  rw [State.idCount_eq]
  by_cases zero : x = 0
  · subst zero
    have absent : (0 : Nat) ∉ s.barIds.filter (· != 0) := fun mem => by simp at mem
    simp [List.count_eq_zero_of_not_mem absent]
  · rw [List.count_filter (by simp [zero])]
    simp [zero]

variable {s t : State}

theorem State.idCount_setLane (s : State) (k : LaneNo) (l : LaneRecord) (x : Nat) :
    (s.setLane k l).idCount x + (s.lane k).idCount x = s.idCount x + l.idCount x := by
  have sum : (∑ m, ((s.setLane k l).lane m).idCount x) + (s.lane k).idCount x =
    (∑ m, (s.lane m).idCount x) + l.idCount x :=
    Bank.sum_write s.rack.lanes (fun l => l.idCount x) k l
  unfold State.idCount
  simp only [State.setLane_job, State.setLane_account]
  omega

theorem State.idCount_setSlot (s : State) (i : Slot) (o : Option Job) (x : Nat) :
    (s.setSlot i o).idCount x + slotIdCount x (s.job i) = s.idCount x + slotIdCount x o := by
  have sum : (∑ m, slotIdCount x ((s.setSlot i o).job m)) + slotIdCount x (s.job i) =
      (∑ m, slotIdCount x (s.job m)) + slotIdCount x o :=
    Bank.sum_write s.sched.slots (slotIdCount x) i o
  unfold State.idCount
  simp only [State.setSlot_lane, State.setSlot_account]
  omega

theorem State.idCount_setAccount (s : State) (n : Lathe) (a : Account) (x : Nat) :
    (s.setAccount n a).idCount x + (s.account n).idCount x = s.idCount x + a.idCount x := by
  have sum : (∑ m, ((s.setAccount n a).account m).idCount x) + (s.account n).idCount x =
      (∑ m, (s.account m).idCount x) + a.idCount x :=
    Bank.sum_write s.accounts (fun a => a.idCount x) n a
  unfold State.idCount
  simp only [State.setAccount_lane, State.setAccount_job]
  omega

/-- The count of an id is made of the lanes, the jobs and the accounts alone. -/
theorem State.idCount_congr (lanes : t.rack.lanes = s.rack.lanes) (slots : t.sched.slots = s.sched.slots)
    (accounts : t.accounts = s.accounts) (x : Nat) : t.idCount x = s.idCount x := by
  unfold State.idCount State.lane State.job State.account
  rw [lanes, slots, accounts]

/-! ### The claims of a lane -/

/-- 1 for a DELIVER job that holds a claim on lane `k`, else 0 (R77). -/
def claimsOn (k : LaneNo) (o : Option Job) : Nat :=
  if (o.any fun j => j.kind == .deliver && j.claim && j.lane == some k) then 1 else 0
/-- The number of claims that jobs hold on lane `k`. -/
def State.claimCount (s : State) (k : LaneNo) : Nat := ∑ i, claimsOn k (s.job i)

theorem State.claimants_length (s : State) (k : LaneNo) : (s.claimants k).length = s.claimCount k := by
  unfold State.claimants State.claimCount claimsOn allSlots
  rw [Fin.sum_univ_def, ← List.countP_eq_length_filter]
  induction List.finRange 32 with
  | nil => rfl
  | cons i rest ih =>
    rw [List.countP_cons, List.map_cons, List.sum_cons, ih]
    exact Nat.add_comm _ _

theorem State.claimCount_write {i : Slot} {o : Option Job} (written : t.sched.slots = s.sched.slots.write i o)
    (k : LaneNo) :
    t.claimCount k + claimsOn k (s.job i) = s.claimCount k + claimsOn k o := by
  have sum := Bank.sum_write s.sched.slots (claimsOn k) i o
  rw [← written] at sum
  exact sum

end Machine
end Sys2Proof

/-! PROOFS. The plan of a state, that part of its books which does not speak of the shuttle and the step in hand, and
the updates that keep it: the bookkeeping of the schedule. -/
namespace Sys2Proof.Machine

open Sys2Proof

/-! ### Jobs set apart, and where they stand -/

/-- A job `j'` in slot `i` would be apart from every other slot's: another id, and unless it is a RETURN another lathe
or kind (R89, R92). -/
def State.apart (s : State) (i : Slot) (j' : Job) : Prop :=
  ∀ m j, m ≠ i → s.job m = some j → j.id ≠ j'.id ∧ (j.lathe = j'.lathe → j.kind = j'.kind → j.kind = .ret)

/-- The state of the slot's job, if it has one. -/
def State.standing (s : State) (i : Slot) : Option JobState := (s.job i).map (·.state)

section Books
variable {s t u : State} {i : Slot} {j j' : Job}

theorem State.jobIds_nodup_iff (s : State) :
    s.jobIds.Nodup ↔ ∀ i i' j j', s.job i = some j → s.job i' = some j' → i ≠ i' → j.id ≠ j'.id := by
  unfold State.jobIds List.Nodup
  rw [List.pairwise_filterMap]
  simp only [Option.map_eq_some_iff]
  constructor
  · intro pairwise i i' j j' hj hj' ne
    have below (a b : Slot) (lt : a < b) (x y : Job) (hx : s.job a = some x) (hy : s.job b = some y) : x.id ≠ y.id := by
      have each := List.pairwise_iff_getElem.1 pairwise a b (by simp [allSlots]) (by simp [allSlots]) lt
      simp only [allSlots, List.getElem_finRange] at each
      exact each _ ⟨x, hx, rfl⟩ _ ⟨y, hy, rfl⟩
    rcases lt_or_gt_of_ne ne with lt | gt
    · exact below i i' lt j j' hj hj'
    · exact (below i' i gt j' j hj' hj).symm
  · intro apart
    refine List.Nodup.pairwise_of_forall_ne (List.nodup_finRange 32) fun a _ b _ ne => ?_
    rintro _ ⟨j, hj, rfl⟩ _ ⟨j', hj', rfl⟩
    exact apart a b j j' hj hj' ne

theorem State.jobsOk_iff (s : State) :
    s.jobsOk ↔ (∀ i j, s.job i = some j → s.apart i j) ∧ s.sched.deferred.Nodup := by
  unfold State.jobsOk
  rw [State.jobIds_nodup_iff]
  constructor
  · rintro ⟨one, deferred, ids⟩
    refine ⟨fun i j hj m j' ne hj' => ⟨ids m i j' j hj' hj ne, fun lathe kind => ?_⟩, deferred⟩
    by_contra other
    exact ne (one m i j' j hj' hj lathe kind other)
  · rintro ⟨apart, deferred⟩
    refine ⟨fun i i' j j' hj hj' lathe kind other => ?_, deferred, fun i i' j j' hj hj' ne => ?_⟩
    · by_contra ne
      exact other ((apart i' j' hj' i j ne hj).2 lathe kind)
    · exact (apart i' j' hj' i j ne hj).1

theorem State.stackOk_iff (s : State) :
    s.stackOk ↔ (∀ i, s.seq.job = some i ↔ s.standing i = some .active) ∧
      (∀ i, i ∈ s.sched.stack ↔ s.standing i = some .suspended) ∧ s.sched.stack.Nodup ∧ s.sched.stack.length ≤ 2 := by
  unfold State.stackOk State.standing
  simp only [Option.map_eq_some_iff]

theorem State.standing_of_job (hj : s.job i = some j) : s.standing i = some j.state := by
  rw [State.standing, hj]
  rfl

/-! ### The plan -/

/-- The plan: the lanes with their claims, the jobs of the schedule, the suspension stack, and each record that is not
the active job's. -/
structure State.Planned (s : State) : Prop where
  lanes : ∀ k, (s.lane k).bars.length + (s.lane k).reserved ≤ 12 ∧ (s.lane k).claimed ≤ (s.lane k).bars.length ∧
    (s.lane k).claimed = s.claimCount k
  jobs : s.jobsOk
  stack : s.stackOk
  fit : ∀ i j, s.job i = some j → j.state ≠ .active → j.ok

theorem State.Planned.active (h : s.Planned) (seq : s.seq.job = some i) : ∃ j, s.job i = some j ∧ j.state = .active :=
  (h.stack.1 i).1 seq

theorem State.Planned.seq (h : s.Planned) (hj : s.job i = some j) (active : j.state = .active) : s.seq.job = some i :=
  (h.stack.1 i).2 ⟨j, hj, active⟩

/-- The stack holds SUSPENDED jobs alone. -/
theorem State.Planned.off (h : s.Planned) (hj : s.job i = some j) (rest : j.state ≠ .suspended) :
    i ∉ s.sched.stack := by
  intro on
  obtain ⟨x, hx, suspended⟩ := (h.stack.2.1 i).1 on
  rw [hj] at hx
  cases hx
  exact rest suspended

/-- A change of one slot's job keeps the plan where the new job is apart from the others, the stack is still right, the
claims of the lanes follow, and the record is a fitting one. -/
theorem State.Planned.change (h : s.Planned) (i : Slot) (others : ∀ m, m ≠ i → t.job m = s.job m)
    (apart : ∀ j', t.job i = some j' → s.apart i j') (deferred : t.sched.deferred.Nodup) (stack : t.stackOk)
    (lanes : ∀ k, (t.lane k).bars.length + (t.lane k).reserved ≤ 12 ∧ (t.lane k).claimed ≤ (t.lane k).bars.length ∧
      (t.lane k).claimed + claimsOn k (s.job i) = (s.lane k).claimed + claimsOn k (t.job i))
    (fit : ∀ j', t.job i = some j' → j'.state ≠ .active → j'.ok) : t.Planned := by
  obtain ⟨oldApart, -⟩ := s.jobsOk_iff.1 h.jobs
  have written : t.sched.slots = s.sched.slots.write i (t.job i) := Bank.ext_read fun m => by
    by_cases same : i = m
    · subst same
      rw [Bank.read_write_self]
      rfl
    · rw [Bank.read_write_ne _ _ _ _ same]
      exact others m (Ne.symm same)
  refine ⟨fun k => ?_, t.jobsOk_iff.2 ⟨fun a j hj => ?_, deferred⟩, stack, fun m j hj => ?_⟩
  · obtain ⟨room, covered, claims⟩ := lanes k
    obtain ⟨-, -, old⟩ := h.lanes k
    have count := State.claimCount_write written k
    exact ⟨room, covered, by omega⟩
  · intro m j' ne hj'
    by_cases atI : a = i
    · subst atI
      exact apart j hj m j' ne (others m ne ▸ hj')
    · rw [others a atI] at hj
      by_cases mI : m = i
      · subst mI
        obtain ⟨ids, kinds⟩ := apart j' hj' a j atI hj
        exact ⟨ids.symm, fun lathe kind => kind.trans (kinds lathe.symm kind.symm)⟩
      · exact oldApart a j hj m j' ne (others m mI ▸ hj')
  · by_cases atI : m = i
    · subst atI
      exact fit j hj
    · rw [others m atI] at hj
      exact h.fit m j hj

/-- The stack is right still where every slot stands as it did. -/
theorem State.stackOk_of_standing (h : s.stackOk) (standing : ∀ m, t.standing m = s.standing m)
    (stack : t.sched.stack = s.sched.stack) (seq : t.seq.job = s.seq.job) : t.stackOk := by
  rw [State.stackOk_iff] at h ⊢
  simp only [standing, stack, seq]
  exact h

/-- A job apart stays so in another record of the same id, lathe and kind, or a RETURN's. -/
theorem State.apart_of_like (h : s.apart i j) (id : j'.id = j.id) (lathe : j'.lathe = j.lathe)
    (kind : j'.kind = j.kind ∨ j'.kind = .ret) : s.apart i j' := fun m x ne hx => by
  obtain ⟨ids, kinds⟩ := h m x ne hx
  rw [id, lathe]
  refine ⟨ids, fun same like => ?_⟩
  rcases kind with kind | kind
  · exact kinds same (like.trans kind)
  · exact like.trans kind

theorem State.Planned.apart (h : s.Planned) (hj : s.job i = some j) : s.apart i j :=
  (s.jobsOk_iff.1 h.jobs).1 i j hj

/-- A job record changed in its slot: the same job, at the same place of the schedule and with the same claim. -/
structure Job.Retouched (j j' : Job) : Prop where
  id : j'.id = j.id
  lathe : j'.lathe = j.lathe
  kind : j'.kind = j.kind ∨ j'.kind = .ret
  state : j'.state = j.state
  claims : ∀ k, claimsOn k (some j') = claimsOn k (some j)
  fit : j.state ≠ .active → j.ok → j'.ok

theorem State.Planned.retouch (h : s.Planned) (hj : s.job i = some j) (like : j.Retouched j') :
    (s.setSlot i (some j')).Planned := by
  have here : (s.setSlot i (some j')).job i = some j' := by simp
  refine h.change i (fun m ne => by simp [ne.symm]) (fun x hx => ?_) (s.jobsOk_iff.1 h.jobs).2 ?_ (fun k => ?_)
    fun x hx rest => ?_
  · rw [here] at hx
    cases hx
    exact State.apart_of_like (h.apart hj) like.id like.lathe like.kind
  · refine State.stackOk_of_standing h.stack (fun m => ?_) rfl rfl
    by_cases same : i = m
    · subst same
      rw [State.standing_of_job here, State.standing_of_job hj, like.state]
    · rw [State.standing, State.setSlot_job_ne _ _ _ _ same]
      rfl
  · obtain ⟨room, covered, -⟩ := h.lanes k
    rw [here, hj, like.claims k]
    exact ⟨room, covered, rfl⟩
  · rw [here] at hx
    cases hx
    exact like.fit (like.state ▸ rest) (h.fit i j hj (like.state ▸ rest))

/-- The plan is made of the lanes, the schedule and the step record's job alone. -/
theorem State.Planned.congr (h : s.Planned) (lanes : t.rack.lanes = s.rack.lanes) (sched : t.sched = s.sched)
    (seq : t.seq.job = s.seq.job) : t.Planned := by
  have lane (k : LaneNo) : t.lane k = s.lane k := congrArg (fun b => Bank.read b k) lanes
  have job (m : Slot) : t.job m = s.job m := congrArg (fun x : Schedule => x.slots.read m) sched
  have count (k : LaneNo) : t.claimCount k = s.claimCount k := by
    unfold State.claimCount
    simp only [job]
  refine ⟨fun k => ?_, ?_, ?_, fun i j hj => h.fit i j (job i ▸ hj)⟩
  · rw [lane, count]
    exact h.lanes k
  · have jobs := h.jobs
    unfold State.jobsOk State.jobIds at jobs ⊢
    simp only [job, sched]
    exact jobs
  · refine State.stackOk_of_standing h.stack (fun m => ?_) (congrArg Schedule.stack sched) seq
    rw [State.standing, job]
    rfl

/-! ### Planning -/

/-- What the bookkeeping of the schedule and of the accounts keeps: the shuttle, the step record, the reject rack and
the reservations as they stand, the active job but for the ages of its times, no bar id in use more often,
and the plan. -/
structure Planning (s t : State) : Prop where
  shuttle : t.shuttle = s.shuttle
  seq : t.seq = s.seq
  reject : t.rack.reject = s.rack.reject
  reserved : ∀ k, (t.lane k).reserved = (s.lane k).reserved
  active : ∀ i j, s.job i = some j → j.state = .active → ∃ d c, t.job i = some { j with deadline := d, created := c }
  ids : ∀ x, x ≠ 0 → t.idCount x ≤ s.idCount x
  plan : s.Planned → t.Planned

theorem Planning.refl (s : State) : Planning s s :=
  ⟨rfl, rfl, rfl, fun _ => rfl, fun _ j hj _ => ⟨j.deadline, j.created, hj⟩, fun _ _ => Nat.le_refl _, id⟩

theorem Planning.trans (h : Planning s t) (g : Planning t u) : Planning s u where
  shuttle := g.shuttle.trans h.shuttle
  seq := g.seq.trans h.seq
  reject := g.reject.trans h.reject
  reserved k := (g.reserved k).trans (h.reserved k)
  active i j hj active := by
    obtain ⟨d, c, hj'⟩ := h.active i j hj active
    obtain ⟨d', c', hj''⟩ := g.active i _ hj' active
    exact ⟨d', c', hj''⟩
  ids x nonzero := (g.ids x nonzero).trans (h.ids x nonzero)
  plan := g.plan ∘ h.plan

/-- An update of what the books do not speak of. -/
theorem planning_of_frame (sched : t.sched = s.sched) (rack : t.rack = s.rack) (seq : t.seq = s.seq)
    (shuttle : t.shuttle = s.shuttle) (accounts : t.accounts = s.accounts) : Planning s t where
  shuttle := shuttle
  seq := seq
  reject := congrArg Rack.reject rack
  reserved k := congrArg (fun x : Rack => (x.lanes.read k).reserved) rack
  active i j hj _ := ⟨j.deadline, j.created, (congrArg (fun x : Schedule => x.slots.read i) sched).trans hj⟩
  ids x _ := le_of_eq (State.idCount_congr (congrArg Rack.lanes rack) (congrArg Schedule.slots sched) accounts x)
  plan h := h.congr (congrArg Rack.lanes rack) sched (congrArg StepRecord.job seq)

theorem planning_post (s : State) (e : EventRec) : Planning s (s.post e) :=
  planning_of_frame (by simp) (by simp) (by simp) (by simp) (by simp)

/-- An account's update that puts no bar id in use. -/
theorem planning_setAccount {n : Lathe} {a : Account} (ids : ∀ x, x ≠ 0 → a.idCount x ≤ (s.account n).idCount x) :
    Planning s (s.setAccount n a) where
  shuttle := rfl
  seq := rfl
  reject := rfl
  reserved _ := rfl
  active i j hj _ := ⟨j.deadline, j.created, hj⟩
  ids x nonzero := by
    have count := s.idCount_setAccount n a x
    have := ids x nonzero
    omega
  plan h := h.congr rfl rfl rfl

/-- A job record retouched, the active one in the ages of its times alone. -/
theorem planning_retouch (hj : s.job i = some j) (like : j.Retouched j')
    (active : j.state = .active → ∃ d c, j' = { j with deadline := d, created := c }) (bar : j'.bar = j.bar) :
    Planning s (s.setSlot i (some j')) where
  shuttle := rfl
  seq := rfl
  reject := rfl
  reserved _ := rfl
  active m x hx stands := by
    by_cases same : i = m
    · subst same
      rw [hj] at hx
      cases hx
      obtain ⟨d, c, rfl⟩ := active stands
      exact ⟨d, c, by simp⟩
    · exact ⟨x.deadline, x.created, (State.setSlot_job_ne _ _ _ _ same).trans hx⟩
  ids x _ := by
    have count := s.idCount_setSlot i (some j') x
    rw [hj] at count
    have same : slotIdCount x (some j') = slotIdCount x (some j) := by
      unfold slotIdCount
      simp only [Option.bind_some, bar]
    omega
  plan h := h.retouch hj like

end Books

end Sys2Proof.Machine

/-! PROOFS. The operations of the schedule keep the plan (R78 to R80, R89 to R102): a job is made, takes its claim, is
blocked or comes free, and the deferred list is served. -/
namespace Sys2Proof.Machine

open Sys2Proof

section Operations
variable {s t u : State} {i : Slot} {j j' : Job} {k : LaneNo} {n : Lathe}

/-- No bar id is in use more often where no lane has other bars, and no job and no account has it more often. -/
theorem State.idCount_le_of {x : Nat} (lane : ∀ k, (t.lane k).bars = (s.lane k).bars)
    (slot : ∀ i, slotIdCount x (t.job i) ≤ slotIdCount x (s.job i))
    (account : ∀ n, (t.account n).idCount x ≤ (s.account n).idCount x) : t.idCount x ≤ s.idCount x := by
  unfold State.idCount
  have lanes : (∑ k, (t.lane k).idCount x) = ∑ k, (s.lane k).idCount x :=
    Finset.sum_congr rfl fun k _ => by rw [LaneRecord.idCount, lane k, LaneRecord.idCount]
  have slots := Finset.sum_le_sum fun i (_ : i ∈ Finset.univ) => slot i
  have accounts := Finset.sum_le_sum fun n (_ : n ∈ Finset.univ) => account n
  omega

/-! ### The stack where one job comes or goes -/

/-- Job `i` leaves the shuttle or the stack. -/
theorem State.stackOk_leave (h : s.stackOk) (others : ∀ m, m ≠ i → t.job m = s.job m)
    (notActive : t.standing i ≠ some .active) (notSuspended : t.standing i ≠ some .suspended)
    (stack : t.sched.stack = s.sched.stack.erase i)
    (seq : t.seq.job = if s.seq.job = some i then none else s.seq.job) : t.stackOk := by
  rw [State.stackOk_iff] at h ⊢
  obtain ⟨active, suspended, nodup, length⟩ := h
  have same (m : Slot) (ne : m ≠ i) : t.standing m = s.standing m := by rw [State.standing, others m ne, State.standing]
  rw [stack, seq]
  refine ⟨fun m => ?_, fun m => ?_, nodup.erase i, (List.length_erase_le).trans length⟩
  · by_cases own : m = i
    · subst own
      simp only [notActive, iff_false]
      split
      · simp
      · next other => exact other
    · rw [same m own, ← active m]
      split
      · next here =>
        rw [here]
        simp only [reduceCtorEq, Option.some.injEq, false_iff]
        exact fun e => own e.symm
      · rfl
  · by_cases own : m = i
    · subst own
      simp [notSuspended, nodup.not_mem_erase]
    · rw [same m own, ← suspended m]
      exact List.mem_erase_of_ne own

/-- Job `i` takes the shuttle that no job has. -/
theorem State.stackOk_enter (h : s.stackOk) (others : ∀ m, m ≠ i → t.job m = s.job m) (free : s.seq.job = none)
    (active : t.standing i = some .active) (stack : t.sched.stack = s.sched.stack.erase i) (seq : t.seq.job = some i) :
    t.stackOk := by
  rw [State.stackOk_iff] at h ⊢
  obtain ⟨actives, suspended, nodup, length⟩ := h
  have same (m : Slot) (ne : m ≠ i) : t.standing m = s.standing m := by rw [State.standing, others m ne, State.standing]
  rw [stack, seq]
  refine ⟨fun m => ?_, fun m => ?_, nodup.erase i, (List.length_erase_le).trans length⟩
  · by_cases own : m = i
    · subst own
      simp [active]
    · rw [same m own, ← actives m, free]
      simp only [Option.some.injEq, reduceCtorEq, iff_false]
      exact fun e => own e.symm
  · by_cases own : m = i
    · subst own
      simp [active, nodup.not_mem_erase]
    · rw [same m own, ← suspended m]
      exact List.mem_erase_of_ne own

/-- The active job `i` goes on the stack. -/
theorem State.stackOk_push (h : s.stackOk) (others : ∀ m, m ≠ i → t.job m = s.job m) (own : s.seq.job = some i)
    (room : s.sched.stack.length < 2) (suspended : t.standing i = some .suspended)
    (stack : t.sched.stack = i :: s.sched.stack) (seq : t.seq.job = none) : t.stackOk := by
  rw [State.stackOk_iff] at h ⊢
  obtain ⟨actives, suspendeds, nodup, length⟩ := h
  have same (m : Slot) (ne : m ≠ i) : t.standing m = s.standing m := by rw [State.standing, others m ne, State.standing]
  have off : i ∉ s.sched.stack := fun on => by
    rw [suspendeds, (actives i).1 own] at on
    cases on
  rw [stack, seq]
  refine ⟨fun m => ?_, fun m => ?_, List.nodup_cons.2 ⟨off, nodup⟩, room⟩
  · by_cases here : m = i
    · subst here
      simp [suspended]
    · rw [same m here, ← actives m, own]
      simp only [reduceCtorEq, Option.some.injEq, false_iff]
      exact fun e => here e.symm
  · by_cases here : m = i
    · subst here
      simp [suspended]
    · rw [same m here, ← suspendeds m, List.mem_cons]
      exact or_iff_right here

/-! ### Making a job -/

theorem claimsOn_some (k : LaneNo) (j : Job) :
    claimsOn k (some j) = if j.kind = .deliver ∧ j.claim = true ∧ j.lane = some k then 1 else 0 := by
  simp [claimsOn, and_assoc]

theorem claimsOn_of_unclaimed (k : LaneNo) (h : j.claim = false) : claimsOn k (some j) = 0 := by
  simp [claimsOn_some, h]

/-- A job made in an empty slot, with a claim where it holds one. -/
theorem planning_enrol {l : Nat} (empty : s.job i = none)
    (sched : t.sched = { s.sched with slots := s.sched.slots.write i (some j'), lastJobId := l }) (seq : t.seq = s.seq)
    (shuttle : t.shuttle = s.shuttle) (accounts : t.accounts = s.accounts) (reject : t.rack.reject = s.rack.reject)
    (lane : ∀ k, t.lane k = { s.lane k with claimed := (s.lane k).claimed + claimsOn k (some j') })
    (covered : ∀ k, claimsOn k (some j') ≠ 0 → (s.lane k).claimed + 1 ≤ (s.lane k).bars.length)
    (apart : s.apart i j') (ok : j'.ok) (waiting : j'.state = .waiting) (bar : j'.bar = none) : Planning s t := by
  have here : t.job i = some j' := by rw [State.job, sched, Bank.read_write_self]
  have others (m : Slot) (ne : m ≠ i) : t.job m = s.job m := by
    rw [State.job, sched, Bank.read_write_ne _ _ _ _ ne.symm]
    rfl
  refine ⟨shuttle, seq, reject, fun k => by rw [lane k], fun m x hx _ => ?_, fun x _ => ?_, fun h => ?_⟩
  · have ne : m ≠ i := by
      rintro rfl
      rw [empty] at hx
      cases hx
    exact ⟨x.deadline, x.created, (others m ne).trans hx⟩
  · refine State.idCount_le_of (fun k => by rw [lane k]) (fun m => ?_) fun n => le_of_eq ?_
    · by_cases own : m = i
      · subst own
        rw [here, slotIdCount]
        simp [bar]
      · rw [others m own]
    · rw [State.account, accounts]
      rfl
  · have gone (x : JobState) (ne : x ≠ .waiting) : t.standing i ≠ some x := by
      rw [State.standing_of_job here, waiting]
      exact fun e => ne (Option.some.inj e).symm
    have off : i ∉ s.sched.stack := fun on => by
      obtain ⟨x, hx, -⟩ := (h.stack.2.1 i).1 on
      rw [empty] at hx
      cases hx
    have notOwn : s.seq.job ≠ some i := fun own => by
      obtain ⟨x, hx, -⟩ := h.active own
      rw [empty] at hx
      cases hx
    refine h.change i others (fun x hx => ?_) ?_ ?_ (fun k => ?_) fun x hx _ => ?_
    · rw [here] at hx
      cases hx
      exact apart
    · rw [sched]
      exact (s.jobsOk_iff.1 h.jobs).2
    · refine State.stackOk_leave h.stack others (gone _ (by decide)) (gone _ (by decide)) ?_ ?_
      · rw [sched, List.erase_of_not_mem off]
      · rw [seq, if_neg notOwn]
    · obtain ⟨room, within, -⟩ := h.lanes k
      rw [lane k, here, empty]
      refine ⟨room, ?_, rfl⟩
      have one : claimsOn k (some j') ≤ 1 := by
        unfold claimsOn
        split <;> omega
      by_cases claims : claimsOn k (some j') = 0
      · simpa [claims] using within
      · have := covered k claims
        change (s.lane k).claimed + claimsOn k (some j') ≤ (s.lane k).bars.length
        omega
    · rw [here] at hx
      cases hx
      exact ok

theorem State.claimLane_spec {g : Program} (found : s.claimLane g = some k) :
    (s.lane k).claimed + 1 ≤ (s.lane k).bars.length := by
  have claimable := List.find?_some found
  rw [LaneRecord.claimable, Bool.and_eq_true] at claimable
  have available := of_decide_eq_true claimable.2
  rw [LaneRecord.available] at available
  omega

/-- A job made for a lathe that has none of its kind, with the id issued next, is apart from the others. -/
theorem State.apart_of_new (lacks : s.hasJob n kind = false) (id : j'.id = s.nextJobId) (lathe : j'.lathe = n)
    (isKind : j'.kind = kind) : s.apart i j' := fun m x _ hx => by
  refine ⟨id ▸ State.nextJobId_free hx, fun same like => ?_⟩
  rw [State.hasJob_of_job hx (same.trans lathe) (like.trans isKind)] at lacks
  cases lacks

end Operations

end Sys2Proof.Machine

/-! PROOFS. The schedule's bookkeeping as a whole keeps the plan: claims, bin blocks, creation requests, the deferred
list and the stock gain (R79, R92 to R100). -/
namespace Sys2Proof.Machine

open Sys2Proof

/-! ### The record of a job that carries nothing -/

/-- The record of a job that carries nothing (R77, R88, R97, R101). -/
structure Job.Unladen (j : Job) : Prop where
  bar : j.bar = none
  parts : j.parts = 0
  others : j.kind ≠ .deliver → j.claim = false ∧ j.short = false ∧ j.cancel = .none
  deliver : j.kind = .deliver →
    j.block ≠ .guardParked ∧ (j.claim = true ↔ j.block ≠ .noStock) ∧ (j.claim = true → j.lane.isSome = true) ∧
      j.short = false
  collect : j.kind = .collect → j.bin.isSome = true
  ret : j.kind = .ret → j.lane = none
  block : j.state ≠ .waiting → j.block = .none

section Unladen
variable {j : Job}

theorem Job.carried_eq_none (j : Job) : j.carried = .none ↔ j.step = .one ∨ j.step = .two := by
  unfold Job.carried
  cases j.kind <;> cases j.step <;> simp

/-- At the steps 1 and 2 the record of a job is one that carries nothing. -/
theorem Job.ok_iff_unladen (early : j.step = .one ∨ j.step = .two) :
    j.ok ↔ j.Unladen ∧ (j.state ≠ .active → j.step = .one) := by
  have carried := j.carried_eq_none.2 early
  unfold Job.ok
  rw [carried]
  constructor
  · rintro ⟨bar, parts, one, others, deliver, collect, ret, block⟩
    refine ⟨⟨?_, ?_, others, fun kind => ?_, collect, fun kind => ?_, block⟩, one⟩
    · simpa using bar
    · by_contra some
      cases parts some
    · obtain ⟨parked, claim, lane, short⟩ := deliver kind
      refine ⟨parked, by simpa [early] using claim, lane, ?_⟩
      by_contra isShort
      cases short (by simpa using isShort)
    · by_contra some
      cases ret kind (Option.isSome_iff_ne_none.2 some)
  · rintro ⟨⟨bar, parts, others, deliver, collect, ret, block⟩, one⟩
    refine ⟨by simp [bar], fun some => absurd parts some, one, others, fun kind => ?_, collect, fun kind some => ?_,
      block⟩
    · obtain ⟨parked, claim, lane, short⟩ := deliver kind
      exact ⟨parked, by simpa [early] using claim, lane, fun isShort => by rw [short] at isShort; cases isShort⟩
    · rw [ret kind] at some
      cases some

/-- The record of a job that is not ACTIVE is one that carries nothing. -/
theorem Job.ok.unladen (h : j.ok) (rest : j.state ≠ .active) : j.step = .one ∧ j.Unladen := by
  have one := h.2.2.1 rest
  exact ⟨one, ((Job.ok_iff_unladen (.inl one)).1 h).1⟩

theorem Job.Unladen.ok (h : j.Unladen) (one : j.step = .one) : j.ok :=
  (Job.ok_iff_unladen (.inl one)).2 ⟨h, fun _ => one⟩

end Unladen

section Operations
variable {s t u : State} {i : Slot} {j j' : Job} {k : LaneNo} {n : Lathe}

/-! ### Claims (R78, R79, R97) -/

/-- The record of a job with a claim on lane `k`. -/
def Job.claiming (j : Job) (k : LaneNo) : Job := { j with lane := some k, claim := true, block := .none }

theorem State.takeClaim_of_job (hj : s.job i = some j) (k : LaneNo) :
    s.takeClaim i k = (s.setLane k { s.lane k with claimed := (s.lane k).claimed + 1 }).setSlot i
      (some (j.claiming k)) := by
  unfold State.takeClaim State.updateJob
  rw [State.setLane_job, hj]
  rfl

theorem State.Planned.takeClaim (h : s.Planned) (hj : s.job i = some j) (kind : j.kind = .deliver)
    (unclaimed : j.claim = false) (room : (s.lane k).claimed + 1 ≤ (s.lane k).bars.length)
    (fit : j.state ≠ .active → (j.claiming k).ok) : (s.takeClaim i k).Planned := by
  rw [State.takeClaim_of_job hj]
  refine h.change i (fun m ne => by simp [ne.symm]) (fun x hx => ?_) (s.jobsOk_iff.1 h.jobs).2 ?_ (fun l => ?_)
    fun x hx rest => ?_
  · rw [State.setSlot_job_self] at hx
    cases hx
    exact State.apart_of_like (h.apart hj) rfl rfl (.inl rfl)
  · refine State.stackOk_of_standing h.stack (fun m => ?_) rfl rfl
    by_cases same : i = m
    · subst same
      rw [State.standing, State.setSlot_job_self, State.standing, hj]
      rfl
    · rw [State.standing, State.setSlot_job_ne _ _ _ _ same]
      rfl
  · obtain ⟨places, covered, -⟩ := h.lanes l
    rw [State.setSlot_job_self, hj, claimsOn_of_unclaimed l unclaimed, claimsOn_some, State.setSlot_lane]
    simp only [Job.claiming, kind, true_and, Option.some.injEq]
    by_cases same : k = l
    · subst same
      rw [State.setLane_lane_self, if_pos rfl]
      exact ⟨places, room, rfl⟩
    · rw [State.setLane_lane_ne _ _ _ _ same, if_neg same]
      exact ⟨places, covered, by omega⟩
  · rw [State.setSlot_job_self] at hx
    cases hx
    exact fit rest

/-- A waiting DELIVER job's record with a claim. -/
theorem Job.Unladen.claiming (h : j.Unladen) (kind : j.kind = .deliver) (one : j.step = .one) (k : LaneNo) :
    (j.claiming k).ok := by
  obtain ⟨-, -, -, short⟩ := h.deliver kind
  exact Job.Unladen.ok (j := j.claiming k)
    ⟨h.bar, h.parts, fun other => absurd kind other,
      fun _ => ⟨fun e => (nomatch e), ⟨fun _ e => (nomatch e), fun _ => rfl⟩, fun _ => rfl, short⟩,
      h.collect, fun ret => absurd (kind.symm.trans ret) (by decide), fun _ => rfl⟩ one

/-- A DELIVER job that waits without stock takes a claim. -/
theorem planning_takeClaim (hj : s.job i = some j) (kind : j.kind = .deliver) (waiting : j.state = .waiting)
    (blocked : j.block = .noStock) (room : (s.lane k).claimed + 1 ≤ (s.lane k).bars.length) :
    Planning s (s.takeClaim i k) := by
  have takes := State.takeClaim_of_job hj k
  refine ⟨by rw [takes]; rfl, by rw [takes]; rfl, by rw [takes]; rfl, fun l => ?_, fun m x hx active => ?_,
    fun x _ => ?_,
    fun h => ?_⟩
  · rw [takes, State.setSlot_lane]
    by_cases same : k = l
    · subst same
      rw [State.setLane_lane_self]
    · rw [State.setLane_lane_ne _ _ _ _ same]
  · have ne : i ≠ m := by
      rintro rfl
      rw [hj] at hx
      cases hx
      rw [waiting] at active
      cases active
    exact ⟨x.deadline, x.created, by rw [takes, State.setSlot_job_ne _ _ _ _ ne]; exact hx⟩
  · rw [takes]
    refine State.idCount_le_of (fun l => ?_) (fun m => ?_) fun _ => Nat.le_refl _
    · rw [State.setSlot_lane]
      by_cases same : k = l
      · subst same
        rw [State.setLane_lane_self]
      · rw [State.setLane_lane_ne _ _ _ _ same]
    · by_cases same : i = m
      · subst same
        rw [State.setSlot_job_self, hj]
        exact Nat.le_refl _
      · rw [State.setSlot_job_ne _ _ _ _ same]
        exact Nat.le_refl _
  · obtain ⟨one, unladen⟩ := (h.fit i j hj (by rw [waiting]; decide)).unladen (by rw [waiting]; decide)
    have unclaimed : j.claim = false := by
      by_contra claims
      exact (unladen.deliver kind).2.1.1 (by simpa using claims) blocked
    exact h.takeClaim hj kind unclaimed room fun _ => unladen.claiming kind one k

theorem planning_present (k : LaneNo) (fuel : Nat) (s : State) : Planning s (State.present k fuel s) := by
  induction fuel generalizing s with
  | zero => exact .refl s
  | succ fuel ih =>
    unfold State.present
    by_cases available : 1 ≤ (s.lane k).available
    · rw [if_pos available]
      split
      · next i j found =>
        obtain ⟨hj, wants⟩ := State.bestJob_spec found
        simp only [State.wantsLane, Bool.and_eq_true, beq_iff_eq] at wants
        obtain ⟨⟨⟨kind, waiting⟩, blocked⟩, -⟩ := wants
        rw [LaneRecord.available] at available
        exact (planning_takeClaim hj kind waiting blocked (by omega)).trans (ih _)
      · exact .refl s
    · rw [if_neg available]
      exact .refl s

theorem planning_stockGain (s : State) (k : LaneNo) : Planning s (s.stockGain k) := by
  unfold State.stockGain
  split
  · exact planning_present k 32 s
  · exact .refl s

theorem planning_gainOfRelease (s : State) (j : Job) : Planning s (s.gainOfRelease j) := by
  unfold State.gainOfRelease
  split
  · exact planning_stockGain s _
  · exact .refl s

/-! ### Records retouched -/

/-- A retouching of a job that is not a DELIVER's leaves the claims. -/
theorem claimsOn_of_other (h : j.kind ≠ .deliver) (k : LaneNo) : claimsOn k (some j) = 0 := by
  simp [claimsOn_some, h]

/-- A WAITING COLLECT or RETURN job takes another block. -/
theorem planning_reblock (hj : s.job i = some j) (kind : j.kind ≠ .deliver) (waiting : j.state = .waiting)
    (block : BlockReason) : Planning s (s.setSlot i (some { j with block := block })) := by
  refine planning_retouch hj ⟨rfl, rfl, .inl rfl, rfl, fun k => ?_, fun rest ok => ?_⟩ (fun active => ?_) rfl
  · rw [claimsOn_of_other kind, claimsOn_of_other (j := { j with block := block }) kind]
  · obtain ⟨one, unladen⟩ := ok.unladen rest
    exact Job.Unladen.ok (j := { j with block := block })
      ⟨unladen.bar, unladen.parts, unladen.others, fun deliver => absurd deliver kind, unladen.collect, unladen.ret,
        fun other => absurd waiting other⟩ one
  · rw [waiting] at active
    cases active

/-- A SUSPENDED COLLECT job that its bin blocks leaves the stack (R100). -/
theorem planning_unstack (hj : s.job i = some j) (kind : j.kind = .collect) (suspended : j.state = .suspended)
    (block : BlockReason) :
    Planning s (s.setSched
      { s.sched with
        slots := s.sched.slots.write i (some { j with state := .waiting, block := block, step := .one })
        stack := s.sched.stack.erase i }) := by
  obtain ⟨j', is⟩ : ∃ j', ({ j with state := .waiting, block := block, step := .one } : Job) = j' := ⟨_, rfl⟩
  rw [is]
  obtain ⟨t, isT⟩ : ∃ t, s.setSched
      { s.sched with slots := s.sched.slots.write i (some j'), stack := s.sched.stack.erase i } = t := ⟨_, rfl⟩
  have here : t.job i = some j' := by
    rw [← isT]
    exact Bank.read_write_self _ _ _
  have others (m : Slot) (ne : m ≠ i) : t.job m = s.job m := by
    rw [← isT]
    exact Bank.read_write_ne _ _ _ _ ne.symm
  have isWaiting : j'.state = .waiting := by rw [← is]
  have notDeliver : j'.kind ≠ .deliver := by
    rw [← is, kind]
    decide
  rw [isT]
  refine ⟨by rw [← isT]; rfl, by rw [← isT]; rfl, by rw [← isT]; rfl, fun _ => by rw [← isT]; rfl,
    fun m x hx active => ?_,
    fun x _ => ?_, fun h => ?_⟩
  · have ne : m ≠ i := by
      rintro rfl
      rw [hj] at hx
      cases hx
      rw [suspended] at active
      cases active
    exact ⟨x.deadline, x.created, (others m ne).trans hx⟩
  · refine State.idCount_le_of (fun _ => by rw [← isT]; rfl) (fun m => ?_) fun _ => by rw [← isT]; exact Nat.le_refl _
    by_cases own : m = i
    · subst own
      rw [here, hj, ← is]
      exact Nat.le_refl _
    · rw [others m own]
  · obtain ⟨one, unladen⟩ := (h.fit i j hj (by rw [suspended]; decide)).unladen (by rw [suspended]; decide)
    refine h.change i others (fun x hx => ?_) (by rw [← isT]; exact (s.jobsOk_iff.1 h.jobs).2) ?_ (fun l => ?_)
      fun x hx _ => ?_
    · rw [here] at hx
      cases hx
      rw [← is]
      exact State.apart_of_like (h.apart hj) rfl rfl (.inl rfl)
    · have gone (x : JobState) (ne : x ≠ .waiting) : t.standing i ≠ some x := by
        rw [State.standing_of_job here, isWaiting]
        exact fun e => ne (Option.some.inj e).symm
      refine State.stackOk_leave h.stack others (gone _ (by decide)) (gone _ (by decide)) (by rw [← isT]; rfl) ?_
      rw [← isT, if_neg fun own => ?_]
      · rfl
      · obtain ⟨x, hx, active⟩ := h.active own
        rw [hj] at hx
        cases hx
        rw [suspended] at active
        cases active
    · obtain ⟨places, covered, -⟩ := h.lanes l
      rw [here, hj, claimsOn_of_other notDeliver, claimsOn_of_other (by rw [kind]; decide), ← isT]
      exact ⟨places, covered, rfl⟩
    · rw [here] at hx
      cases hx
      rw [← is]
      exact Job.Unladen.ok (j := { j with state := .waiting, block := block, step := .one })
        ⟨unladen.bar, unladen.parts, unladen.others, fun deliver => absurd (kind.symm.trans deliver) (by decide),
          unladen.collect, unladen.ret, fun other => absurd rfl other⟩ rfl

/-! ### Bin blocks (R100) -/

theorem planning_evalBinBlock (s : State) (i : Slot) : Planning s (s.evalBinBlock i) := by
  unfold State.evalBinBlock
  split
  · exact .refl s
  next j hj =>
  split
  · exact .refl s
  next b _ =>
  split
  · exact .refl s
  · next isCollect =>
    have collect : j.kind = .collect := by simpa using isCollect
    split
    · next waiting =>
      split
      · exact .refl s
      · exact planning_reblock hj (by rw [collect]; decide) waiting _
    · next suspended =>
      split
      · exact .refl s
      · exact planning_unstack hj collect suspended _
    · exact .refl s

theorem planning_foldl {α : Type} (f : State → α → State) (each : ∀ s a, Planning s (f s a)) (l : List α) (s : State) :
    Planning s (l.foldl f s) := by
  induction l generalizing s with
  | nil => exact .refl s
  | cons a l ih => exact (each s a).trans (ih _)

theorem planning_evalBins (s : State) (b : BinNo) : Planning s (s.evalBins b) := by
  refine planning_foldl _ (fun s i => ?_) allSlots s
  split
  · split
    · exact planning_evalBinBlock s i
    · exact .refl s
  · exact .refl s

theorem planning_unpark (s : State) (n : Lathe) (i : Slot) (plan : ∀ j, s.job i = some j → j.block = .guardParked →
    j.kind ≠ .deliver ∧ j.state = .waiting) : Planning s (s.unpark n i) := by
  unfold State.unpark
  split
  · next j hj =>
    split
    · next own =>
      simp only [Bool.and_eq_true, decide_eq_true_eq, beq_iff_eq] at own
      obtain ⟨kind, waiting⟩ := plan j hj own.2
      exact (planning_reblock hj kind waiting _).trans (planning_evalBinBlock _ i)
    · exact .refl s
  · exact .refl s

/-! ### Creation requests and the deferred list (R92 to R96) -/

theorem newJob_unladen {id : Nat} {kind : JobKind} {now deadline : Time} {bin : Option BinNo} (other : kind ≠ .deliver)
    (isBin : kind = .collect → bin.isSome = true) : (newJob id kind n now deadline bin).ok :=
  Job.Unladen.ok
    ⟨rfl, rfl, fun _ => ⟨rfl, rfl, rfl⟩, fun deliver => absurd deliver other, isBin, fun _ => rfl,
      fun _ => rfl⟩ rfl

theorem madeDeliver_unladen (s : State) (n : Lathe) (block : BlockReason) (claim : Bool) (lane : Option LaneNo)
    (parked : block ≠ .guardParked) (claims : claim = true ↔ block ≠ .noStock)
    (named : claim = true → lane.isSome = true) :
    ({ s.madeDeliver n with lane := lane, claim := claim, block := block } : Job).ok :=
  Job.Unladen.ok
    ⟨rfl, rfl, fun other => absurd rfl other, fun _ => ⟨parked, claims, named, rfl⟩, fun kind => (nomatch kind),
      fun kind => (nomatch kind), fun other => absurd rfl other⟩ rfl

/-- A job made in an empty slot for a lathe that has none of its kind. -/
theorem planning_createIn {kind : JobKind} (empty : s.job i = none) (lacks : s.hasJob n kind = false) :
    Planning s (s.createIn i n kind) := by
  cases program : (s.account n).program with
  | none =>
    unfold State.createIn
    simp only [program]
    exact .refl s
  | some g =>
    have unclaimed {x : Job} (claim : x.claim = false) (l : LaneNo) :
        s.lane l = { s.lane l with claimed := (s.lane l).claimed + claimsOn l (some x) } := by
      rw [claimsOn_of_unclaimed l claim]
      rfl
    cases kind with
    | deliver =>
      cases lane : s.claimLane g with
      | none =>
        rw [State.createIn_deliver_blocked program lane]
        refine Planning.trans ?_ (planning_post _ _)
        refine planning_enrol empty (j' := { s.madeDeliver n with block := .noStock }) rfl rfl rfl rfl rfl
          (unclaimed rfl) (fun l claims => absurd (claimsOn_of_unclaimed l rfl) claims)
          (State.apart_of_new lacks rfl rfl rfl) ?_ rfl rfl
        exact madeDeliver_unladen s n .noStock false none (by decide) (by simp) (by simp)
      | some k =>
        rw [State.createIn_deliver_claim program lane]
        have room := State.claimLane_spec lane
        refine planning_enrol empty (j' := { s.madeDeliver n with lane := some k, claim := true }) rfl rfl rfl rfl rfl
          (fun l => ?_) (fun l claims => ?_) (State.apart_of_new lacks rfl rfl rfl) ?_ rfl rfl
        · rw [State.setSched_lane, claimsOn_some]
          by_cases same : k = l
          · subst same
            rw [State.setLane_lane_self, if_pos ⟨rfl, rfl, rfl⟩]
          · rw [State.setLane_lane_ne _ _ _ _ same, if_neg fun ⟨_, _, e⟩ => same (Option.some.inj e)]
            rfl
        · rw [claimsOn_some] at claims
          have same : k = l := by
            by_contra other
            exact claims (if_neg fun ⟨_, _, e⟩ => other (Option.some.inj e))
          exact same ▸ room
        · exact madeDeliver_unladen s n .none true (some k) (by decide) (by simp) fun _ => rfl
    | collect =>
      unfold State.createIn
      simp only [program]
      refine Planning.trans ?_ (planning_evalBinBlock _ i)
      exact planning_enrol empty (l := s.nextJobId)
        (j' := newJob s.nextJobId .collect n s.now (((s.account n).fullAt s.now).getD s.now)
          (some g.bin)) rfl rfl rfl rfl
        rfl (unclaimed rfl) (fun l claims => absurd (claimsOn_of_unclaimed l rfl) claims)
        (State.apart_of_new lacks rfl rfl rfl) (newJob_unladen (by decide) fun _ => rfl) rfl rfl
    | ret =>
      unfold State.createIn
      simp only [program]
      exact planning_enrol empty (l := s.nextJobId)
        (j' := newJob s.nextJobId .ret n s.now (s.now + BitVec.ofNat 32 s.params.preemptMargin) none) rfl rfl rfl rfl
        rfl (unclaimed rfl) (fun l claims => absurd (claimsOn_of_unclaimed l rfl) claims)
        (State.apart_of_new lacks rfl rfl rfl) (newJob_unladen (by decide) fun kind => (nomatch kind)) rfl rfl

/-- The deferred list changed, with no pairing twice on it. -/
theorem planning_deferred {l : List (Lathe × JobKind)} (nodup : s.sched.deferred.Nodup → l.Nodup) :
    Planning s (s.setSched { s.sched with deferred := l }) where
  shuttle := rfl
  seq := rfl
  reject := rfl
  reserved _ := rfl
  active _ j hj _ := ⟨j.deadline, j.created, hj⟩
  ids x _ := le_of_eq (State.idCount_congr (s := s) rfl rfl rfl x)
  plan h := ⟨h.lanes, ⟨h.jobs.1, nodup h.jobs.2.1, h.jobs.2.2⟩, h.stack, h.fit⟩

theorem planning_defer (s : State) (n : Lathe) (kind : JobKind) : Planning s (s.defer n kind) := by
  unfold State.defer
  split
  · exact .refl s
  · next new =>
    exact planning_deferred fun nodup => List.nodup_append.2
      ⟨nodup, List.nodup_singleton _, fun e mem e' mem' same => by
      rw [List.mem_singleton] at mem'
      exact new (mem' ▸ same ▸ mem)⟩

theorem planning_request (s : State) (n : Lathe) (kind : JobKind) : Planning s (s.request n kind) := by
  unfold State.request
  by_cases has : s.hasJob n kind = true
  · rw [if_pos has]
    exact .refl s
  · rw [if_neg has]
    split
    · exact planning_defer s n kind
    · next i slot =>
      split
      · exact planning_createIn (State.emptySlot_spec slot) (by simpa using has)
      · exact planning_defer s n kind

theorem State.lacks_of_deferredHolds {kind : JobKind} (holds : s.deferredHolds n kind = true) :
    s.hasJob n kind = false := by
  unfold State.deferredHolds at holds
  dsimp only at holds
  split at holds
  · cases holds
  · cases kind <;> simp_all

theorem planning_serveFrom (s : State) (l : List (Lathe × JobKind))
    (suffix : s.sched.deferred.Nodup → l.Nodup) : Planning s (s.serveFrom l) := by
  induction l with
  | nil => exact planning_deferred fun _ => List.nodup_nil
  | cons e rest ih =>
    obtain ⟨n, kind⟩ := e
    have later (nodup : s.sched.deferred.Nodup) : rest.Nodup := (suffix nodup).of_cons
    unfold State.serveFrom
    by_cases holds : s.deferredHolds n kind = true
    · rw [if_pos holds]
      split
      · next slot =>
        exact (planning_deferred later).trans
          (planning_createIn (State.emptySlot_spec slot) (State.lacks_of_deferredHolds holds))
      · exact .refl s
    · rw [if_neg holds]
      exact ih later

theorem planning_serveDeferred (s : State) : Planning s s.serveDeferred := planning_serveFrom s _ id

theorem planning_collectAgain (s : State) (n : Lathe) : Planning s (s.collectAgain n) := by
  unfold State.collectAgain
  split
  · split
    · exact planning_request s n _
    · exact .refl s
  · exact .refl s

/-! ### Deadlines (R47, R48, R102) -/

theorem planning_setDeadline (s : State) (i : Slot) (d : Time) : Planning s (s.setDeadline i d) := by
  unfold State.setDeadline State.updateJob
  cases hj : s.job i with
  | none =>
    have same : s.setSlot i none = s := by
      unfold State.setSlot
      rw [show (none : Option Job) = s.sched.slots.read i from hj.symm, Bank.write_read]
      rfl
    rw [Option.map_none, same]
    exact .refl s
  | some j =>
    exact planning_retouch (j' := { j with deadline := d }) hj ⟨rfl, rfl, .inl rfl, rfl, fun _ => rfl, fun _ ok => ok⟩
      (fun _ => ⟨d, j.created, rfl⟩) rfl

theorem planning_rewriteDeliver (s : State) (n : Lathe) : Planning s (s.rewriteDeliver n) := by
  unfold State.rewriteDeliver
  split
  · exact planning_setDeadline s _ _
  · exact .refl s

theorem planning_rewriteCollect (s : State) (n : Lathe) : Planning s (s.rewriteCollect n) := by
  unfold State.rewriteCollect
  split
  · exact planning_setDeadline s _ _
  · exact .refl s

end Operations

end Sys2Proof.Machine

/-! PROOFS. The active job's step taken up: a state poised for it, with a job on the shuttle and no order out, comes to
books that are kept, whether the order is issued, waits or is halted (R104, R117 to R125, R149, R150). -/
namespace Sys2Proof.Machine

open Sys2Proof

/-- Job `j` is on the shuttle as its record says: the record fits its step, the load is the one it carries, and the
reservations are the one it calls for (R84, R118, R149). -/
structure State.Carries (s : State) (j : Job) : Prop where
  ok : j.ok
  load : s.shuttle.load = j.carried
  reserved : ∀ k, (s.lane k).reserved = if j.kind = .ret ∧ j.lane = some k then 1 else 0

/-- The shuttle stands with job `j` of slot `i`, with no order out and no fault. -/
structure State.Held (s : State) (i : Slot) (j : Job) : Prop where
  plan : s.Planned
  seq : s.seq.job = some i
  job : s.job i = some j
  outstanding : s.shuttle.outstanding = none
  fault : s.shuttle.fault = none
  homeFailed : s.shuttle.homeFailed = false
  state : s.shuttle.state ≠ .fault
  reject : s.rack.reject ≤ 20

/-- Job `j` of slot `i` is poised for its present step. -/
structure State.Poised (s : State) (i : Slot) (j : Job) : Prop where
  held : s.Held i j
  carries : s.Carries j
  ids : s.idsOk

section Poised
variable {s t : State} {i : Slot} {j : Job}

theorem State.active_of_job (seq : s.seq.job = some i) (hj : s.job i = some j) : s.active = some (i, j) :=
  State.active_eq_some.2 ⟨seq, hj⟩

theorem State.active_of_none (seq : s.seq.job = none) : s.active = none := by
  rw [State.active, seq]
  rfl

theorem State.reservedFor_of_active (active : s.active = some (i, j)) (k : LaneNo) :
    s.reservedFor k = if j.kind = .ret ∧ j.lane = some k then 1 else 0 := by
  rw [State.reservedFor, active]

/-! ### The books from their parts -/

/-- The books with a job on the shuttle. -/
theorem State.booksOk_of_job (plan : s.Planned) (ids : s.idsOk) (seq : s.seq.job = some i) (hj : s.job i = some j)
    (carries : s.Carries j) (step : s.stepOk) (fault : s.faultOk) : s.BooksOk := by
  have active := State.active_of_job seq hj
  refine ⟨ids, fun k => ?_, plan.jobs, plan.stack, ⟨fun m x hx => ?_, ?_⟩, step, fault⟩
  · obtain ⟨room, covered, claims⟩ := plan.lanes k
    rw [State.reservedFor_of_active active, s.claimants_length]
    exact ⟨room, covered, claims, carries.reserved k⟩
  · by_cases rest : x.state = .active
    · have own := plan.seq hx rest
      rw [seq] at own
      cases own
      rw [hj] at hx
      cases hx
      exact carries.ok
    · exact plan.fit m x hx rest
  · rw [active]
    exact carries.load

/-- The books with no job on the shuttle. -/
theorem State.booksOk_of_none (plan : s.Planned) (ids : s.idsOk) (seq : s.seq.job = none)
    (load : s.shuttle.load = .none)
    (reserved : ∀ k, (s.lane k).reserved = 0) (step : s.stepOk) (fault : s.faultOk) : s.BooksOk := by
  have active := State.active_of_none seq
  refine ⟨ids, fun k => ?_, plan.jobs, plan.stack, ⟨fun m x hx => plan.fit m x hx fun rest => ?_, ?_⟩, step, fault⟩
  · obtain ⟨room, covered, claims⟩ := plan.lanes k
    rw [State.reservedFor, active, s.claimants_length]
    exact ⟨room, covered, claims, reserved k⟩
  · have own := plan.seq hx rest
    rw [seq] at own
    cases own
  · rw [active]
    exact load

theorem State.BooksOk.plan (h : s.BooksOk) : s.Planned :=
  ⟨fun k => by
      obtain ⟨room, covered, claims, -⟩ := h.lanes k
      exact ⟨room, covered, claims.trans (s.claimants_length k)⟩,
    h.jobs, h.stack, fun i j hj _ => h.loads.1 i j hj⟩

theorem State.BooksOk.carries (h : s.BooksOk) (seq : s.seq.job = some i) (hj : s.job i = some j) : s.Carries j := by
  have active := State.active_of_job seq hj
  refine ⟨h.loads.1 i j hj, ?_, fun k => ?_⟩
  · have load := h.loads.2
    rwa [active] at load
  · obtain ⟨-, -, -, reserved⟩ := h.lanes k
    rw [reserved, State.reservedFor_of_active active]

theorem State.BooksOk.load_of_none (h : s.BooksOk) (seq : s.seq.job = none) : s.shuttle.load = .none := by
  have load := h.loads.2
  rwa [State.active_of_none seq] at load

theorem State.BooksOk.reserved_of_none (h : s.BooksOk) (seq : s.seq.job = none) (k : LaneNo) :
    (s.lane k).reserved = 0 := by
  obtain ⟨-, -, -, reserved⟩ := h.lanes k
  rw [reserved, State.reservedFor, State.active_of_none seq]

/-! ### Frames -/

theorem State.Carries.congr (h : s.Carries j) (load : t.shuttle.load = s.shuttle.load)
    (reserved : ∀ k, (t.lane k).reserved = (s.lane k).reserved) : t.Carries j :=
  ⟨h.ok, load.trans h.load, fun k => (reserved k).trans (h.reserved k)⟩

theorem State.idsOk_congr (h : s.idsOk) (lanes : t.rack.lanes = s.rack.lanes) (slots : t.sched.slots = s.sched.slots)
    (accounts : t.accounts = s.accounts) : t.idsOk := by
  rw [State.idsOk_iff] at h ⊢
  intro x nonzero
  rw [State.idCount_congr lanes slots accounts]
  exact h x nonzero

/-- What a state poised for a step is made of. -/
theorem State.Poised.congr (h : s.Poised i j) (sched : t.sched = s.sched) (rack : t.rack = s.rack)
    (accounts : t.accounts = s.accounts) (seq : t.seq.job = s.seq.job) (load : t.shuttle.load = s.shuttle.load)
    (outstanding : t.shuttle.outstanding = s.shuttle.outstanding) (fault : t.shuttle.fault = s.shuttle.fault)
    (homeFailed : t.shuttle.homeFailed = s.shuttle.homeFailed) (state : t.shuttle.state ≠ .fault) : t.Poised i j where
  held := ⟨h.held.plan.congr (congrArg Rack.lanes rack) sched seq, seq.trans h.held.seq,
    (congrArg (fun x : Schedule => x.slots.read i) sched).trans h.held.job, outstanding.trans h.held.outstanding,
    fault.trans h.held.fault, homeFailed.trans h.held.homeFailed, state, rack ▸ h.held.reject⟩
  carries := h.carries.congr load fun k => congrArg (fun x : Rack => (x.lanes.read k).reserved) rack
  ids := State.idsOk_congr h.ids (congrArg Rack.lanes rack) (congrArg Schedule.slots sched) accounts

theorem State.Poised.activeState (h : s.Poised i j) : j.state = .active := by
  obtain ⟨x, hx, active⟩ := h.held.plan.active h.held.seq
  rw [h.held.job] at hx
  cases hx
  exact active

theorem State.Poised.active (h : s.Poised i j) : s.active = some (i, j) := State.active_of_job h.held.seq h.held.job

/-! ### The step's order issued, in its wait, or halted -/

/-- The step's order is out. -/
theorem State.Poised.books_issued (h : s.Poised i j) {o : Order} {sp : Speed} (order : j.order = some o)
    (sched : t.sched = s.sched) (rack : t.rack = s.rack) (accounts : t.accounts = s.accounts)
    (seq : t.seq.job = s.seq.job) (phase : t.seq.phase = .outstanding) (load : t.shuttle.load = s.shuttle.load)
    (state : t.shuttle.state = .stepping) (out : t.shuttle.outstanding = some ⟨o.kind, some o.target, sp, .step⟩)
    (fault : t.shuttle.fault = s.shuttle.fault) (homeFailed : t.shuttle.homeFailed = s.shuttle.homeFailed)
    (place : o = ⟨.place, .reject⟩ → s.rack.reject < 20) : t.BooksOk := by
  have hj : t.job i = some j := (congrArg (fun x : Schedule => x.slots.read i) sched).trans h.held.job
  have own := seq.trans h.held.seq
  have active := State.active_of_job own hj
  refine State.booksOk_of_job (h.held.plan.congr (congrArg Rack.lanes rack) sched seq)
    (State.idsOk_congr h.ids (congrArg Rack.lanes rack) (congrArg Schedule.slots sched) accounts) own hj
    (h.carries.congr load fun k => congrArg (fun x : Rack => (x.lanes.read k).reserved) rack) ?_ ?_
  · refine ⟨?_, by simp [state, phase], ?_, by simp [state, phase], ?_, ?_, by simp [state], ?_⟩
    · rw [own]
      exact fun e => (nomatch e)
    · simp [state, out]
    · simp [state, out]
    · intro x isOut clear
      rw [out] at isOut
      cases isOut
      cases clear
    · intro m x isActive
      rw [active] at isActive
      cases isActive
      refine ⟨fun waits => by simp [phase] at waits, fun x isOut _ => ?_⟩
      rw [out] at isOut
      cases isOut
      rw [order]
      rfl
  · refine ⟨?_, ?_, ?_, ?_⟩
    · rw [state, fault, h.held.fault]
      simp
    · rw [homeFailed, h.held.homeFailed]
      exact fun e => (nomatch e)
    · rw [rack]
      exact h.held.reject
    · intro m x isActive _ placing
      rw [active] at isActive
      cases isActive
      rw [order] at placing
      rw [rack]
      exact place (Option.some.inj placing)

/-- The step stands in one of its waits. -/
theorem State.Poised.books_waiting (h : s.Poised i j) (sched : t.sched = s.sched) (rack : t.rack = s.rack)
    (accounts : t.accounts = s.accounts) (seq : t.seq.job = s.seq.job)
    (phase : t.seq.phase = .guardPending ∧ (∃ k n, j.order = some ⟨k, .lathe n⟩) ∨ t.seq.phase = .rejectWait ∨
      t.seq.phase = .dumpWait)
    (load : t.shuttle.load = s.shuttle.load) (state : t.shuttle.state = .waiting)
    (out : t.shuttle.outstanding = s.shuttle.outstanding) (fault : t.shuttle.fault = s.shuttle.fault)
    (homeFailed : t.shuttle.homeFailed = s.shuttle.homeFailed) : t.BooksOk := by
  have hj : t.job i = some j := (congrArg (fun x : Schedule => x.slots.read i) sched).trans h.held.job
  have own := seq.trans h.held.seq
  have active := State.active_of_job own hj
  have none := out.trans h.held.outstanding
  refine State.booksOk_of_job (h.held.plan.congr (congrArg Rack.lanes rack) sched seq)
    (State.idsOk_congr h.ids (congrArg Rack.lanes rack) (congrArg Schedule.slots sched) accounts) own hj
    (h.carries.congr load fun k => congrArg (fun x : Rack => (x.lanes.read k).reserved) rack) ?_ ?_
  · refine ⟨by rw [own]; exact fun e => (nomatch e), ?_, by simp [state, none], ?_, by simp [state, none],
      by simp [none], by simp [state], ?_⟩
    · rw [state]
      rcases phase with ⟨phase, -⟩ | phase | phase <;> simp [phase]
    · rw [state]
      rcases phase with ⟨phase, -⟩ | phase | phase <;> simp [phase]
    · intro m x isActive
      rw [active] at isActive
      cases isActive
      refine ⟨fun waits => ?_, fun x isOut => by rw [none] at isOut; cases isOut⟩
      rcases phase with ⟨-, order⟩ | phase | phase
      · exact order
      · rw [waits] at phase
        cases phase
      · rw [waits] at phase
        cases phase
  · refine ⟨by rw [state, fault, h.held.fault]; simp, by rw [homeFailed, h.held.homeFailed]; exact fun e => (nomatch e),
      by rw [rack]; exact h.held.reject, fun m x _ out => ?_⟩
    rcases phase with ⟨phase, -⟩ | phase | phase <;> rw [out] at phase <;> cases phase

/-- The step is halted before it is issued. -/
theorem State.Poised.books_halted (h : s.Poised i j) (state : s.shuttle.state = .halted)
    (phase : s.seq.phase = .unissued) : s.BooksOk := by
  have out := h.held.outstanding
  refine State.booksOk_of_job h.held.plan h.ids h.held.seq h.held.job h.carries ?_ ?_
  · refine ⟨fun _ => phase, by simp [state, phase], by simp [state, out], by simp [state, phase], by simp [state, out],
      by simp [out], by simp [state], fun m x _ => ⟨by simp [phase], by simp [out]⟩⟩
  · exact ⟨by rw [state, h.held.fault]; simp, by rw [h.held.homeFailed]; exact fun e => (nomatch e), h.held.reject,
      fun m x _ isOut => by rw [phase] at isOut; cases isOut⟩

theorem State.holdInFlight_bins (s : State) (j : Job) (o : Order) : ∃ b, s.holdInFlight j o = s.setBins b := by
  unfold State.holdInFlight
  split
  · exact ⟨_, rfl⟩
  · exact ⟨s.bins, rfl⟩

theorem State.Poised.issueStep (h : s.Poised i j) {o : Order} (order : j.order = some o)
    (place : o = ⟨.place, .reject⟩ → s.rack.reject < 20) : (s.issueStep j o).BooksOk := by
  unfold State.issueStep State.setShuttleState
  obtain ⟨b, holds⟩ := ((s.issue o.kind (some o.target) s.shuttle.load.speed .step).noteIssue j o).holdInFlight_bins j o
  rw [holds]
  exact h.books_issued order rfl rfl rfl rfl rfl rfl rfl rfl rfl rfl place

/-- A job on the shuttle has an order for its step (R118). -/
theorem Job.ok.order (h : j.ok) (active : j.state = .active) : ∃ o, j.order = some o := by
  obtain ⟨-, -, -, -, deliver, collect, -, block⟩ := h
  unfold Job.order
  have lane (kind : j.kind = .deliver) (early : j.step = .one ∨ j.step = .two) : ∃ k, j.lane = some k := by
    obtain ⟨-, claim, named, -⟩ := deliver kind
    refine Option.isSome_iff_exists.1 (named (claim.2 ⟨early, ?_⟩))
    rw [block (by rw [active]; decide)]
    decide
  have bin (kind : j.kind = .collect) : ∃ b, j.bin = some b := Option.isSome_iff_exists.1 (collect kind)
  cases kind : j.kind with
  | deliver =>
    cases step : j.step with
    | one =>
      obtain ⟨k, lane⟩ := lane kind (.inl step)
      exact ⟨_, by rw [lane]; rfl⟩
    | two =>
      obtain ⟨k, lane⟩ := lane kind (.inr step)
      exact ⟨_, by rw [lane]; rfl⟩
    | three => exact ⟨_, rfl⟩
    | four => exact ⟨_, rfl⟩
  | collect =>
    obtain ⟨b, bin⟩ := bin kind
    cases j.step with
    | one => exact ⟨_, rfl⟩
    | two => exact ⟨_, rfl⟩
    | three => exact ⟨_, by rw [bin]; rfl⟩
    | four => exact ⟨_, by rw [bin]; rfl⟩
  | ret => cases j.step <;> exact ⟨_, rfl⟩

/-- The checks of a step, passed or not (R119, R123, R125, R132). -/
theorem State.Poised.checkAndIssue (h : s.Poised i j) : s.checkAndIssue.BooksOk := by
  obtain ⟨o, order⟩ := h.carries.ok.order h.activeState
  have bound : s.seq.job.bind s.job = some j := by
    rw [h.held.seq]
    exact h.held.job
  unfold State.checkAndIssue
  simp only [bound, order]
  split
  · next closed =>
    refine h.books_waiting rfl rfl rfl rfl (.inl ⟨rfl, ?_⟩) rfl rfl rfl rfl rfl
    cases target : o.target with
    | lathe n => exact ⟨o.kind, n, by rw [order, ← target]⟩
    | _ => simp [State.guardPasses, target] at closed
  · split
    · next kind target =>
      split
      · next room => exact h.issueStep order fun _ => room
      · exact h.books_waiting (by simp [State.enterWait]) (by simp [State.enterWait]) (by simp [State.enterWait])
          (by simp [State.enterWait]) (.inr (.inl (by simp [State.enterWait]))) (by simp [State.enterWait])
          (by simp [State.enterWait]) (by simp [State.enterWait]) (by simp [State.enterWait])
            (by simp [State.enterWait])
    · next b kind target =>
      split
      · exact h.issueStep order fun placing => by rw [placing] at kind; cases kind
      · exact h.books_waiting (by simp [State.enterWait]) (by simp [State.enterWait]) (by simp [State.enterWait])
          (by simp [State.enterWait]) (.inr (.inr (by simp [State.enterWait]))) (by simp [State.enterWait])
          (by simp [State.enterWait]) (by simp [State.enterWait]) (by simp [State.enterWait])
            (by simp [State.enterWait])
    · next other _ => exact h.issueStep order fun placing => absurd (by rw [placing]) (other (by rw [placing]))

theorem State.Poised.beginStep (h : s.Poised i j) : s.beginStep.Poised i j :=
  h.congr rfl rfl rfl rfl rfl rfl rfl rfl fun e => (nomatch e)

end Poised

end Sys2Proof.Machine

/-! PROOFS. The dispatch of a free shuttle keeps the books, and so do the operations of the account unit, which plan and
may dispatch (R12, R42 to R49, R103). -/
namespace Sys2Proof.Machine

open Sys2Proof

section Free
variable {s t u : State} {i : Slot} {j : Job} {n : Lathe}

/-! ### Planning keeps the books -/

/-- The active job after planning. -/
theorem Planning.active_of (h : Planning s t) (plan : s.Planned) {x : Job} (active : t.active = some (i, x)) :
    ∃ j d c, s.active = some (i, j) ∧ x = { j with deadline := d, created := c } := by
  obtain ⟨own, hx⟩ := State.active_eq_some.1 active
  rw [h.seq] at own
  obtain ⟨j, hj, stands⟩ := plan.active own
  obtain ⟨d, c, hj'⟩ := h.active i j hj stands
  rw [hj'] at hx
  cases hx
  exact ⟨j, d, c, State.active_of_job own hj, rfl⟩

theorem Planning.idsOk (h : Planning s t) (ids : s.idsOk) : t.idsOk := by
  rw [State.idsOk_iff] at ids ⊢
  exact fun x nonzero => (h.ids x nonzero).trans (ids x nonzero)

theorem Planning.books (h : Planning s t) (books : s.BooksOk) : t.BooksOk := by
  have step : t.stepOk := by
    obtain ⟨unissued, stepping, purpose, waits, homing, clear, free, present⟩ := books.step
    unfold State.stepOk
    rw [h.shuttle, h.seq]
    refine ⟨unissued, stepping, purpose, waits, homing, clear, free, fun m x active => ?_⟩
    obtain ⟨j, d, c, active', rfl⟩ := h.active_of books.plan active
    exact present m j active'
  have fault : t.faultOk := by
    obtain ⟨fault, home, reject, place⟩ := books.fault
    unfold State.faultOk
    rw [h.shuttle, h.seq, h.reject]
    refine ⟨fault, home, reject, fun m x active => ?_⟩
    obtain ⟨j, d, c, active', rfl⟩ := h.active_of books.plan active
    exact place m j active'
  cases own : s.seq.job with
  | none =>
    exact State.booksOk_of_none (h.plan books.plan) (h.idsOk books.ids) (h.seq ▸ own)
      (h.shuttle ▸ books.load_of_none own) (fun k => (h.reserved k).trans (books.reserved_of_none own k)) step fault
  | some i =>
    obtain ⟨j, hj, stands⟩ := books.plan.active own
    obtain ⟨d, c, hj'⟩ := h.active i j hj stands
    have carries := books.carries own hj
    exact State.booksOk_of_job (h.plan books.plan) (h.idsOk books.ids) (h.seq ▸ own) hj'
      ⟨carries.ok, h.shuttle ▸ carries.load, fun k => (h.reserved k).trans (carries.reserved k)⟩ step fault

/-! ### The free shuttle -/

/-- The shuttle is free of jobs, orders and faults. -/
structure State.Free (s : State) : Prop where
  plan : s.Planned
  ids : s.idsOk
  seq : s.seq.job = none
  load : s.shuttle.load = .none
  reserved : ∀ k, (s.lane k).reserved = 0
  outstanding : s.shuttle.outstanding = none
  fault : s.shuttle.fault = none
  homeFailed : s.shuttle.homeFailed = false
  state : s.shuttle.state ≠ .fault
  reject : s.rack.reject ≤ 20

/-- Outside STEPPING, HOMING and FAULT no order is out (R150). -/
theorem State.BooksOk.noOrder (h : s.BooksOk) (notStepping : s.shuttle.state ≠ .stepping)
    (notHoming : s.shuttle.state ≠ .homing) (notFault : s.shuttle.state ≠ .fault) : s.shuttle.outstanding = none := by
  obtain ⟨-, -, purpose, -, homing, clear, -, -⟩ := h.step
  cases out : s.shuttle.outstanding with
  | none => rfl
  | some o =>
    cases why : o.purpose with
    | step => exact absurd (purpose.2 ⟨o, out, why⟩) notStepping
    | home => exact absurd (homing.2 ⟨o, out, why⟩) notHoming
    | clear => exact absurd (clear o out why) notFault

theorem State.BooksOk.noFault (h : s.BooksOk) (notFault : s.shuttle.state ≠ .fault) : s.shuttle.fault = none := by
  obtain ⟨fault, -⟩ := h.fault
  by_contra some
  exact notFault (fault.2 (Option.isSome_iff_ne_none.2 some))

theorem State.BooksOk.homed (h : s.BooksOk) (notFault : s.shuttle.state ≠ .fault)
    (notHoming : s.shuttle.state ≠ .homing) :
    s.shuttle.homeFailed = false := by
  obtain ⟨-, home, -⟩ := h.fault
  by_contra failed
  obtain ⟨fault | homing, -⟩ := home (by simpa using failed)
  · exact notFault fault
  · exact notHoming homing

/-- A home failed stands with no job on the shuttle (R159, R166). -/
theorem State.BooksOk.homed_of_job (h : s.BooksOk) (seq : s.seq.job = some i) : s.shuttle.homeFailed = false := by
  obtain ⟨-, home, -⟩ := h.fault
  by_contra failed
  obtain ⟨-, none⟩ := home (by simpa using failed)
  rw [seq] at none
  cases none

theorem State.BooksOk.reject (h : s.BooksOk) : s.rack.reject ≤ 20 := h.fault.2.2.1

theorem State.BooksOk.free (h : s.BooksOk) (state : s.shuttle.state = .idle ∨ s.shuttle.state = .halted)
    (seq : s.seq.job = none) : s.Free := by
  have other (x : ShuttleState) (ne : x ≠ .idle ∧ x ≠ .halted) : s.shuttle.state ≠ x := by
    rintro rfl
    rcases state with state | state
    · exact ne.1 state
    · exact ne.2 state
  exact ⟨h.plan, h.ids, seq, h.load_of_none seq, h.reserved_of_none seq,
    h.noOrder (other _ (by decide)) (other _ (by decide)) (other _ (by decide)), h.noFault (other _ (by decide)),
    h.homed (other _ (by decide)) (other _ (by decide)), other _ (by decide), h.reject⟩

/-- A free shuttle's job record, as it takes the shuttle (R103). -/
def Job.starting (j : Job) : Job := { j with state := .active, block := .none, step := .one, short := false }

theorem Job.Unladen.starting (h : j.Unladen) (block : j.block = .none) : j.starting.ok := by
  refine (Job.ok_iff_unladen (j := j.starting) (.inl rfl)).2
    ⟨⟨h.bar, h.parts, fun other => ?_, fun kind => ?_, h.collect,
    h.ret, fun _ => rfl⟩, fun _ => rfl⟩
  · obtain ⟨claim, -, cancel⟩ := h.others other
    exact ⟨claim, rfl, cancel⟩
  · obtain ⟨-, claim, lane, -⟩ := h.deliver kind
    refine ⟨fun e => (nomatch e), ⟨fun _ e => (nomatch e), fun _ => claim.2 ?_⟩, lane, rfl⟩
    rw [block]
    decide

/-- The shuttle handed to a job that may run, off the stack where it was on it (R103). -/
theorem State.Free.startJob (h : s.Free) (hj : s.job i = some j) (block : j.block = .none)
    (stack : t.sched = { s.sched with stack := s.sched.stack.erase i }) (rack : t.rack = s.rack)
    (accounts : t.accounts = s.accounts) (shuttle : t.shuttle = s.shuttle) : (t.startJob i).BooksOk := by
  have rest : j.state ≠ .active := fun active => by
    have own := h.plan.seq hj active
    rw [h.seq] at own
    cases own
  obtain ⟨one, unladen⟩ := (h.plan.fit i j hj rest).unladen rest
  have hjT : t.job i = some j := by
    rw [State.job, stack]
    exact hj
  have started : t.activate i = (t.setSlot i (some j.starting)).setSeq { StepRecord.clear with job := some i } := by
    unfold State.activate State.updateJob
    rw [hjT]
    rfl
  obtain ⟨v, isV⟩ : ∃ v, t.activate i = v := ⟨_, rfl⟩
  have here : v.job i = some j.starting := by rw [← isV, started]; simp
  have others (m : Slot) (ne : m ≠ i) : v.job m = s.job m := by
    rw [← isV, started, State.setSeq_job, State.setSlot_job_ne _ _ _ _ ne.symm, State.job, stack]
    rfl
  have lane (k : LaneNo) : v.lane k = s.lane k := by
    rw [← isV, started]
    exact congrArg (fun x : Rack => x.lanes.read k) rack
  have claims (k : LaneNo) : claimsOn k (some j.starting) = claimsOn k (some j) := rfl
  have plan : v.Planned := by
    refine h.plan.change i others (fun x hx => ?_) ?_ ?_ (fun k => ?_) fun x hx active => ?_
    · rw [here] at hx
      cases hx
      exact State.apart_of_like (h.plan.apart hj) rfl rfl (.inl rfl)
    · rw [← isV, started]
      change t.sched.deferred.Nodup
      rw [stack]
      exact (s.jobsOk_iff.1 h.plan.jobs).2
    · refine State.stackOk_enter h.plan.stack others h.seq (State.standing_of_job here) ?_ (by rw [← isV, started]; rfl)
      rw [← isV, started]
      change t.sched.stack = _
      rw [stack]
    · obtain ⟨room, covered, -⟩ := h.plan.lanes k
      rw [lane, here, hj, claims]
      exact ⟨room, covered, rfl⟩
    · rw [here] at hx
      cases hx
      exact absurd rfl active
  have poised : v.Poised i j.starting := by
    have shuttle' : v.shuttle = s.shuttle := by
      rw [← isV, started]
      exact shuttle
    have rack' : v.rack = s.rack := by
      rw [← isV, started]
      exact rack
    refine ⟨⟨plan, by rw [← isV, started]; rfl, here, shuttle' ▸ h.outstanding, shuttle' ▸ h.fault,
      shuttle' ▸ h.homeFailed, shuttle' ▸ h.state, rack' ▸ h.reject⟩, ⟨unladen.starting block, ?_, fun k => ?_⟩, ?_⟩
    · rw [shuttle', h.load]
      exact ((j.starting).carried_eq_none.2 (.inl rfl)).symm
    · rw [lane, h.reserved, if_neg]
      rintro ⟨kind, named⟩
      rw [show j.starting.lane = j.lane from rfl, unladen.ret kind] at named
      cases named
    · have ids := h.ids
      rw [State.idsOk_iff] at ids ⊢
      refine fun x nonzero => (State.idCount_le_of (fun k => by rw [lane]) (fun m => ?_) fun m => ?_).trans
        (ids x nonzero)
      · by_cases own : m = i
        · subst own
          rw [here, hj]
          exact Nat.le_refl _
        · rw [others m own]
      · rw [← isV, started]
        exact le_of_eq (congrArg (fun x : Bank Account 12 => (x.read m).idCount _) accounts)
  unfold State.startJob
  rw [isV]
  exact poised.beginStep.checkAndIssue

theorem Job.eligible_iff : j.eligible = true ↔ j.state = .waiting ∧ j.block = .none := by
  simp [Job.eligible]

/-- A job that waits is not on the stack. -/
theorem State.Planned.off_of_waiting (h : s.Planned) (hj : s.job i = some j) (waiting : j.state = .waiting) :
    s.sched.stack.erase i = s.sched.stack := by
  refine List.erase_of_not_mem fun on => ?_
  obtain ⟨x, hx, suspended⟩ := (h.stack.2.1 i).1 on
  rw [hj] at hx
  cases hx
  rw [waiting] at suspended
  cases suspended

/-- The shuttle handed to the best job of those that may run (R103). -/
theorem State.Free.startEligible (h : s.Free) (hj : s.job i = some j) (eligible : j.eligible = true) :
    (s.startJob i).BooksOk := by
  obtain ⟨waiting, block⟩ := Job.eligible_iff.1 eligible
  refine h.startJob hj block ?_ rfl rfl rfl
  rw [h.plan.off_of_waiting hj waiting]

theorem State.BooksOk.dispatch (h : s.BooksOk) : s.dispatch.BooksOk := by
  unfold State.dispatch
  split
  · next free =>
    simp only [State.shuttleFree, Bool.and_eq_true, beq_iff_eq, Option.isNone_iff_eq_none] at free
    have isFree := h.free (.inl free.1) free.2
    split
    · next i rest stack =>
      obtain ⟨j, hj, suspended⟩ := (h.stack.2.1 i).1 (by rw [stack]; exact List.mem_cons_self)
      obtain ⟨-, unladen⟩ := (h.loads.1 i j hj).unladen (by rw [suspended]; decide)
      refine isFree.startJob hj (unladen.block (by rw [suspended]; decide)) ?_ rfl rfl rfl
      rw [stack, List.erase_cons_head]
      rfl
    · split
      · next i j best =>
        obtain ⟨hj, eligible⟩ := State.bestJob_spec best
        exact isFree.startEligible hj eligible
      · exact h
  · exact h

end Free

/-! ### Operations that plan and may dispatch -/

/-- What an operation that plans and may dispatch keeps: the books, and with the shuttle not free it only plans. -/
structure Keeps (s t : State) : Prop where
  busy : s.shuttleFree = false → Planning s t
  books : s.BooksOk → t.BooksOk

section Keeps
variable {s t u : State} {i : Slot} {j : Job} {n : Lathe}

theorem Planning.keeps (h : Planning s t) : Keeps s t := ⟨fun _ => h, h.books⟩

theorem Keeps.refl (s : State) : Keeps s s := (Planning.refl s).keeps

theorem Keeps.trans (h : Keeps s t) (g : Keeps t u) : Keeps s u :=
  ⟨fun busy => (h.busy busy).trans
      (g.busy ((State.shuttleFree_congr (h.busy busy).shuttle (h.busy busy).seq).trans busy)), g.books ∘ h.books⟩

/-- The later stretch given first. -/
theorem Keeps.after (g : Keeps t u) (h : Keeps s t) : Keeps s u := h.trans g

theorem keeps_dispatch (s : State) : Keeps s s.dispatch :=
  ⟨fun busy => by rw [State.dispatch_of_busy busy]; exact .refl s, State.BooksOk.dispatch⟩

theorem keeps_of_frame (sched : t.sched = s.sched) (rack : t.rack = s.rack) (seq : t.seq = s.seq)
    (shuttle : t.shuttle = s.shuttle) (accounts : t.accounts = s.accounts) : Keeps s t :=
  (planning_of_frame sched rack seq shuttle accounts).keeps

theorem keeps_post (s : State) (e : EventRec) : Keeps s (s.post e) := (planning_post s e).keeps

theorem keeps_setAccount {a : Account} (ids : ∀ x, x ≠ 0 → a.idCount x ≤ (s.account n).idCount x) :
    Keeps s (s.setAccount n a) := (planning_setAccount ids).keeps

/-- An account's update that leaves its bars. -/
theorem keeps_setAccount_of_bars {a : Account} (cradle : a.cradle.map (·.bar.id) = (s.account n).cradle.map (·.bar.id))
    (current : a.current.map (·.id) = (s.account n).current.map (·.id)) : Keeps s (s.setAccount n a) :=
  keeps_setAccount fun x _ => by
    unfold Account.idCount
    rw [cradle, current]

theorem keeps_notice (s : State) (n : Lathe) (m : Msg) : Keeps s (s.notice n m) := keeps_of_frame rfl rfl rfl rfl rfl

theorem keeps_evalHold (s : State) (n : Lathe) : Keeps s (s.evalHold n) := by
  unfold State.evalHold
  dsimp only
  split
  · exact .refl s
  · refine .trans ?_ (keeps_notice _ _ _)
    refine Keeps.trans (keeps_setAccount_of_bars (n := n) (a := { s.account n with holdSet := (s.account n).reasons })
      rfl rfl) ?_
    exact keeps_of_frame rfl rfl rfl rfl rfl

theorem keeps_request (s : State) (n : Lathe) (kind : JobKind) : Keeps s (s.request n kind).dispatch :=
  (planning_request s n kind).keeps.trans (keeps_dispatch _)

theorem keeps_settleCompare (s : State) (n : Lathe) : Keeps s (s.settleCompare n) := by
  unfold State.settleCompare
  split
  · exact .refl s
  · exact keeps_of_frame rfl rfl rfl rfl rfl

theorem keeps_writeCompare (s : State) (n : Lathe) : Keeps s (s.writeCompare n).1 := by
  unfold State.writeCompare
  dsimp only
  split
  · exact keeps_of_frame rfl rfl rfl rfl rfl
  · exact keeps_settleCompare s n

theorem keeps_deliverOnFire (s : State) (n : Lathe) : Keeps s (s.deliverOnFire n) := by
  unfold State.deliverOnFire
  split
  · exact .refl s
  · exact keeps_request s n _

theorem keeps_fireIf (s : State) (n : Lathe) (fired : Bool) : Keeps s (s.fireIf n fired) := by
  unfold State.fireIf
  split
  · exact keeps_deliverOnFire s n
  · exact .refl s

theorem keeps_rearm (s : State) (n : Lathe) : Keeps s (s.rearm n) := (keeps_writeCompare s n).trans (keeps_fireIf _ _ _)

theorem keeps_recompute (s : State) (n : Lathe) : Keeps s (s.recompute n).1 := by
  refine Keeps.trans ?_ (planning_rewriteCollect _ n).keeps
  refine Keeps.trans ?_ (planning_rewriteDeliver _ n).keeps
  exact (keeps_writeCompare _ n).after (keeps_setAccount_of_bars rfl rfl)

theorem keeps_recomputeAndFire (s : State) (n : Lathe) : Keeps s (s.recomputeAndFire n) :=
  (keeps_recompute s n).trans (keeps_fireIf _ _ _)

theorem keeps_goTo (s : State) (n : Lathe) (new : AcctState) : Keeps s (s.goTo n new) := by
  unfold State.goTo
  dsimp only
  split
  · exact .refl s
  · exact (keeps_post _ _).after (keeps_setAccount_of_bars rfl rfl)

theorem keeps_wantBar (s : State) (n : Lathe) : Keeps s (s.wantBar n) := by
  unfold State.wantBar
  split
  · exact (planning_setDeadline s _ _).keeps
  · split
    · exact .refl s
    · exact keeps_request s n _

theorem State.goTo_bars (s : State) (n : Lathe) (new : AcctState) :
    ((s.goTo n new).account n).cradle = (s.account n).cradle ∧
      ((s.goTo n new).account n).current = (s.account n).current := by
  unfold State.goTo
  dsimp only
  split
  · exact ⟨rfl, rfl⟩
  · simp

theorem keeps_actOnCradle (s : State) (n : Lathe) : Keeps s (s.actOnCradle n) := by
  unfold State.actOnCradle
  split
  · next c cradle =>
    split
    · exact keeps_goTo s n _
    · obtain ⟨same, -⟩ := s.goTo_bars n .loading
      refine (keeps_goTo s n .loading).trans ((keeps_notice _ _ _).after (keeps_setAccount_of_bars ?_ rfl))
      rw [same, cradle]
      rfl
  · exact (keeps_goTo s n _).trans (keeps_wantBar _ n)

theorem keeps_enterAwait (s : State) (n : Lathe) : Keeps s (s.enterAwait n) :=
  (keeps_actOnCradle _ n).after (keeps_setAccount_of_bars rfl rfl)

theorem keeps_returnDeparted (s : State) (n : Lathe) : Keeps s (s.returnDeparted n) := by
  unfold State.returnDeparted
  split
  · exact (keeps_actOnCradle s n).trans (keeps_evalHold _ n)
  · exact .refl s

theorem keeps_departed (s : State) (j : Job) : Keeps s (s.departed j) := by
  unfold State.departed
  split
  · exact keeps_returnDeparted s _
  · exact .refl s

theorem keeps_checkThreshold (s : State) (n : Lathe) : Keeps s (s.checkThreshold n) := by
  unfold State.checkThreshold
  split
  · split
    · exact keeps_request s n _
    · exact .refl s
  · exact .refl s

theorem keeps_foldl {α : Type} (f : State → α → State) (each : ∀ s a, Keeps s (f s a)) (l : List α) (s : State) :
    Keeps s (l.foldl f s) := by
  induction l generalizing s with
  | nil => exact .refl s
  | cons a l ih => exact (each s a).trans (ih _)

/-- A parked job waits and is no DELIVER's (R101). -/
theorem State.BooksOk.parked (h : s.BooksOk) (hj : s.job i = some j) (parked : j.block = .guardParked) :
    j.kind ≠ .deliver ∧ j.state = .waiting := by
  obtain ⟨-, -, -, -, deliver, -, -, block⟩ := h.loads.1 i j hj
  refine ⟨fun kind => (deliver kind).1 parked, ?_⟩
  by_contra other
  have none := block other
  rw [parked] at none
  cases none

theorem planning_unparkAll (n : Lathe) (l : List Slot) (books : s.BooksOk) :
    Planning s (l.foldl (fun s i => s.unpark n i) s) := by
  induction l generalizing s with
  | nil => exact .refl s
  | cons i l ih =>
    have first : Planning s (s.unpark n i) := planning_unpark s n i fun _ hj parked => books.parked hj parked
    exact first.trans (ih (first.books books))

theorem State.BooksOk.clearParked (h : s.BooksOk) (n : Lathe) : (s.clearParked n).BooksOk :=
  ((planning_unparkAll n allSlots h).books h).dispatch

end Keeps

end Sys2Proof.Machine

/-! PROOFS. A job leaves the shuttle or the schedule and the books are kept: cancelled, completed, or removed while
ACTIVE (R80, R107 to R110, R137); with that, the taking up of a step (R119, R134). -/
namespace Sys2Proof.Machine

open Sys2Proof

section Leaving
variable {s t u : State} {i : Slot} {j j' : Job} {n : Lathe}

/-! ### The slot and the claim -/

theorem State.claimsOn_le (plan : s.Planned) (hj : s.job i = some j) (k : LaneNo) :
    claimsOn k (some j) ≤ (s.lane k).claimed := by
  obtain ⟨-, -, claims⟩ := plan.lanes k
  rw [claims, ← hj]
  exact Finset.single_le_sum (f := fun i => claimsOn k (s.job i)) (fun _ _ => Nat.zero_le _) (Finset.mem_univ i)

/-- The claim of a job given up: its lane's count is lower by it, and nothing else changes (R80). -/
theorem State.releaseClaim_spec (s : State) (kind : j.claim = true → j.kind = .deliver) :
    ∃ r, s.releaseClaim j = s.setRack r ∧ r.reject = s.rack.reject ∧
      ∀ k, r.lanes.read k = { s.lane k with claimed := (s.lane k).claimed - claimsOn k (some j) } := by
  unfold State.releaseClaim
  split
  · next k claim lane =>
    refine ⟨_, rfl, rfl, fun l => ?_⟩
    rw [claimsOn_some]
    simp only [kind claim, claim, lane, true_and, Option.some.injEq]
    by_cases same : k = l
    · subst same
      rw [if_pos rfl, Bank.read_write_self]
    · rw [if_neg same, Bank.read_write_ne _ _ _ _ same]
      rfl
  · next other =>
    refine ⟨s.rack, rfl, rfl, fun l => ?_⟩
    rw [claimsOn_some, if_neg]
    · rfl
    · rintro ⟨-, claim, lane⟩
      exact other l claim lane

/-- A job out of its slot, off the stack and the shuttle, with its claim given up. -/
theorem State.Planned.vacated (h : s.Planned) (hj : s.job i = some j)
    (sched : t.sched = { s.sched with slots := s.sched.slots.write i none, stack := s.sched.stack.erase i })
    (seq : t.seq.job = if s.seq.job = some i then none else s.seq.job)
    (lane : ∀ k, t.lane k = { s.lane k with claimed := (s.lane k).claimed - claimsOn k (some j) }) : t.Planned := by
  have here : t.job i = none := by rw [State.job, sched, Bank.read_write_self]
  have others (m : Slot) (ne : m ≠ i) : t.job m = s.job m := by
    rw [State.job, sched, Bank.read_write_ne _ _ _ _ ne.symm]
    rfl
  have none (x : Job) : t.job i ≠ some x := by rw [here]; exact fun e => nomatch e
  have gone (x : JobState) : t.standing i ≠ some x := by rw [State.standing, here]; exact fun e => nomatch e
  refine h.change i others (fun x hx => absurd hx (none x)) ?_
    (State.stackOk_leave h.stack others (gone _) (gone _) (by rw [sched]) seq) (fun k => ?_)
    fun x hx => absurd hx (none x)
  · rw [sched]
    exact (s.jobsOk_iff.1 h.jobs).2
  · obtain ⟨room, covered, -⟩ := h.lanes k
    have le := State.claimsOn_le h hj k
    rw [lane k, here, hj]
    refine ⟨room, ?_, ?_⟩
    · exact (Nat.sub_le _ _).trans covered
    · exact Nat.sub_add_cancel le

theorem State.idCount_vacated {x : Nat} (others : ∀ m, m ≠ i → t.job m = s.job m) (here : t.job i = none)
    (bars : ∀ k, (t.lane k).bars = (s.lane k).bars) (accounts : t.accounts = s.accounts) : t.idCount x ≤ s.idCount x
    := by
  refine State.idCount_le_of bars (fun m => ?_) fun n => by rw [State.account, accounts]; exact Nat.le_refl _
  by_cases own : m = i
  · subst own
    rw [here]
    exact Nat.zero_le _
  · rw [others m own]

theorem Job.ok.claim_kind (h : j.ok) (claim : j.claim = true) : j.kind = .deliver := by
  obtain ⟨-, -, -, others, -⟩ := h
  by_contra kind
  rw [(others kind).1] at claim
  cases claim

/-- A job that is not ACTIVE leaves the schedule (R108, R109). -/
theorem State.BooksOk.vacateIdle (h : s.BooksOk) (hj : s.job i = some j) (rest : j.state ≠ .active) :
    ((s.releaseClaim j).vacate i).BooksOk := by
  obtain ⟨r, released, reject, lanes⟩ := s.releaseClaim_spec (h.loads.1 i j hj).claim_kind
  obtain ⟨t, isT⟩ : ∃ t, (s.releaseClaim j).vacate i = t := ⟨_, rfl⟩
  have sched : t.sched = { s.sched with slots := s.sched.slots.write i none, stack := s.sched.stack.erase i } := by
    rw [← isT, released]
    rfl
  have lane (k : LaneNo) : t.lane k = { s.lane k with claimed := (s.lane k).claimed - claimsOn k (some j) } := by
    rw [← isT, released]
    exact lanes k
  have notOwn : s.seq.job ≠ some i := fun own => by
    obtain ⟨x, hx, active⟩ := h.plan.active own
    rw [hj] at hx
    cases hx
    exact rest active
  have others (m : Slot) (ne : m ≠ i) : t.job m = s.job m := by
    rw [State.job, sched, Bank.read_write_ne _ _ _ _ ne.symm]
    rfl
  have plans : Planning s t := by
    refine ⟨by rw [← isT, released]; rfl, by rw [← isT, released]; rfl, by rw [← isT, released]; exact reject,
      fun k => by rw [lane k], fun m x hx active => ⟨x.deadline, x.created, (others m ?_).trans hx⟩, fun x _ => ?_,
      fun plan => plan.vacated hj sched ?_ lane⟩
    · rintro rfl
      rw [hj] at hx
      cases hx
      exact rest active
    · exact State.idCount_vacated others (by rw [State.job, sched, Bank.read_write_self]) (fun k => by rw [lane k])
        (by rw [← isT, released]; rfl)
    · rw [if_neg notOwn, ← isT, released]
      rfl
  rw [isT]
  exact plans.books h

theorem State.BooksOk.cancelIdle (h : s.BooksOk) (hj : s.job i = some j) (rest : j.state ≠ .active) :
    (s.cancelIdle i).BooksOk := by
  unfold State.cancelIdle
  simp only [hj]
  have served := ((planning_serveDeferred _).keeps.trans (keeps_dispatch _)).books (h.vacateIdle hj rest)
  exact (keeps_departed _ j).books (((planning_gainOfRelease _ j).keeps.trans (keeps_dispatch _)).books served)

/-! ### The active job leaves -/

/-- The shuttle record when a job leaves the shuttle (R122, R137, R150, R164). -/
def Shuttle.released (sh : Shuttle) : Shuttle :=
  match sh.state with
  | .fault | .halted => sh
  | _ => if sh.haltPending then { sh with state := .halted, haltPending := false } else { sh with state := .idle }

theorem State.releaseShuttle_eq (s : State) : s.releaseShuttle = s.setShuttle s.shuttle.released := by
  unfold State.releaseShuttle Shuttle.released
  cases s.shuttle.state with
  | fault => rfl
  | halted => rfl
  | _ => by_cases pending : s.shuttle.haltPending <;> simp [pending]

theorem Shuttle.released_spec (sh : Shuttle) :
    sh.released.load = sh.load ∧ sh.released.outstanding = sh.outstanding ∧ sh.released.fault = sh.fault ∧
      sh.released.homeFailed = sh.homeFailed ∧ (sh.released.state = .fault ↔ sh.state = .fault) ∧
      (sh.released.state = .fault ∨ sh.released.state = .halted ∨ sh.released.state = .idle) := by
  unfold Shuttle.released
  cases state : sh.state with
  | fault => simp [state]
  | halted => simp [state]
  | _ => by_cases pending : sh.haltPending <;> simp [pending]

/-- The active job `j` of slot `i` may leave the shuttle: it carries nothing, no step order and no HOME is out. -/
structure State.Parting (s : State) (i : Slot) (j : Job) : Prop where
  plan : s.Planned
  ids : s.idsOk
  seq : s.seq.job = some i
  job : s.job i = some j
  load : s.shuttle.load = .none
  reserved : ∀ k, (s.lane k).reserved = 0
  clear : ∀ o, s.shuttle.outstanding = some o → o.purpose = .clear ∧ s.shuttle.state = .fault
  fault : s.shuttle.state = .fault ↔ s.shuttle.fault.isSome = true
  homeFailed : s.shuttle.homeFailed = false
  reject : s.rack.reject ≤ 20
  claim : j.claim = true → j.kind = .deliver

/-- The books once the active job has left. -/
theorem State.Parting.books (h : s.Parting i j) (plan : t.Planned) (ids : t.idsOk) (seq : t.seq = .clear)
    (shuttle : t.shuttle = s.shuttle.released) (reserved : ∀ k, (t.lane k).reserved = 0)
    (reject : t.rack.reject = s.rack.reject) : t.BooksOk := by
  obtain ⟨load, out, fault, homeFailed, state, states⟩ := s.shuttle.released_spec
  rw [← shuttle] at load out fault homeFailed state states
  have other (x : ShuttleState) (ne : x ≠ .fault ∧ x ≠ .halted ∧ x ≠ .idle) : t.shuttle.state ≠ x := by
    rintro rfl
    rcases states with is | is | is
    · exact ne.1 is
    · exact ne.2.1 is
    · exact ne.2.2 is
  have purposes (p : Purpose) (ne : p ≠ .clear) : ¬∃ o, t.shuttle.outstanding = some o ∧ o.purpose = p := by
    rintro ⟨o, isOut, why⟩
    rw [out] at isOut
    exact ne (why.symm.trans (h.clear o isOut).1)
  have none := State.active_of_none (s := t) (by rw [seq]; rfl)
  refine State.booksOk_of_none plan ids (by rw [seq]; rfl) (load.trans h.load) reserved ?_ ?_
  · refine ⟨fun _ => by rw [seq]; rfl, ?_, ?_, ?_, ?_, fun o isOut _ => ?_, fun _ => by rw [seq]; rfl,
      fun m x active => ?_⟩
    · exact iff_of_false (other _ (by decide)) (by rw [seq]; decide)
    · exact iff_of_false (other _ (by decide)) (purposes _ (by decide))
    · exact iff_of_false (other _ (by decide)) (by rw [seq]; decide)
    · exact iff_of_false (other _ (by decide)) (purposes _ (by decide))
    · rw [out] at isOut
      exact state.2 (h.clear o isOut).2
    · rw [none] at active
      cases active
  · refine ⟨?_, ?_, reject ▸ h.reject, fun m x active => ?_⟩
    · rw [state, fault]
      exact h.fault
    · rw [homeFailed, h.homeFailed]
      exact fun e => (nomatch e)
    · rw [none] at active
      cases active

/-- The books once the active job has left its slot too, with its claim given up. -/
theorem State.Parting.vacated (h : s.Parting i j)
    (sched : t.sched = { s.sched with slots := s.sched.slots.write i none, stack := s.sched.stack.erase i })
    (seq : t.seq = .clear) (shuttle : t.shuttle = s.shuttle.released) (accounts : t.accounts = s.accounts)
    (reject : t.rack.reject = s.rack.reject)
    (lane : ∀ k, t.lane k = { s.lane k with claimed := (s.lane k).claimed - claimsOn k (some j) }) : t.BooksOk := by
  refine h.books (h.plan.vacated h.job sched (by rw [seq, if_pos h.seq]; rfl) lane) ?_ seq shuttle
    (fun k => by rw [lane k]; exact h.reserved k) reject
  have ids := h.ids
  rw [State.idsOk_iff] at ids ⊢
  refine fun x nonzero => (State.idCount_vacated (i := i) (fun m ne => ?_) ?_ (fun k => by rw [lane k])
    accounts).trans (ids x nonzero)
  · rw [State.job, sched, Bank.read_write_ne _ _ _ _ ne.symm]
    rfl
  · rw [State.job, sched, Bank.read_write_self]

theorem State.stopJobTimers_eq (s : State) : ∃ x, s.stopJobTimers = s.setTimer x := by
  unfold State.stopJobTimers
  dsimp only
  split
  · exact ⟨_, rfl⟩
  · exact ⟨_, rfl⟩

theorem State.Parting.removeActive (h : s.Parting i j) : (s.removeActive i).BooksOk := by
  unfold State.removeActive
  simp only [h.job]
  obtain ⟨x, timers⟩ := s.stopJobTimers_eq
  obtain ⟨r, released, reject, lanes⟩ := (s.setTimer x).releaseClaim_spec h.claim
  rw [timers, released, State.releaseShuttle_eq]
  refine State.BooksOk.dispatch ((keeps_departed _ j).books ((planning_gainOfRelease _ j).books
    ((planning_serveDeferred _).books (h.vacated rfl rfl rfl rfl reject lanes))))

/-- The active job, without a claim, completes (R107, R137). -/
theorem State.Parting.completeActive (h : s.Parting i j) (unclaimed : j.claim = false) (e : Ending) :
    (s.completeActive i e).BooksOk := by
  unfold State.completeActive
  simp only [h.job]
  have done : ∃ ev, s.jobDone j = s.setEvents ev := by
    unfold State.jobDone State.post
    dsimp only
    split
    · split <;> exact ⟨_, rfl⟩
    · split <;> exact ⟨_, rfl⟩
    · exact ⟨s.events, rfl⟩
  obtain ⟨ev, done⟩ := done
  rw [done, State.releaseShuttle_eq]
  have left := (planning_serveDeferred _).books (h.vacated
    (t := (((s.setEvents ev).setSeq .clear).setShuttle s.shuttle.released).vacate i) rfl rfl rfl rfl rfl fun k => by
      rw [claimsOn_of_unclaimed k unclaimed]
      rfl)
  refine State.BooksOk.dispatch ?_
  cases e with
  | plain => exact left
  | dumped => exact (planning_collectAgain _ _).books left
  | unpicked => exact (keeps_returnDeparted _ _).books left

/-- A job poised with nothing carried may leave the shuttle. -/
theorem State.Poised.parting (h : s.Poised i j) (load : s.shuttle.load = .none) : s.Parting i j where
  plan := h.held.plan
  ids := h.ids
  seq := h.held.seq
  job := h.held.job
  load := load
  reserved k := by
    rw [h.carries.reserved k, if_neg]
    rintro ⟨kind, lane⟩
    obtain ⟨-, -, -, -, -, -, ret, -⟩ := h.carries.ok
    have bar := ret kind (by rw [lane]; rfl)
    rw [← h.carries.load, load] at bar
    cases bar
  clear o out := by
    rw [h.held.outstanding] at out
    cases out
  fault := by
    rw [h.held.fault]
    simp [h.held.state]
  homeFailed := h.held.homeFailed
  reject := h.held.reject
  claim := h.carries.ok.claim_kind

/-- The active job of kept books with nothing carried and no step order out may leave the shuttle. -/
theorem State.BooksOk.parting (h : s.BooksOk) (seq : s.seq.job = some i) (hj : s.job i = some j)
    (load : s.shuttle.load = .none) (notOut : s.seq.phase ≠ .outstanding) : s.Parting i j where
  plan := h.plan
  ids := h.ids
  seq := seq
  job := hj
  load := load
  reserved k := by
    have carries := h.carries seq hj
    rw [carries.reserved k, if_neg]
    rintro ⟨kind, lane⟩
    obtain ⟨-, -, -, -, -, -, ret, -⟩ := carries.ok
    have bar := ret kind (by rw [lane]; rfl)
    rw [← carries.load, load] at bar
    cases bar
  clear o out := by
    obtain ⟨-, stepping, purpose, -, homing, clear, free, -⟩ := h.step
    cases why : o.purpose with
    | step => exact absurd (stepping.1 (purpose.2 ⟨o, out, why⟩)) notOut
    | home =>
      have none := free (.inr (.inl (homing.2 ⟨o, out, why⟩)))
      rw [seq] at none
      cases none
    | clear => exact ⟨rfl, clear o out why⟩
  fault := h.fault.1
  homeFailed := h.homed_of_job seq
  reject := h.reject
  claim := (h.carries seq hj).ok.claim_kind

/-! ### Taking up a step -/

theorem State.nothingToPick_spec (none : s.nothingToPick j = true) : j.kind = .ret ∧ j.step = .two := by
  simp only [State.nothingToPick, Bool.and_eq_true, beq_iff_eq] at none
  exact none.1

theorem State.Poised.takeUp (h : s.Poised i j) : s.takeUp.BooksOk := by
  unfold State.takeUp
  have begun := h.beginStep
  dsimp only
  rw [begun.active]
  dsimp only
  split
  · next nothing =>
    obtain ⟨kind, two⟩ := State.nothingToPick_spec nothing
    have load := begun.carries.load.trans (j.carried_eq_none.2 (.inr two))
    obtain ⟨-, -, -, others, -⟩ := h.carries.ok
    exact (begun.parting load).completeActive (others (by rw [kind]; decide)).1 _
  · exact begun.checkAndIssue

end Leaving

end Sys2Proof.Machine

/-! PROOFS. The course of the active job keeps the books: it is preempted, halted or goes on, its bar's destination is
chosen, and it becomes a RETURN (R84, R104, R106, R112, R114, R122). -/
namespace Sys2Proof.Machine

open Sys2Proof

section Course
variable {s t u : State} {i k : Slot} {j j' x : Job} {n : Lathe}

/-! ### Preemption and halt -/

theorem State.preemptor_spec {a : Job} (h : s.preemptor a = some k) :
    ∃ x, s.job k = some x ∧ x.eligible = true ∧ s.sched.stack.length < 2 := by
  unfold State.preemptor at h
  split at h
  · next m x best =>
    split at h
    · next urgent =>
      cases h
      obtain ⟨hx, eligible⟩ := State.bestJob_spec best
      simp only [Bool.and_eq_true, decide_eq_true_eq] at urgent
      exact ⟨x, hx, eligible, urgent.2⟩
    · cases h
  · cases h

/-- The record of a job that has given up the shuttle. -/
def Job.suspendedWith (j : Job) (state : JobState) (block : BlockReason) : Job :=
  { j with state := state, block := block, step := .one, short := false }

theorem State.suspend_spec (hj : s.job i = some j) (unblocked : j.block = .none) :
    s.suspend i = s.setSched
        { s.sched with
          slots := s.sched.slots.write i (some (j.suspendedWith .suspended .none))
          stack := i :: s.sched.stack } ∨
      j.kind = .collect ∧ ∃ block, s.suspend i = s.setSlot i (some (j.suspendedWith .waiting block)) := by
  have keeps : ({ j with state := .suspended, step := .one, short := false } : Job) = j.suspendedWith .suspended .none
    := by
    rw [Job.suspendedWith, ← unblocked]
  unfold State.suspend
  simp only [hj, keeps]
  split
  · next kind _ =>
    split
    · exact .inl rfl
    · exact .inr ⟨kind, _, rfl⟩
  · exact .inl (if_pos rfl)

theorem Job.Unladen.suspendedWith (h : j.Unladen) {state : JobState} {block : BlockReason}
    (claim : j.kind = .deliver → j.block = .none ∧ block = .none) (waits : state ≠ .waiting → block = .none) :
    (j.suspendedWith state block).ok := by
  refine Job.Unladen.ok (j := j.suspendedWith state block) ⟨h.bar, h.parts, fun other => ?_, fun kind => ?_,
    h.collect, h.ret,
    waits⟩ rfl
  · obtain ⟨claim, -, cancel⟩ := h.others other
    exact ⟨claim, rfl, cancel⟩
  · obtain ⟨-, claims, lane, -⟩ := h.deliver kind
    obtain ⟨old, new⟩ := claim kind
    rw [old] at claims
    have isNew : (j.suspendedWith state block).block = .none := new
    rw [isNew]
    exact ⟨fun e => (nomatch e), claims, lane, rfl⟩

/-- With the active job off the shuttle, the shuttle is free. -/
theorem State.Poised.free_of_suspended (h : s.Poised i j) (load : s.shuttle.load = .none) {x : Job}
    (here : t.job i = some x) (others : ∀ m, m ≠ i → t.job m = s.job m) (ok : x.ok)
    (claims : ∀ k, claimsOn k (some x) = claimsOn k (some j)) (bar : x.bar = j.bar) (id : x.id = j.id)
    (lathe : x.lathe = j.lathe) (kind : x.kind = j.kind)
    (stack : t.stackOk) (deferred : t.sched.deferred = s.sched.deferred) (rack : t.rack = s.rack)
    (accounts : t.accounts = s.accounts) (shuttle : t.shuttle = s.shuttle) (seq : t.seq.job = none) : t.Free := by
  have parts := h.parting load
  have lane (l : LaneNo) : t.lane l = s.lane l := congrArg (fun x : Rack => x.lanes.read l) rack
  refine ⟨h.held.plan.change i others (fun y hy => ?_) ?_ stack (fun l => ?_) fun y hy _ => ?_, ?_, seq, shuttle ▸ load,
    fun l => lane l ▸ parts.reserved l, shuttle ▸ h.held.outstanding, shuttle ▸ h.held.fault,
      shuttle ▸ h.held.homeFailed,
    shuttle ▸ h.held.state, rack ▸ h.held.reject⟩
  · rw [here] at hy
    cases hy
    exact State.apart_of_like (h.held.plan.apart h.held.job) id lathe (.inl kind)
  · rw [deferred]
    exact (s.jobsOk_iff.1 h.held.plan.jobs).2
  · obtain ⟨room, covered, -⟩ := h.held.plan.lanes l
    rw [lane, here, h.held.job, claims l]
    exact ⟨room, covered, rfl⟩
  · rw [here] at hy
    cases hy
    exact ok
  · have ids := h.ids
    rw [State.idsOk_iff] at ids ⊢
    refine fun y nonzero => (State.idCount_le_of (fun k => by rw [lane]) (fun m => ?_) fun m => ?_).trans
      (ids y nonzero)
    · by_cases own : m = i
      · subst own
        rw [here, h.held.job, slotIdCount, slotIdCount, Option.bind_some, Option.bind_some, bar]
      · rw [others m own]
    · rw [State.account, accounts]
      exact Nat.le_refl _

theorem State.Poised.suspend_free (h : s.Poised i j) (load : s.shuttle.load = .none) (room : s.sched.stack.length < 2) :
    ((s.suspend i).setSeq .clear).Free ∧ ∀ m, m ≠ i → (s.suspend i).job m = s.job m := by
  have active := h.activeState
  have early := j.carried_eq_none.1 (h.carries.load.symm.trans load)
  obtain ⟨unladen, -⟩ := (Job.ok_iff_unladen early).1 h.carries.ok
  have unblocked := unladen.block (by rw [active]; decide)
  rcases State.suspend_spec h.held.job unblocked with suspended | ⟨collect, block, suspended⟩
  · rw [suspended]
    have others (m : Slot) (ne : m ≠ i) : (s.setSched
        { s.sched with
          slots := s.sched.slots.write i (some (j.suspendedWith .suspended .none))
          stack := i :: s.sched.stack }).job m = s.job m := Bank.read_write_ne _ _ _ _ ne.symm
    have here : ((s.setSched
        { s.sched with
          slots := s.sched.slots.write i (some (j.suspendedWith .suspended .none))
          stack := i :: s.sched.stack }).setSeq .clear).job i = some (j.suspendedWith .suspended .none) :=
      Bank.read_write_self _ _ _
    refine ⟨h.free_of_suspended load here others
      (unladen.suspendedWith (fun _ => ⟨unblocked, rfl⟩) fun _ => rfl)
        (fun _ => rfl) rfl rfl rfl rfl ?_ rfl rfl rfl rfl rfl,
      others⟩
    exact State.stackOk_push h.held.plan.stack others h.held.seq room (State.standing_of_job here) rfl rfl
  · rw [suspended]
    have others (m : Slot) (ne : m ≠ i) : (s.setSlot i (some (j.suspendedWith .waiting block))).job m = s.job m :=
      Bank.read_write_ne _ _ _ _ ne.symm
    have here : ((s.setSlot i (some (j.suspendedWith .waiting block))).setSeq .clear).job i =
        some (j.suspendedWith .waiting block) := Bank.read_write_self _ _ _
    refine ⟨h.free_of_suspended load here others
      (unladen.suspendedWith (fun deliver => absurd (collect.symm.trans deliver) (by decide))
        fun other => absurd rfl other)
      (fun _ => rfl) rfl rfl rfl rfl ?_ rfl rfl rfl rfl rfl, others⟩
    have off := h.held.plan.off h.held.job (by rw [active]; decide)
    have gone (x : JobState) (ne : x ≠ .waiting) :
        ((s.setSlot i (some (j.suspendedWith .waiting block))).setSeq .clear).standing i ≠ some x := by
      rw [State.standing_of_job here]
      exact fun e => ne (Option.some.inj e).symm
    refine State.stackOk_leave h.held.plan.stack others (gone _ (by decide)) (gone _ (by decide)) ?_ ?_
    · exact (List.erase_of_not_mem off).symm
    · rw [if_pos h.held.seq]
      rfl

/-- What the step record held before does not matter to a job that takes the shuttle. -/
theorem State.startJob_setSeq (s : State) (x : StepRecord) (i : Slot) : (s.setSeq x).startJob i = s.startJob i := rfl

theorem State.Poised.crossBoundary (h : s.Poised i j) : s.crossBoundary.BooksOk := by
  unfold State.crossBoundary
  rw [h.active]
  dsimp only
  by_cases load : s.shuttle.load = .none
  · rw [if_pos load]
    split
    · next k preempts =>
      obtain ⟨x, hx, eligible, room⟩ := State.preemptor_spec preempts
      obtain ⟨free, others⟩ := h.suspend_free load room
      have ne : k ≠ i := by
        rintro rfl
        rw [h.held.job] at hx
        cases hx
        have waiting := (Job.eligible_iff.1 eligible).1
        rw [h.activeState] at waiting
        cases waiting
      rw [← State.startJob_setSeq (s.suspend i) .clear]
      exact free.startEligible ((others k ne).trans hx) eligible
    · exact h.takeUp
  · rw [if_neg load]
    exact h.takeUp

theorem State.Poised.goOn (h : s.Poised i j) : s.goOn.BooksOk := by
  unfold State.goOn
  split
  · have begun := h.beginStep
    exact (begun.congr (t := (s.beginStep.setSeq { s.beginStep.seq with boundary := true }).setShuttle
      { s.beginStep.shuttle with state := .halted, haltPending := false }) rfl rfl rfl rfl rfl rfl rfl rfl
      fun e => (nomatch e)).books_halted rfl rfl
  · exact h.crossBoundary

end Course

end Sys2Proof.Machine

/-! PROOFS. The destination of a returned bar, the conversion of a DELIVER job and the course after an outcome keep the
books (R84, R112, R114, R122). -/
namespace Sys2Proof.Machine

open Sys2Proof

section Destination
variable {s t u : State} {i k : Slot} {j j' x : Job} {n : Lathe}

/-! ### The destination of a bar (R84) -/

/-- What a state is after the destination of a RETURN's bar is chosen: lane `l`, with its reservation, or REJECT. -/
structure HomeChosen (s : State) (i : Slot) (j : Job) (l : Option LaneNo) (t : State) : Prop where
  plan : t.Planned
  job : t.job i = some { j with lane := l }
  reserved : ∀ k, (t.lane k).reserved = if l = some k then 1 else 0
  shuttle : t.shuttle = s.shuttle
  seq : t.seq = s.seq
  reject : t.rack.reject = s.rack.reject
  ids : ∀ x, t.idCount x = s.idCount x

theorem State.idCount_retouched (hj : s.job i = some j) (bar : j'.bar = j.bar) (x : Nat) :
    (s.setSlot i (some j')).idCount x = s.idCount x := by
  have count := s.idCount_setSlot i (some j') x
  have same : slotIdCount x (some j') = slotIdCount x (s.job i) := by
    rw [hj, slotIdCount, slotIdCount, Option.bind_some, Option.bind_some, bar]
  omega

theorem Destined.chosen {b : BarRecord} (h : Destined s i j b t) (plan : s.Planned) (hj : s.job i = some j)
    (kind : j.kind = .ret) (active : j.state = .active) (reserved : ∀ k, (s.lane k).reserved = 0)
    (reject : t.rack.reject = s.rack.reject) : ∃ l, HomeChosen s i j l t := by
  obtain ⟨job, others, lanes, ⟨stack, deferred⟩, frame⟩ := h
  obtain ⟨l, isL⟩ : ∃ l, (if homeFit (s.lane b.home) b then some b.home else none) = l := ⟨_, rfl⟩
  rw [isL] at job
  have seq : t.seq = s.seq := by rw [frame]
  have shuttle : t.shuttle = s.shuttle := by rw [frame]
  have accounts : t.accounts = s.accounts := by rw [frame]
  have lane (k : LaneNo) : t.lane k = { s.lane k with reserved := if l = some k then 1 else 0 } ∧
      (l = some k → (s.lane k).bars.length < 12) := by
    have same : { s.lane k with reserved := 0 } = s.lane k := by rw [← reserved k]
    rw [lanes k, ← isL]
    by_cases fit : homeFit (s.lane b.home) b
    · rw [if_pos fit]
      by_cases home : k = b.home
      · subst home
        rw [if_pos ⟨fit, rfl⟩, if_pos rfl]
        obtain ⟨-, -, -, room⟩ := fit
        exact ⟨rfl, fun _ => by omega⟩
      · rw [if_neg fun both => home both.2, if_neg fun e => home (Option.some.inj e).symm]
        exact ⟨same.symm, fun e => absurd (Option.some.inj e).symm home⟩
    · rw [if_neg fit, if_neg fun both => fit both.1, if_neg fun e => (nomatch e)]
      exact ⟨same.symm, fun e => (nomatch e)⟩
  have notDeliver : j.kind ≠ .deliver := by rw [kind]; decide
  refine ⟨l, ?_, job, fun k => by rw [(lane k).1], shuttle, seq, reject, fun x => ?_⟩
  · refine plan.change i others (fun x hx => ?_) (deferred ▸ (s.jobsOk_iff.1 plan.jobs).2) ?_
      (fun k => ?_) fun x hx rest => ?_
    · rw [job] at hx
      cases hx
      exact State.apart_of_like (plan.apart hj) rfl rfl (.inl rfl)
    · refine State.stackOk_of_standing plan.stack (fun m => ?_) stack (by rw [seq])
      by_cases own : m = i
      · subst own
        rw [State.standing_of_job job, State.standing_of_job hj]
      · rw [State.standing, others m own, State.standing]
    · obtain ⟨room, covered, -⟩ := plan.lanes k
      obtain ⟨isLane, places⟩ := lane k
      rw [isLane, job, hj, claimsOn_of_other notDeliver, claimsOn_of_other (j := { j with lane := l }) notDeliver]
      refine ⟨?_, covered, rfl⟩
      change (s.lane k).bars.length + (if l = some k then 1 else 0) ≤ 12
      split
      · next home => exact places home
      · omega
    · rw [job] at hx
      cases hx
      exact absurd active rest
  · unfold State.idCount
    have bars (k : LaneNo) : (t.lane k).idCount x = (s.lane k).idCount x := by
      rw [(lane k).1]
      rfl
    have slots (m : Slot) : slotIdCount x (t.job m) = slotIdCount x (s.job m) := by
      by_cases own : m = i
      · subst own
        rw [job, hj]
        rfl
      · rw [others m own]
    have account (n : Lathe) : t.account n = s.account n := by rw [State.account, accounts, State.account]
    simp only [bars, slots, account]

theorem State.chooseDestination_reject (s : State) (i : Slot) (b : BarRecord) :
    (s.chooseDestination i b).rack.reject = s.rack.reject := by
  unfold State.chooseDestination
  split <;> rfl

theorem State.chooseDestination_spec (plan : s.Planned) (hj : s.job i = some j) (kind : j.kind = .ret)
    (active : j.state = .active) (reserved : ∀ k, (s.lane k).reserved = 0) (b : BarRecord) :
    ∃ l, HomeChosen s i j l (s.chooseDestination i b) :=
  (destined hj b).chosen plan hj kind active reserved (s.chooseDestination_reject i b)

theorem State.convertToReturn_reject (s : State) (i : Slot) : (s.convertToReturn i).rack.reject = s.rack.reject := by
  unfold State.convertToReturn
  split
  · rfl
  · exact State.chooseDestination_reject _ _ _

/-! ### The conversion to a RETURN (R114) -/

/-- What a state is after the active DELIVER job `j` of slot `i` has become a RETURN. -/
structure Converted (s : State) (i : Slot) (j : Job) (t : State) : Prop where
  plan : t.Planned
  job : ∃ l, t.job i = some { j.converted s with lane := l } ∧ ∀ k, (t.lane k).reserved = if l = some k then 1 else 0
  shuttle : t.shuttle = s.shuttle
  seq : t.seq.job = s.seq.job
  phase : t.seq.phase = s.seq.phase
  reject : t.rack.reject = s.rack.reject
  ids : ∀ x, t.idCount x = s.idCount x

theorem State.convertToReturn_spec (plan : s.Planned) (hj : s.job i = some j) (active : j.state = .active) (ok : j.ok)
    (kind : j.kind = .deliver) (carried : j.carried = .bar) (reserved : ∀ k, (s.lane k).reserved = 0) :
    Converted s i j (s.convertToReturn i) := by
  obtain ⟨bar, -, -, -, deliver, -⟩ := ok
  obtain ⟨b, isBar⟩ := Option.isSome_iff_exists.1 (bar.2 carried)
  have unclaimed : j.claim = false := by
    obtain ⟨-, claim, -⟩ := deliver kind
    by_contra claims
    have early := j.carried_eq_none.2 (claim.1 (by simpa using claims)).1
    rw [carried] at early
    cases early
  obtain ⟨z, converts, dest⟩ := State.convertToReturn_destined hj isBar
  have like : j.Retouched (j.converted s) := ⟨rfl, rfl, .inr rfl, rfl, fun k => by
    rw [claimsOn_of_unclaimed k unclaimed, claimsOn_of_unclaimed k rfl], fun rest => absurd active rest⟩
  have count (x : Nat) := s.idCount_retouched (j' := j.converted s) hj rfl x
  have reject : z.rack.reject = s.rack.reject := by
    have whole := s.convertToReturn_reject i
    rw [converts] at whole
    exact whole
  obtain ⟨l, chosen⟩ := dest.chosen (plan.retouch hj like) (State.setSlot_job_self _ _ _) rfl active reserved reject
  have own := congrArg StepRecord.job chosen.seq
  have phase := congrArg StepRecord.phase chosen.seq
  rw [converts]
  exact ⟨chosen.plan.congr rfl rfl rfl, ⟨l, chosen.job, chosen.reserved⟩, chosen.shuttle, own, phase, chosen.reject,
    fun x => (chosen.ids x).trans (count x)⟩

/-- The record of a converted job fits its step. -/
theorem Job.ok.returning (ok : j.ok) (carried : j.carried = .bar) (active : j.state = .active)
    (s : State) (l : Option LaneNo) : ({ j.converted s with lane := l } : Job).ok := by
  obtain ⟨bar, parts, -, -, -, -, -, block⟩ := ok
  have isCarried : ({ j.converted s with lane := l } : Job).carried = .bar := rfl
  unfold Job.ok
  rw [isCarried]
  exact ⟨⟨fun _ => rfl, fun _ => bar.2 carried⟩, fun some => absurd ((parts some).symm.trans carried) (by decide),
    fun rest => absurd active rest, fun _ => ⟨rfl, rfl, rfl⟩, fun other => (nomatch other),
    fun other => (nomatch other),
    fun _ _ => rfl, block⟩

/-- The converted job is on the shuttle as its record says. -/
theorem Converted.carries (h : Converted s i j t) (carries : s.Carries j) (carried : j.carried = .bar)
    (active : j.state = .active) :
    ∃ j', t.job i = some j' ∧ j'.state = .active ∧ t.Carries j' := by
  obtain ⟨l, job, reserved⟩ := h.job
  refine ⟨_, job, active, carries.ok.returning carried active s l, ?_, fun k => ?_⟩
  · rw [h.shuttle, carries.load, carried]
    rfl
  · rw [reserved k]
    refine if_congr ?_ rfl rfl
    exact ⟨fun e => ⟨rfl, e⟩, fun e => e.2⟩

theorem State.idsOk_of_count (ids : s.idsOk) (count : ∀ x, t.idCount x = s.idCount x) : t.idsOk := by
  rw [State.idsOk_iff] at ids ⊢
  exact fun x nonzero => (count x).trans_le (ids x nonzero)

/-- A DELIVER job carries a bar or nothing. -/
theorem Job.carried_of_deliver (kind : j.kind = .deliver) (some : j.carried ≠ .none) : j.carried = .bar := by
  unfold Job.carried at some ⊢
  rw [kind] at some ⊢
  cases step : j.step <;> simp [step] at some ⊢

theorem State.Carries.reserved_of_deliver (h : s.Carries j) (kind : j.kind = .deliver) (k : LaneNo) :
    (s.lane k).reserved = 0 := by
  rw [h.reserved k, if_neg]
  rintro ⟨ret, -⟩
  rw [kind] at ret
  cases ret

theorem State.Poised.convert (h : s.Poised i j) (kind : j.kind = .deliver) (carried : j.carried = .bar) :
    ∃ j', (s.convertToReturn i).Poised i j' := by
  have done := State.convertToReturn_spec h.held.plan h.held.job h.activeState h.carries.ok kind carried
    (h.carries.reserved_of_deliver kind)
  obtain ⟨j', job, active, carries⟩ := done.carries h.carries carried h.activeState
  exact ⟨j', ⟨done.plan, done.seq.trans h.held.seq, job, done.shuttle ▸ h.held.outstanding, done.shuttle ▸ h.held.fault,
    done.shuttle ▸ h.held.homeFailed, done.shuttle ▸ h.held.state, done.reject ▸ h.held.reject⟩, carries,
    State.idsOk_of_count h.ids done.ids⟩

/-! ### The course after an outcome (R112, R122) -/

/-- The cancel mark of a poised job lapses. -/
theorem State.Poised.unmark (h : s.Poised i j) :
    (s.updateJob i fun j => { j with cancel := .none }).Poised i { j with cancel := .none } := by
  have set : (s.updateJob i fun j => { j with cancel := .none }) = s.setSlot i (some { j with cancel := .none }) := by
    rw [State.updateJob, h.held.job]
    rfl
  have like : j.Retouched { j with cancel := .none } :=
    ⟨rfl, rfl, .inl rfl, rfl, fun _ => rfl, fun rest => absurd h.activeState rest⟩
  have ok : ({ j with cancel := .none } : Job).ok := by
    obtain ⟨bar, parts, one, others, rest⟩ := h.carries.ok
    exact ⟨bar, parts, one, fun other => ⟨(others other).1, (others other).2.1, rfl⟩, rest⟩
  rw [set]
  exact ⟨⟨h.held.plan.retouch h.held.job like, h.held.seq, State.setSlot_job_self _ _ _, h.held.outstanding,
    h.held.fault,
    h.held.homeFailed, h.held.state, h.held.reject⟩, ⟨ok, h.carries.load, h.carries.reserved⟩,
    State.idsOk_of_count h.ids (s.idCount_retouched h.held.job rfl)⟩

theorem State.Poised.afterOutcome {next : StepIx} (h : (s.updateJob i fun j => { j with step := next }).Poised i j)
    (picked : Bool) : (s.afterOutcome i next picked).BooksOk := by
  unfold State.afterOutcome
  dsimp only
  generalize s.updateJob i (fun j => { j with step := next }) = v at *
  rw [h.held.job]
  dsimp only
  have kind (marked : j.cancel ≠ .none) : j.kind = .deliver := by
    obtain ⟨-, -, -, others, -⟩ := h.carries.ok
    by_contra other
    exact marked (others other).2.2
  have course (marked : j.cancel ≠ .none) : (if v.shuttle.load = .none then v.removeActive i
      else if picked && !j.short then
        match j.cancel with
        | .setup => (v.convertToReturn i).goOn
        | _ => (v.updateJob i fun j => { j with cancel := .none }).goOn
      else v.goOn).BooksOk := by
    by_cases load : v.shuttle.load = .none
    · rw [if_pos load]
      exact (h.parting load).removeActive
    · rw [if_neg load]
      split
      · have carried := Job.carried_of_deliver (kind marked) fun none => load (h.carries.load.trans none)
        split
        · obtain ⟨j', poised⟩ := h.convert (kind marked) carried
          exact poised.goOn
        · exact h.unmark.goOn
      · exact h.goOn
  cases mark : j.cancel with
  | none => exact h.goOn
  | stop =>
    have done := course (by rw [mark]; decide)
    rw [mark] at done
    exact done
  | setup =>
    have done := course (by rw [mark]; decide)
    rw [mark] at done
    exact done

/-! ### The active job left waiting in its slot (R79, R101) -/

/-- The books once the active job has left the shuttle, WAITING still in its slot. -/
theorem State.Parting.stood (h : s.Parting i j) (active : j.state = .active) (waiting : j'.state = .waiting)
    (id : j'.id = j.id) (lathe : j'.lathe = j.lathe) (kind : j'.kind = j.kind) (bar : j'.bar = j.bar)
    (claims : ∀ k, claimsOn k (some j') = claimsOn k (some j)) (ok : j'.ok)
    (sched : t.sched = (s.setSlot i (some j')).sched) (rack : t.rack = s.rack) (accounts : t.accounts = s.accounts)
    (seq : t.seq = .clear) (shuttle : t.shuttle = s.shuttle.released) : t.BooksOk := by
  have job (m : Slot) : t.job m = (s.setSlot i (some j')).job m := by
    rw [State.job, sched]
    rfl
  have here : t.job i = some j' := (job i).trans (State.setSlot_job_self _ _ _)
  have others (m : Slot) (ne : m ≠ i) : t.job m = s.job m := (job m).trans (State.setSlot_job_ne _ _ _ _ ne.symm)
  have lane (k : LaneNo) : t.lane k = s.lane k := congrArg (fun x : Rack => x.lanes.read k) rack
  have gone (x : JobState) (ne : x ≠ .waiting) : t.standing i ≠ some x := by
    rw [State.standing_of_job here, waiting]
    exact fun e => ne (Option.some.inj e).symm
  have off := h.plan.off h.job (by rw [active]; decide)
  refine h.books ?_ ?_ seq shuttle (fun k => lane k ▸ h.reserved k) (congrArg Rack.reject rack)
  · refine h.plan.change i others (fun x hx => ?_) ?_
      (State.stackOk_leave h.plan.stack others (gone _ (by decide)) (gone _ (by decide)) ?_ ?_) (fun k => ?_)
      fun x hx _ => ?_
    · rw [here] at hx
      cases hx
      exact State.apart_of_like (h.plan.apart h.job) id lathe (.inl kind)
    · rw [sched]
      exact (s.jobsOk_iff.1 h.plan.jobs).2
    · rw [List.erase_of_not_mem off, sched]
      rfl
    · rw [if_pos h.seq, seq]
      rfl
    · obtain ⟨room, covered, -⟩ := h.plan.lanes k
      rw [lane, here, h.job, claims k]
      exact ⟨room, covered, rfl⟩
    · rw [here] at hx
      cases hx
      exact ok
  · have count (x : Nat) := s.idCount_retouched h.job bar x
    refine State.idsOk_of_count h.ids fun x => (State.idCount_congr ?_ ?_ ?_ x).trans (count x)
    · exact congrArg Rack.lanes rack
    · exact congrArg Schedule.slots sched
    · exact accounts

end Destination

end Sys2Proof.Machine

/-! PROOFS. The outcomes of the steps keep the books (R81 to R86, R120, R126 to R136): the states between, in which the
active job's record and the load are written in turn. -/
namespace Sys2Proof.Machine

open Sys2Proof

section Between
variable {s t u : State} {i : Slot} {j j' x : Job} {k : LaneNo} {n : Lathe}

/-! ### What planning leaves of a job on the shuttle -/

/-- The record with the ages of its times as they come. -/
def Job.aged (j : Job) (d c : Time) : Job := { j with deadline := d, created := c }

theorem State.Held.activeState (h : s.Held i j) : j.state = .active := by
  obtain ⟨x, hx, active⟩ := h.plan.active h.seq
  rw [h.job] at hx
  cases hx
  exact active

theorem State.Held.planned (h : s.Held i j) (p : Planning s t) : ∃ d c, t.Held i (j.aged d c) := by
  obtain ⟨d, c, hj⟩ := p.active i j h.job h.activeState
  exact ⟨d, c, p.plan h.plan, p.seq ▸ h.seq, hj, p.shuttle ▸ h.outstanding, p.shuttle ▸ h.fault,
    p.shuttle ▸ h.homeFailed,
    p.shuttle ▸ h.state, p.reject ▸ h.reject⟩

theorem State.Parting.activeState (h : s.Parting i j) : j.state = .active := by
  obtain ⟨x, hx, active⟩ := h.plan.active h.seq
  rw [h.job] at hx
  cases hx
  exact active

theorem State.Parting.planned (h : s.Parting i j) (p : Planning s t) : ∃ d c, t.Parting i (j.aged d c) := by
  obtain ⟨d, c, hj⟩ := p.active i j h.job h.activeState
  refine ⟨d, c, p.plan h.plan, p.idsOk h.ids, p.seq ▸ h.seq, hj, p.shuttle ▸ h.load, fun k => (p.reserved k).trans
    (h.reserved k), ?_, ?_, p.shuttle ▸ h.homeFailed, p.reject ▸ h.reject, h.claim⟩
  · rw [p.shuttle]
    exact h.clear
  · rw [p.shuttle]
    exact h.fault

/-- With a job on the shuttle it is not free. -/
theorem State.busy_of_job (seq : s.seq.job = some i) : s.shuttleFree = false := by
  simp [State.shuttleFree, seq]

/-- The active job completes after operations that plan. -/
theorem State.Parting.completes (h : s.Parting i j) (unclaimed : j.claim = false) (p : Keeps s t) (e : Ending) :
    (t.completeActive i e).BooksOk := by
  obtain ⟨d, c, parting⟩ := h.planned (p.busy (State.busy_of_job h.seq))
  exact parting.completeActive unclaimed e

theorem State.Held.parting (h : s.Held i j) (ids : s.idsOk) (load : s.shuttle.load = .none)
    (reserved : ∀ k, (s.lane k).reserved = 0) (claim : j.claim = true → j.kind = .deliver) : s.Parting i j where
  plan := h.plan
  ids := ids
  seq := h.seq
  job := h.job
  load := load
  reserved := reserved
  clear o out := by
    rw [h.outstanding] at out
    cases out
  fault := by
    rw [h.fault]
    simp [h.state]
  homeFailed := h.homeFailed
  reject := h.reject
  claim := claim

/-! ### The active job's record written -/

/-- The active job's record written in its slot, with lanes and claims to match. -/
theorem State.Held.rewritten (h : s.Held i j)
    (sched : t.sched = { s.sched with slots := s.sched.slots.write i (some j') })
    (seq : t.seq.job = s.seq.job) (out : t.shuttle.outstanding = s.shuttle.outstanding)
    (fault : t.shuttle.fault = s.shuttle.fault) (homeFailed : t.shuttle.homeFailed = s.shuttle.homeFailed)
    (state : t.shuttle.state = s.shuttle.state) (reject : t.rack.reject ≤ 20) (id : j'.id = j.id)
    (lathe : j'.lathe = j.lathe) (kind : j'.kind = j.kind) (active : j'.state = j.state)
    (lanes : ∀ k, (t.lane k).bars.length + (t.lane k).reserved ≤ 12 ∧ (t.lane k).claimed ≤ (t.lane k).bars.length ∧
      (t.lane k).claimed + claimsOn k (some j) = (s.lane k).claimed + claimsOn k (some j')) : t.Held i j' := by
  have here : t.job i = some j' := by rw [State.job, sched, Bank.read_write_self]
  have others (m : Slot) (ne : m ≠ i) : t.job m = s.job m := by
    rw [State.job, sched, Bank.read_write_ne _ _ _ _ ne.symm]
    rfl
  refine ⟨h.plan.change i others (fun x hx => ?_) (by rw [sched]; exact (s.jobsOk_iff.1 h.plan.jobs).2) ?_ (fun k => ?_)
    fun x hx rest => ?_, seq.trans h.seq, here, out.trans h.outstanding, fault.trans h.fault,
      homeFailed.trans h.homeFailed,
    state ▸ h.state, reject⟩
  · rw [here] at hx
    cases hx
    exact State.apart_of_like (h.plan.apart h.job) id lathe (.inl kind)
  · refine State.stackOk_of_standing h.plan.stack (fun m => ?_) (by rw [sched]) seq
    by_cases own : m = i
    · subst own
      rw [State.standing_of_job here, State.standing_of_job h.job, active]
    · rw [State.standing, others m own, State.standing]
  · rw [here, h.job]
    exact lanes k
  · rw [here] at hx
    cases hx
    exact absurd (active.trans h.activeState) rest

/-- The active job's record written, with the lanes as they were. -/
theorem State.Held.noted (h : s.Held i j) (sched : t.sched = { s.sched with slots := s.sched.slots.write i (some j') })
    (rack : t.rack.lanes = s.rack.lanes) (seq : t.seq.job = s.seq.job)
    (out : t.shuttle.outstanding = s.shuttle.outstanding) (fault : t.shuttle.fault = s.shuttle.fault)
    (homeFailed : t.shuttle.homeFailed = s.shuttle.homeFailed) (state : t.shuttle.state = s.shuttle.state)
    (reject : t.rack.reject ≤ 20) (id : j'.id = j.id) (lathe : j'.lathe = j.lathe) (kind : j'.kind = j.kind)
    (active : j'.state = j.state) (claims : ∀ k, claimsOn k (some j') = claimsOn k (some j)) : t.Held i j' := by
  refine h.rewritten sched seq out fault homeFailed state reject id lathe kind active fun k => ?_
  obtain ⟨room, covered, -⟩ := h.plan.lanes k
  rw [show t.lane k = s.lane k from congrArg (fun b => Bank.read b k) rack, claims k]
  exact ⟨room, covered, rfl⟩

/-- The active job's record goes on to another step with the same load. -/
theorem Job.ok.atStep (ok : j.ok) (active : j.state = .active) {st : StepIx}
    (carried : ({ j with step := st } : Job).carried = j.carried)
    (early : (st = .one ∨ st = .two) ↔ (j.step = .one ∨ j.step = .two)) : ({ j with step := st } : Job).ok := by
  obtain ⟨bar, parts, -, others, deliver, collect, ret, block⟩ := ok
  unfold Job.ok
  rw [carried]
  refine ⟨bar, parts, fun rest => absurd active rest, others, fun kind => ?_, collect, ret, block⟩
  obtain ⟨parked, claim, lane, short⟩ := deliver kind
  exact ⟨parked, claim.trans (and_congr_left' early.symm), lane, short⟩

/-- What `afterOutcome` starts from: the job at its next step. -/
theorem State.Held.stepped (h : s.Held i j) (next : StepIx) :
    (s.updateJob i fun j => { j with step := next }).Held i { j with step := next } := by
  rw [State.updateJob_eq h.job]
  exact h.noted rfl rfl rfl rfl rfl rfl rfl h.reject rfl rfl rfl rfl fun _ => rfl

/-- The course of a job at its next step, from its record and the load. -/
theorem State.Held.afterOutcome (h : s.Held i j) (ids : s.idsOk) {next : StepIx}
    (carries : s.Carries { j with step := next }) (picked : Bool) : (s.afterOutcome i next picked).BooksOk := by
  refine State.Poised.afterOutcome (j := { j with step := next }) ⟨h.stepped next, ?_, ?_⟩ picked
  · rw [State.updateJob_eq h.job]
    exact carries.congr rfl fun _ => rfl
  · rw [State.updateJob_eq h.job]
    exact State.idsOk_of_count ids (s.idCount_retouched h.job rfl)

end Between

end Sys2Proof.Machine

/-! PROOFS. The outcomes of a DELIVER job's steps keep the books (R81, R82, R126 to R129). -/
namespace Sys2Proof.Machine

open Sys2Proof

section Deliver
variable {s t u : State} {i : Slot} {j j' : Job} {k : LaneNo} {n : Lathe} {b : BarRecord}

/-! ### Counting a bar id in one place -/

theorem slotIdCount_of_bar (x : Nat) (bar : j.bar = some b) : slotIdCount x (some j) = [b.id].count x := by
  rw [slotIdCount, Option.bind_some, bar]
  rfl

theorem slotIdCount_of_none (x : Nat) (bar : j.bar = none) : slotIdCount x (some j) = 0 := by
  rw [slotIdCount, Option.bind_some, bar]
  rfl

theorem LaneRecord.idCount_cons {l : LaneRecord} {rest : List BarRecord} (bars : l.bars = b :: rest) (x : Nat) :
    l.idCount x = [b.id].count x + (rest.map (·.id)).count x := by
  rw [LaneRecord.idCount, bars, List.map_cons, ← List.count_append]
  rfl

/-! ### The active DELIVER job that carries nothing (R112, R127, R128) -/

/-- The active job of slot `i` is a DELIVER job that carries nothing and holds no claim. -/
structure State.Unclaimed (s : State) (i : Slot) (j : Job) : Prop where
  held : s.Held i j
  ids : s.idsOk
  load : s.shuttle.load = .none
  reserved : ∀ k, (s.lane k).reserved = 0
  kind : j.kind = .deliver
  claim : j.claim = false
  bar : j.bar = none
  parts : j.parts = 0
  block : j.block = .none

theorem State.Unclaimed.parting (h : s.Unclaimed i j) : s.Parting i j :=
  h.held.parting h.ids h.load h.reserved fun _ => h.kind

/-- The record of a job that claims lane `k` and starts over (R127, R128). -/
def Job.restarted (j : Job) (k : LaneNo) : Job := { j.claiming k with step := .one, short := false }

theorem State.Unclaimed.restarted_ok (h : s.Unclaimed i j) (k : LaneNo) : (j.restarted k).ok := by
  refine (Job.ok_iff_unladen (j := j.restarted k) (.inl rfl)).2
    ⟨⟨h.bar, h.parts, fun other => absurd h.kind other, fun _ => ?_,
      fun kind => absurd (h.kind.symm.trans kind) (by decide),
      fun kind => absurd (h.kind.symm.trans kind) (by decide), fun _ => rfl⟩, fun _ => rfl⟩
  exact ⟨fun e => (nomatch e), ⟨fun _ e => (nomatch e), fun _ => rfl⟩, fun _ => rfl, rfl⟩

/-- The record of a job that no lane has stock for (R97). -/
def Job.stranded (j : Job) : Job :=
  { j with state := .waiting, block := .noStock, lane := none, claim := false, step := .one, short := false }

theorem State.Unclaimed.stranded_ok (h : s.Unclaimed i j) : j.stranded.ok :=
  Job.Unladen.ok (j := j.stranded)
    ⟨h.bar, h.parts, fun other => absurd h.kind other,
      fun _ => ⟨fun e => (nomatch e), ⟨fun e => (nomatch e), fun ne => absurd rfl ne⟩, fun e => (nomatch e), rfl⟩,
      fun kind => absurd (h.kind.symm.trans kind) (by decide), fun kind => absurd (h.kind.symm.trans kind) (by decide),
      fun rest => absurd rfl rest⟩ rfl

theorem State.enterNoStock_of_job (hj : s.job i = some j) :
    ∃ ev, s.enterNoStock i = (s.setSlot i (some j.stranded)).setEvents ev := by
  unfold State.enterNoStock
  rw [hj]
  dsimp only
  unfold State.post
  split <;> exact ⟨_, rfl⟩

theorem State.claimLaneFor_spec (found : s.claimLaneFor n = some k) :
    (s.lane k).claimed + 1 ≤ (s.lane k).bars.length := by
  obtain ⟨g, -, lane⟩ := Option.bind_eq_some_iff.1 found
  exact State.claimLane_spec lane

/-- The job claims again, or is blocked for want of stock and leaves the shuttle (R127, R128). -/
theorem State.Unclaimed.reclaim (h : s.Unclaimed i j) : (s.reclaim i).BooksOk := by
  unfold State.reclaim
  rw [h.held.job]
  dsimp only [Option.bind_some]
  split
  · next k found =>
    have room := State.claimLaneFor_spec found
    obtain ⟨t, isT⟩ : ∃ t, (s.takeClaim i k).updateJob i (fun j => { j with step := .one, short := false }) = t :=
      ⟨_, rfl⟩
    have taken := State.takeClaim_of_job h.held.job k
    have sched : t.sched = { s.sched with slots := s.sched.slots.write i (some (j.restarted k)) } := by
      rw [← isT, taken, State.updateJob_eq (State.setSlot_job_self _ i _)]
      unfold State.setSlot
      simp [Bank.write_write]
      rfl
    have rack : t.rack =
        { s.rack with lanes := s.rack.lanes.write k { s.lane k with claimed := (s.lane k).claimed + 1 } } := by
      rw [← isT, taken, State.updateJob_eq (State.setSlot_job_self _ i _)]
      rfl
    have others : t.seq = s.seq ∧ t.shuttle = s.shuttle ∧ t.accounts = s.accounts := by
      rw [← isT, taken, State.updateJob_eq (State.setSlot_job_self _ i _)]
      exact ⟨rfl, rfl, rfl⟩
    obtain ⟨seq, shuttle, accounts⟩ := others
    have lane (l : LaneNo) : t.lane l =
        if k = l then { s.lane k with claimed := (s.lane k).claimed + 1 } else s.lane l := by
      rw [State.lane, rack]
      exact Bank.read_write _ _ _ _
    have reserved (l : LaneNo) : (t.lane l).reserved = 0 := by
      rw [lane]
      split
      · exact h.reserved k
      · exact h.reserved l
    rw [isT]
    refine State.Poised.goOn (i := i) (j := j.restarted k) ⟨h.held.rewritten sched (by rw [seq]) (by rw [shuttle])
      (by rw [shuttle]) (by rw [shuttle]) (by rw [shuttle]) (by rw [rack]; exact h.held.reject) rfl rfl rfl rfl
      (fun l => ?_), ⟨h.restarted_ok k, ?_, fun l => ?_⟩, ?_⟩
    · obtain ⟨places, covered, -⟩ := h.held.plan.lanes l
      rw [lane, claimsOn_of_unclaimed l h.claim, claimsOn_some]
      by_cases same : k = l
      · subst same
        rw [if_pos rfl, if_pos ⟨h.kind, rfl, rfl⟩]
        exact ⟨places, room, rfl⟩
      · rw [if_neg same, if_neg fun ⟨_, _, e⟩ => same (Option.some.inj e)]
        exact ⟨places, covered, rfl⟩
    · rw [shuttle, h.load]
      exact ((j.restarted k).carried_eq_none.2 (.inl rfl)).symm
    · rw [reserved l, if_neg]
      rintro ⟨kind, -⟩
      exact absurd (h.kind.symm.trans kind) (by decide)
    · have ids := h.ids
      rw [State.idsOk_iff] at ids ⊢
      refine fun x nonzero => (State.idCount_le_of (fun l => ?_) (fun m => ?_) fun m => ?_).trans (ids x nonzero)
      · rw [lane]
        split
        · next same => rw [same]
        · rfl
      · rw [State.job, sched]
        by_cases own : i = m
        · subst own
          rw [Bank.read_write_self, h.held.job]
          exact Nat.le_refl _
        · rw [Bank.read_write_ne _ _ _ _ own]
          exact Nat.le_refl _
      · rw [State.account, accounts]
        exact Nat.le_refl _
  · obtain ⟨ev, stranded⟩ := State.enterNoStock_of_job h.held.job
    rw [stranded, State.releaseShuttle_eq]
    refine State.BooksOk.dispatch ?_
    exact h.parting.stood (j' := j.stranded) h.held.activeState rfl rfl rfl rfl rfl
      (fun l => by rw [claimsOn_of_unclaimed l h.claim, claimsOn_of_unclaimed l rfl]) h.stranded_ok rfl rfl rfl rfl rfl

end Deliver

end Sys2Proof.Machine

/-! PROOFS. The PICK and the PLACE of a DELIVER job keep the books (R25, R81, R82, R126 to R129). -/
namespace Sys2Proof.Machine

open Sys2Proof

section Pick
variable {s t u : State} {i : Slot} {j j' : Job} {k : LaneNo} {n : Lathe} {b : BarRecord} {rest : List BarRecord}

/-- A poised DELIVER job with a claim on lane `k` finds a bar there. -/
theorem State.Poised.stocked (h : s.Poised i j) (kind : j.kind = .deliver) (two : j.step = .two)
    (lane : j.lane = some k) :
    1 ≤ (s.lane k).claimed ∧ j.Unladen ∧ j.block = .none ∧ claimsOn k (some j) = 1 := by
  obtain ⟨unladen, -⟩ := (Job.ok_iff_unladen (.inr two)).1 h.carries.ok
  have block := unladen.block (by rw [h.activeState]; decide)
  have claim : j.claim = true := (unladen.deliver kind).2.1.2 (by rw [block]; decide)
  have one : claimsOn k (some j) = 1 := by rw [claimsOn_some, if_pos ⟨kind, claim, lane⟩]
  have le := State.claimsOn_le h.held.plan h.held.job k
  exact ⟨by omega, unladen, block, one⟩

/-- The lanes and the claims once the front bar and the claim of lane `k` are gone. -/
theorem State.Poised.lanes_of_pick (h : s.Poised i j) (kind : j.kind = .deliver) (two : j.step = .two)
    (lane : j.lane = some k) (bars : (s.lane k).bars = b :: rest) (unclaimed : j'.claim = false) {l : LaneRecord}
    (isBars : l.bars = rest) (claimed : l.claimed = (s.lane k).claimed - 1)
    (reserved : l.reserved = (s.lane k).reserved)
    (lanes : ∀ x, t.lane x = if k = x then l else s.lane x) (x : LaneNo) :
    (t.lane x).bars.length + (t.lane x).reserved ≤ 12 ∧ (t.lane x).claimed ≤ (t.lane x).bars.length ∧
      (t.lane x).claimed + claimsOn x (some j) = (s.lane x).claimed + claimsOn x (some j') := by
  obtain ⟨stocked, -, -, one⟩ := h.stocked kind two lane
  obtain ⟨room, covered, -⟩ := h.held.plan.lanes x
  rw [lanes, claimsOn_of_unclaimed x unclaimed]
  by_cases same : k = x
  · subst same
    rw [bars, List.length_cons] at room covered
    rw [if_pos rfl, isBars, claimed, reserved, one]
    omega
  · rw [if_neg same, claimsOn_some, if_neg fun ⟨_, _, e⟩ => same (Option.some.inj (lane.symm.trans e))]
    exact ⟨room, covered, rfl⟩

/-- The front bar of lane `k` goes into the active job's record, or is dropped. -/
theorem State.idsOk_of_pick (ids : s.idsOk) (bare : j.bar = none)
    (bars : (s.lane k).bars = b :: rest) {l : LaneRecord} (isBars : l.bars = rest)
    (bar : j'.bar = some b ∨ j'.bar = none)
    {y : State} (count : ∀ x, y.idCount x = (s.setLane k l).idCount x) (job : y.job i = some j) :
    (y.setSlot i (some j')).idsOk := by
  rw [State.idsOk_iff] at ids ⊢
  intro x nonzero
  have one := ids x nonzero
  have lane := s.idCount_setLane k l x
  have slot := y.idCount_setSlot i (some j') x
  have left : l.idCount x = (rest.map (·.id)).count x := by rw [LaneRecord.idCount, isBars]
  rw [LaneRecord.idCount_cons bars, left, ← count x] at lane
  rw [job, slotIdCount_of_none x bare] at slot
  rcases bar with bar | bar
  · rw [slotIdCount_of_bar x bar] at slot
    omega
  · rw [slotIdCount_of_none x bar] at slot
    omega

/-- The record of a DELIVER job with the bar of its PICK. -/
def Job.picked (j : Job) (b : BarRecord) (short : Bool) (retries : Nat) : Job :=
  { j with bar := some b, claim := false, short := short, retries := retries }

theorem Job.Unladen.picked_ok (h : j.Unladen) (kind : j.kind = .deliver) (active : j.state = .active) (b : BarRecord)
    (short : Bool) (retries : Nat) : ({ j.picked b short retries with step := .three } : Job).ok := by
  have carried : ({ j.picked b short retries with step := .three } : Job).carried = .bar := by
    unfold Job.carried
    rw [show ({ j.picked b short retries with step := .three } : Job).kind = .deliver from kind]
  unfold Job.ok
  rw [carried]
  obtain ⟨parked, -⟩ := h.deliver kind
  refine ⟨⟨fun _ => rfl, fun _ => rfl⟩, fun some => absurd h.parts some, fun rest => absurd active rest,
    fun other => absurd kind other, fun _ => ⟨parked, ⟨fun e => (nomatch e), fun e => ?_⟩, fun e => (nomatch e),
      fun _ => rfl⟩,
    h.collect, fun ret => absurd (kind.symm.trans ret) (by decide), h.block⟩
  obtain ⟨step | step, -⟩ := e <;> cases step

theorem State.Poised.pickLaneBar (h : s.Poised i j) (kind : j.kind = .deliver) (two : j.step = .two)
    (lane : j.lane = some k) : (s.pickLaneBar i j k).BooksOk := by
  obtain ⟨stocked, unladen, -, -⟩ := h.stocked kind two lane
  unfold State.pickLaneBar
  split
  · next empty =>
    obtain ⟨-, covered, -⟩ := h.held.plan.lanes k
    rw [empty] at covered
    exact absurd (stocked.trans covered) (by decide)
  · next b rest bars =>
    dsimp only
    generalize s.shortFor j.lathe b.length = short
    generalize (if short = true then j.retries + 1 else j.retries) = retries
    obtain ⟨j2, is2⟩ : ∃ j2, j.picked b short retries = j2 := ⟨_, rfl⟩
    obtain ⟨l, isL⟩ : ∃ l, ({ s.lane k with bars := rest, claimed := (s.lane k).claimed - 1 } : LaneRecord) = l :=
      ⟨_, rfl⟩
    change State.BooksOk (State.afterOutcome
      (if short = true then (((s.setLane k { s.lane k with bars := rest, claimed := (s.lane k).claimed - 1 }).setLoad
          .bar).setSlot i (some (j.picked b short retries))).post _
        else ((s.setLane k { s.lane k with bars := rest, claimed := (s.lane k).claimed - 1 }).setLoad .bar).setSlot i
          (some (j.picked b short retries))) i .three true)
    rw [isL, is2]
    obtain ⟨y, isY⟩ : ∃ y, (s.setLane k l).setLoad .bar = y := ⟨_, rfl⟩
    rw [isY]
    have posts (e : EventRec) : ∃ ev, (if short = true then (y.setSlot i (some j2)).post e else y.setSlot i (some j2)) =
        (y.setSlot i (some j2)).setEvents ev := by
      unfold State.post
      split
      · split <;> exact ⟨_, rfl⟩
      · exact ⟨_, rfl⟩
    obtain ⟨ev, posted⟩ := posts _
    rw [posted]
    have lanes (x : LaneNo) : ((y.setSlot i (some j2)).setEvents ev).lane x = if k = x then l else s.lane x := by
      rw [← isY]
      exact Bank.read_write _ _ _ _
    have held : ((y.setSlot i (some j2)).setEvents ev).Held i j2 := by
      refine h.held.rewritten (by rw [← isY]; rfl) (by rw [← isY]; rfl) (by rw [← isY]; rfl) (by rw [← isY]; rfl)
        (by rw [← isY]; rfl) (by rw [← isY]; rfl) (by rw [← isY]; exact h.held.reject) (by rw [← is2]; rfl)
        (by rw [← is2]; rfl) (by rw [← is2]; rfl) (by rw [← is2]; rfl) ?_
      exact h.lanes_of_pick kind two lane bars (by rw [← is2]; rfl) (by rw [← isL]) (by rw [← isL])
        (by rw [← isL]) lanes
    refine held.afterOutcome ?_ ⟨?_, ?_, fun x => ?_⟩ true
    · have ids := State.idsOk_of_pick (j' := j2) (y := y) h.ids unladen.bar bars (l := l) (by rw [← isL])
        (.inl (by rw [← is2]; rfl)) (fun x => by rw [← isY]; rfl) (by rw [← isY]; exact h.held.job)
      exact State.idsOk_congr ids rfl rfl rfl
    · rw [← is2]
      exact unladen.picked_ok kind h.activeState b short retries
    · have carried : ({ j2 with step := .three } : Job).carried = .bar := by
        unfold Job.carried
        rw [show ({ j2 with step := .three } : Job).kind = .deliver by rw [← is2]; exact kind]
      rw [carried, ← isY]
      rfl
    · rw [if_neg fun e => absurd ((show j2.kind = .deliver by rw [← is2]; exact kind).symm.trans e.1) (by decide),
        lanes]
      split
      · rw [← isL]
        exact h.carries.reserved_of_deliver kind k
      · exact h.carries.reserved_of_deliver kind x

theorem State.Poised.pickLaneMissing (h : s.Poised i j) (kind : j.kind = .deliver) (two : j.step = .two)
    (lane : j.lane = some k) : (s.pickLaneMissing i j k).BooksOk := by
  obtain ⟨stocked, unladen, block, -⟩ := h.stocked kind two lane
  unfold State.pickLaneMissing
  split
  · next empty =>
    obtain ⟨-, covered, -⟩ := h.held.plan.lanes k
    rw [empty] at covered
    exact absurd (stocked.trans covered) (by decide)
  · next b rest bars =>
    dsimp only
    obtain ⟨j2, is2⟩ : ∃ j2, ({ j with claim := false } : Job) = j2 := ⟨_, rfl⟩
    obtain ⟨l, isL⟩ : ∃ l, ({ s.lane k with bars := rest, claimed := (s.lane k).claimed - 1 } : LaneRecord) = l :=
      ⟨_, rfl⟩
    have posts (z : State) (e : EventRec) : ∃ ev, z.post e = z.setEvents ev := by
      unfold State.post
      split <;> exact ⟨_, rfl⟩
    obtain ⟨ev, posted⟩ := posts ((s.setLane k { s.lane k with bars := rest }).setLoad .none)
      (event .laneMissing (halves b.id rest.length) (lane := some k) (job := some j.id))
    rw [posted]
    obtain ⟨y, isY⟩ : ∃ y, (((s.setLane k { s.lane k with bars := rest }).setLoad .none).setEvents ev).setLane k
      { (((s.setLane k { s.lane k with bars := rest }).setLoad .none).setEvents ev).lane k with
        claimed := ((((s.setLane k { s.lane k with bars := rest }).setLoad .none).setEvents ev).lane k).claimed - 1 } = y :=
      ⟨_, rfl⟩
    have rack : y.rack = (s.setLane k l).rack := by
      rw [← isY, ← isL]
      simp [State.setLane, State.lane, Bank.write_write, State.setLoad]
    rw [isY, is2]
    have lanes (x : LaneNo) : (y.setSlot i (some j2)).lane x = if k = x then l else s.lane x := by
      rw [State.setSlot_lane, State.lane, rack]
      exact Bank.read_write _ _ _ _
    have claims := h.lanes_of_pick kind two lane bars (j' := j2) (by rw [← is2]) (l := l) (by rw [← isL])
      (by rw [← isL])
      (by rw [← isL]) lanes
    rw [State.withdrawExcess_of_within (claims k).2.1]
    have reserved (x : LaneNo) : ((y.setSlot i (some j2)).lane x).reserved = 0 := by
      rw [lanes]
      split
      · rw [← isL]
        exact h.carries.reserved_of_deliver kind k
      · exact h.carries.reserved_of_deliver kind x
    have unclaimed : (y.setSlot i (some j2)).Unclaimed i j2 := by
      refine ⟨h.held.rewritten (by rw [← isY]; rfl) (by rw [← isY]; rfl) (by rw [← isY]; rfl) (by rw [← isY]; rfl)
        (by rw [← isY]; rfl) (by rw [← isY]; rfl) ?_ (by rw [← is2]) (by rw [← is2]) (by rw [← is2])
          (by rw [← is2]) claims,
        ?_, by rw [← isY]; rfl, reserved, by rw [← is2]; exact kind, by rw [← is2], by rw [← is2]; exact unladen.bar,
        by rw [← is2]; exact unladen.parts, by rw [← is2]; exact block⟩
      · rw [State.setSlot_rack, rack]
        exact h.held.reject
      · refine State.idsOk_of_pick (j' := j2) (y := y) h.ids unladen.bar bars (l := l) (by rw [← isL])
          (.inr (by rw [← is2]; exact unladen.bar)) (fun x => ?_) (by rw [← isY]; exact h.held.job)
        exact State.idCount_congr (congrArg Rack.lanes rack) (by rw [← isY]; rfl) (by rw [← isY]; rfl) x
    split
    · exact unclaimed.reclaim
    · exact unclaimed.parting.removeActive

end Pick

end Sys2Proof.Machine

/-! PROOFS. A bar placed, at the lathe or at REJECT, and the other steps of a DELIVER job keep the books (R25, R86,
R120, R127, R129). -/
namespace Sys2Proof.Machine

open Sys2Proof

section Place
variable {s t u : State} {i : Slot} {j j' : Job} {k : LaneNo} {n : Lathe} {b : BarRecord}

/-- The record of a job that carries something: at the steps 3 and 4 it holds no claim, and parts in a COLLECT alone. -/
theorem State.Poised.laden (h : s.Poised i j) (some : j.carried ≠ .none) :
    j.claim = false ∧ (j.kind ≠ .collect → j.carried = .bar ∧ j.parts = 0) := by
  obtain ⟨-, parts, -, others, deliver, -⟩ := h.carries.ok
  constructor
  · by_contra claims
    have claim : j.claim = true := by simpa using claims
    have kind := h.carries.ok.claim_kind claim
    obtain ⟨-, early, -⟩ := deliver kind
    exact some (j.carried_eq_none.2 (early.1 claim).1)
  · intro kind
    have carried : j.carried = .bar := by
      unfold Job.carried at some ⊢
      revert some kind
      cases j.kind <;> cases j.step <;> simp
    refine ⟨carried, ?_⟩
    by_contra holds
    have isParts := parts holds
    rw [carried] at isParts
    cases isParts

theorem carried_of_late (late : j.step = .three ∨ j.step = .four) : j.carried ≠ .none := by
  intro none
  rcases j.carried_eq_none.1 none with step | step <;> rcases late with step' | step' <;> rw [step] at step' <;> cases step'

/-- The active job's bar leaves its record. -/
theorem State.Held.unloaded (h : s.Held i j) (bar : j'.bar = none)
    (sched : t.sched = { s.sched with slots := s.sched.slots.write i (some j') }) (x : Nat)
    (lanes : t.rack.lanes = s.rack.lanes) (accounts : t.accounts = s.accounts) :
    t.idCount x + slotIdCount x (some j) = s.idCount x := by
  have count := s.idCount_setSlot i (some j') x
  rw [h.job, slotIdCount_of_none x bar, Nat.add_zero] at count
  have same : t.idCount x = (s.setSlot i (some j')).idCount x :=
    State.idCount_congr (s := s.setSlot i (some j')) lanes (by rw [sched]; rfl) accounts x
  rw [same]
  exact count

theorem State.Poised.placeShort (h : s.Poised i j) (kind : j.kind = .deliver) (four : j.step = .four)
    (place : s.rack.reject < 20) : (s.placeShort i j).BooksOk := by
  obtain ⟨claim, laden⟩ := h.laden (carried_of_late (.inr four))
  obtain ⟨-, parts⟩ := laden (by rw [kind]; decide)
  obtain ⟨-, -, -, -, -, -, -, block⟩ := h.carries.ok
  unfold State.placeShort
  dsimp only
  obtain ⟨t, isT⟩ : ∃ t, (((s.setLoad .none).rejectBar).setSlot i (some { j with bar := none, short := false })) = t :=
    ⟨_, rfl⟩
  have held : t.Held i { j with bar := none, short := false } :=
    h.held.noted (by rw [← isT]; rfl) (by rw [← isT]; rfl) (by rw [← isT]; rfl) (by rw [← isT]; rfl)
      (by rw [← isT]; rfl)
      (by rw [← isT]; rfl) (by rw [← isT]; rfl) (by rw [← isT]; exact place) rfl rfl rfl rfl fun _ => rfl
  have ids : t.idsOk := by
    have ids := h.ids
    rw [State.idsOk_iff] at ids ⊢
    intro x nonzero
    have count := h.held.unloaded (t := t) (j' := { j with bar := none, short := false }) rfl (by rw [← isT]; rfl) x
      (by rw [← isT]; rfl) (by rw [← isT]; rfl)
    have one := ids x nonzero
    omega
  rw [isT]
  have unclaimed : t.Unclaimed i { j with bar := none, short := false } :=
    ⟨held, ids, by rw [← isT]; rfl, fun k => by rw [← isT]; exact h.carries.reserved_of_deliver kind k, kind, claim,
      rfl, parts, block (by rw [h.activeState]; decide)⟩
  split
  · have plans : Planning t (t.setStockShort j.lathe true) := planning_setAccount fun x _ => Nat.le_refl _
    obtain ⟨d, c, parting⟩ := unclaimed.parting.planned plans
    exact parting.removeActive
  · split
    · exact unclaimed.reclaim
    · exact unclaimed.parting.removeActive

theorem State.Poised.placeLathe (h : s.Poised i j) (kind : j.kind = .deliver) (four : j.step = .four) :
    (s.placeLathe i j).BooksOk := by
  obtain ⟨claim, laden⟩ := h.laden (carried_of_late (.inr four))
  obtain ⟨carried, -⟩ := laden (by rw [kind]; decide)
  obtain ⟨b, bar⟩ := Option.isSome_iff_exists.1 (h.carries.ok.1.2 carried)
  unfold State.placeLathe
  rw [bar]
  dsimp only
  obtain ⟨y, isY⟩ : ∃ y, (s.setLoad .none).setSlot i (some { j with bar := none }) = y := ⟨_, rfl⟩
  rw [isY]
  unfold State.stageCradle
  dsimp only
  obtain ⟨a, isA⟩ : ∃ a, ({ y.account j.lathe with cradle := some ⟨b, false⟩ } : Account) = a := ⟨_, rfl⟩
  rw [isA]
  obtain ⟨t, isT⟩ : ∃ t, y.setAccount j.lathe a = t := ⟨_, rfl⟩
  rw [isT]
  have held : t.Held i { j with bar := none } :=
    h.held.noted (by rw [← isT, ← isY]; rfl) (by rw [← isT, ← isY]; rfl) (by rw [← isT, ← isY]; rfl)
      (by rw [← isT, ← isY]; rfl) (by rw [← isT, ← isY]; rfl) (by rw [← isT, ← isY]; rfl) (by rw [← isT, ← isY]; rfl)
      (by rw [← isT, ← isY]; exact h.held.reject) rfl rfl rfl rfl fun _ => rfl
  have ids : t.idsOk := by
    have ids := h.ids
    rw [State.idsOk_iff] at ids ⊢
    intro x nonzero
    have count := h.held.unloaded (t := y) (j' := { j with bar := none }) rfl (by rw [← isY]; rfl) x
      (by rw [← isY]; rfl) (by rw [← isY]; rfl)
    have staged := y.idCount_setAccount j.lathe a x
    have holds : a.idCount x = [b.id].count x + ((y.account j.lathe).current.map (·.id)).toList.count x := by
      rw [← isA]
      rfl
    have spindle : ((y.account j.lathe).current.map (·.id)).toList.count x ≤ (y.account j.lathe).idCount x :=
      Nat.le_add_left _ _
    have one := ids x nonzero
    rw [slotIdCount_of_bar x bar] at count
    rw [isT] at staged
    omega
  have parting : t.Parting i { j with bar := none } :=
    held.parting ids (by rw [← isT, ← isY]; rfl)
      (fun k => by rw [← isT, ← isY]; exact h.carries.reserved_of_deliver kind k) fun _ => kind
  refine parting.completes claim (Keeps.trans ?_ (keeps_evalHold _ _)) .plain
  refine Keeps.trans (t := t.notice j.lathe (stagedMsg b)) (keeps_notice _ _ _) ?_
  split
  · exact keeps_actOnCradle _ _
  · exact keeps_settleCompare _ _

end Place

end Sys2Proof.Machine

/-! PROOFS. The outcomes of a COLLECT job's and of a RETURN's steps keep the books (R84 to R86, R120, R131, R133 to
R136), and so does any outcome of an accepted load. -/
namespace Sys2Proof.Machine

open Sys2Proof

section Collect
variable {s t u : State} {i : Slot} {j j' : Job} {k : LaneNo} {n : Lathe} {b : BarRecord}

theorem State.Carries.reserved_of_other (h : s.Carries j) (other : j.kind ≠ .ret ∨ j.lane = none) (k : LaneNo) :
    (s.lane k).reserved = 0 := by
  rw [h.reserved k, if_neg]
  rintro ⟨ret, lane⟩
  rcases other with kind | none
  · exact kind ret
  · rw [none] at lane
    cases lane

/-! ### The steps of a COLLECT job -/

/-- The record of a COLLECT job with its parts. -/
theorem Job.Unladen.loaded_ok (h : j.Unladen) (kind : j.kind = .collect) (active : j.state = .active) (x : Nat) :
    ({ j with parts := x, step := .three } : Job).ok := by
  have carried : ({ j with parts := x, step := .three } : Job).carried = .parts := by
    unfold Job.carried
    rw [show ({ j with parts := x, step := .three } : Job).kind = .collect from kind]
  unfold Job.ok
  rw [carried]
  refine ⟨?_, fun _ => rfl, fun rest => absurd active rest, h.others,
    fun deliver => absurd (kind.symm.trans deliver) (by decide), h.collect,
    fun ret => absurd (kind.symm.trans ret) (by decide), h.block⟩
  change j.bar.isSome = true ↔ _
  rw [h.bar]
  decide

theorem State.Poised.emptyParts (h : s.Poised i j) (kind : j.kind = .collect) (two : j.step = .two) :
    (s.emptyParts i j).BooksOk := by
  obtain ⟨unladen, -⟩ := (Job.ok_iff_unladen (.inr two)).1 h.carries.ok
  unfold State.emptyParts
  dsimp only
  generalize s.seq.tIssue = x
  obtain ⟨t, isT⟩ : ∃ t, (s.setLoad .parts).setSlot i (some { j with parts := x }) = t := ⟨_, rfl⟩
  rw [isT]
  have held : t.Held i { j with parts := x } :=
    h.held.noted (by rw [← isT]; rfl) (by rw [← isT]; rfl) (by rw [← isT]; rfl) (by rw [← isT]; rfl)
      (by rw [← isT]; rfl)
      (by rw [← isT]; rfl) (by rw [← isT]; rfl) (by rw [← isT]; exact h.held.reject) rfl rfl rfl rfl fun _ => rfl
  have ids : t.idsOk := by
    have count (y : Nat) := s.idCount_retouched (j' := { j with parts := x }) h.held.job rfl y
    refine State.idsOk_of_count h.ids fun y => ?_
    rw [← isT]
    exact count y
  obtain ⟨w, isW⟩ : ∃ w,
    ((t.setAccount j.lathe { t.account j.lathe with tray := (t.account j.lathe).tray - x }).recomputeAndFire
    j.lathe).evalHold j.lathe = w := ⟨_, rfl⟩
  have keeps : Keeps t w := by
    rw [← isW]
    refine (keeps_evalHold _ _).after ((keeps_recomputeAndFire _ _).after ?_)
    exact keeps_setAccount_of_bars rfl rfl
  have plans := keeps.busy (State.busy_of_job held.seq)
  rw [isW]
  obtain ⟨d, c, heldW⟩ := held.planned plans
  refine heldW.afterOutcome (plans.idsOk ids) ⟨unladen.loaded_ok kind h.activeState x, ?_, fun k => ?_⟩ false
  · have carried : ({ ({ j with parts := x } : Job).aged d c with step := .three } : Job).carried = .parts := by
      unfold Job.carried
      rw [show ({ ({ j with parts := x } : Job).aged d c with step := .three } : Job).kind = .collect from kind]
    rw [plans.shuttle, carried, ← isT]
    rfl
  · rw [plans.reserved k, ← isT, if_neg fun e => absurd (kind.symm.trans e.1) (by decide)]
    exact h.carries.reserved_of_other (.inl (by rw [kind]; decide)) k

theorem State.Poised.setLoad_none (h : s.Poised i j) (load : s.shuttle.load = .none) : (s.setLoad .none).Poised i j :=
  h.congr rfl rfl rfl rfl load.symm rfl rfl rfl h.held.state

theorem State.Poised.emptyNothing (h : s.Poised i j) (kind : j.kind = .collect) (two : j.step = .two) :
    (s.emptyNothing i j).BooksOk := by
  have load := h.carries.load.trans (j.carried_eq_none.2 (.inr two))
  obtain ⟨-, -, -, others, -⟩ := h.carries.ok
  unfold State.emptyNothing
  refine ((h.setLoad_none load).parting rfl).completes (others (by rw [kind]; decide)).1 ?_ .plain
  refine (keeps_evalHold _ _).after ((keeps_recomputeAndFire _ _).after ?_)
  exact keeps_post _ _

theorem State.Poised.dumpDone (h : s.Poised i j) (kind : j.kind = .collect) (b : BinNo) :
    (s.dumpDone i j b).BooksOk := by
  obtain ⟨-, -, -, others, -⟩ := h.carries.ok
  have unclaimed := (others (by rw [kind]; decide)).1
  unfold State.dumpDone
  dsimp only
  obtain ⟨t, isT⟩ : ∃ t, ((s.setLoad .none).setBin b
    { s.bin b with count := (s.bin b).count + (s.bin b).inFlight, inFlight := 0 }).setSlot i
      (some { j with parts := 0 }) = t :=
    ⟨_, rfl⟩
  have held : t.Held i { j with parts := 0 } :=
    h.held.noted (by rw [← isT]; rfl) (by rw [← isT]; rfl) (by rw [← isT]; rfl) (by rw [← isT]; rfl)
      (by rw [← isT]; rfl)
      (by rw [← isT]; rfl) (by rw [← isT]; rfl) (by rw [← isT]; exact h.held.reject) rfl rfl rfl rfl fun _ => rfl
  have ids : t.idsOk := by
    have count (y : Nat) := s.idCount_retouched (j' := { j with parts := 0 }) h.held.job rfl y
    refine State.idsOk_of_count h.ids fun y => ?_
    rw [← isT]
    exact count y
  rw [isT]
  refine State.Parting.completes (i := i) (j := { j with parts := 0 }) ?_ unclaimed
    (planning_evalBins t b).keeps .dumped
  refine held.parting ids (by rw [← isT]; rfl) (fun k => ?_) h.carries.ok.claim_kind
  rw [← isT]
  exact h.carries.reserved_of_other (.inl (by rw [kind]; decide)) k

/-! ### The steps of a RETURN -/

theorem State.barIds_length (plan : s.Planned) : s.barIds.length ≤ 344 := by
  unfold State.barIds allSlots
  simp only [List.length_append, List.length_flatMap, List.length_map]
  have lanes : ((List.finRange 24).map fun k => (s.lane k).bars.length).sum ≤ 288 := by
    rw [← Fin.sum_univ_def]
    refine (Finset.sum_le_card_nsmul _ _ 12 fun k _ => ?_).trans (by simp)
    obtain ⟨room, -⟩ := plan.lanes k
    omega
  have jobs := List.length_filterMap_le (fun i => (s.job i).bind fun j => j.bar.map (·.id)) (List.finRange 32)
  have cradles := List.length_filterMap_le (fun n => (s.account n).cradle.map (·.bar.id)) (List.finRange 12)
  have spindles := List.length_filterMap_le (fun n => (s.account n).current.map (·.id)) (List.finRange 12)
  rw [List.length_finRange] at jobs cradles spindles
  omega

/-- An id that the bar id allocator finds is in use nowhere. -/
theorem State.idCount_of_free (plan : s.Planned) (last : Nat) :
    s.idCount (freeId Config.barIdMax s.barIds s.barIds.length last) = 0 := by
  rw [State.idCount_eq]
  refine List.count_eq_zero_of_not_mem (freeId_free ?_)
  exact Nat.lt_of_le_of_lt (State.barIds_length plan) (by decide)

/-- The bar that a PICK at a cradle finds is in use on that cradle alone (R66, R68; log 30). -/
theorem State.pickedRecord_spec (plan : s.Planned) (ids : s.idsOk) (n : Lathe) :
    ∃ b d, s.pickedRecord n = (b, s.setDraws d) ∧ ∀ x, x ≠ 0 →
      s.idCount x + [b.id].count x ≤ 1 + ((s.account n).cradle.map (·.bar.id)).toList.count x := by
  rw [State.idsOk_iff] at ids
  unfold State.pickedRecord
  cases cradle : (s.account n).cradle with
  | some c =>
    refine ⟨c.bar, s.draws, rfl, fun x nonzero => ?_⟩
    have one := ids x nonzero
    change _ ≤ 1 + [c.bar.id].count x
    omega
  | none =>
    refine ⟨_, _, rfl, fun x nonzero => ?_⟩
    dsimp only
    have free := State.idCount_of_free plan (Config.freeValue (s.draws + 0) % 65536)
    generalize freeId Config.barIdMax s.barIds s.barIds.length (Config.freeValue (s.draws + 0) % 65536) = id at free ⊢
    have one := ids x nonzero
    by_cases same : id = x
    · subst same
      rw [free]
      simp
    · rw [List.count_singleton, if_neg (by simpa using same)]
      simpa using one

theorem keeps_emptied (s : State) (n : Lathe) :
    Keeps (s.setAccount n { s.account n with cradle := none }) (s.emptyCradle n) := by
  unfold State.emptyCradle
  dsimp only
  generalize s.setAccount n { s.account n with cradle := none } = v
  have rearms : Keeps v (if (v.account n).wantsCompare then v.rearm n else v) := by
    split
    · exact keeps_rearm v n
    · exact .refl v
  refine rearms.trans ?_
  generalize (if (v.account n).wantsCompare then v.rearm n else v) = w
  split
  · exact keeps_wantBar w n
  · exact .refl w

theorem keeps_emptyCradle (s : State) (n : Lathe) : Keeps s (s.emptyCradle n) := by
  refine (keeps_emptied s n).after (keeps_setAccount fun x _ => ?_)
  exact Nat.add_le_add_right (Nat.zero_le _) _

theorem State.Poised.returnPickMissing (h : s.Poised i j) (kind : j.kind = .ret) (two : j.step = .two) :
    (s.returnPickMissing i j).BooksOk := by
  have load := h.carries.load.trans (j.carried_eq_none.2 (.inr two))
  obtain ⟨-, -, -, others, -⟩ := h.carries.ok
  unfold State.returnPickMissing
  obtain ⟨b, d, picked, -⟩ := State.pickedRecord_spec h.held.plan h.ids j.lathe
  rw [picked]
  dsimp only
  refine ((h.setLoad_none load).parting rfl).completes (others (by rw [kind]; decide)).1 ?_ .plain
  refine (keeps_evalHold _ _).after ((keeps_emptyCradle _ _).after ((keeps_post _ _).after ?_))
  exact keeps_of_frame rfl rfl rfl rfl rfl

/-- The record of a RETURN with its bar on the way. -/
theorem Job.Unladen.returning_ok (h : j.Unladen) (kind : j.kind = .ret) (active : j.state = .active) (b : BarRecord)
    (l : Option LaneNo) : ({ j with bar := some b, lane := l, step := .three } : Job).ok := by
  have carried : ({ j with bar := some b, lane := l, step := .three } : Job).carried = .bar := by
    unfold Job.carried
    rw [show ({ j with bar := some b, lane := l, step := .three } : Job).kind = .ret from kind]
  unfold Job.ok
  rw [carried]
  exact ⟨⟨fun _ => rfl, fun _ => rfl⟩, fun some => absurd h.parts some, fun rest => absurd active rest, h.others,
    fun deliver => absurd (kind.symm.trans deliver) (by decide), h.collect, fun _ _ => rfl, h.block⟩

theorem State.Poised.returnPickBar (h : s.Poised i j) (kind : j.kind = .ret) (two : j.step = .two) :
    (s.returnPickBar i j).BooksOk := by
  obtain ⟨unladen, -⟩ := (Job.ok_iff_unladen (.inr two)).1 h.carries.ok
  unfold State.returnPickBar
  obtain ⟨b, draws, picked, fresh⟩ := State.pickedRecord_spec h.held.plan h.ids j.lathe
  rw [picked]
  dsimp only
  obtain ⟨j2, is2⟩ : ∃ j2, ({ j with bar := some b } : Job) = j2 := ⟨_, rfl⟩
  have kind2 : j2.kind = .ret := by rw [← is2]; exact kind
  obtain ⟨y, isY⟩ : ∃ y, ((s.setDraws draws).setLoad .bar).setSlot i (some j2) = y := ⟨_, rfl⟩
  obtain ⟨a, isA⟩ : ∃ a, ({ y.account j.lathe with cradle := none } : Account) = a := ⟨_, rfl⟩
  obtain ⟨t, isT⟩ : ∃ t, y.setAccount j.lathe a = t := ⟨_, rfl⟩
  rw [is2, isY]
  have held : t.Held i j2 :=
    h.held.noted (by rw [← isT, ← isY]; rfl) (by rw [← isT, ← isY]; rfl) (by rw [← isT, ← isY]; rfl)
      (by rw [← isT, ← isY]; rfl) (by rw [← isT, ← isY]; rfl) (by rw [← isT, ← isY]; rfl) (by rw [← isT, ← isY]; rfl)
      (by rw [← isT, ← isY]; exact h.held.reject) (by rw [← is2]) (by rw [← is2]) (by rw [← is2]) (by rw [← is2])
      fun _ => by rw [← is2]; rfl
  have ids : t.idsOk := by
    rw [State.idsOk_iff]
    intro x nonzero
    have bound := fresh x nonzero
    have slot := s.idCount_setSlot i (some j2) x
    rw [h.held.job, slotIdCount_of_none x unladen.bar, slotIdCount_of_bar x
      (show j2.bar = some b by rw [← is2])] at slot
    have sameY : y.idCount x = (s.setSlot i (some j2)).idCount x := by
      rw [← isY]
      exact State.idCount_congr (s := s.setSlot i (some j2)) rfl rfl rfl x
    have emptied := y.idCount_setAccount j.lathe a x
    have sameAccount : y.account j.lathe = s.account j.lathe := by rw [← isY]; rfl
    have left : a.idCount x = ((s.account j.lathe).current.map (·.id)).toList.count x := by
      rw [← isA, sameAccount]
      exact Nat.zero_add _
    have whole : (s.account j.lathe).idCount x = ((s.account j.lathe).cradle.map (·.bar.id)).toList.count x +
      ((s.account j.lathe).current.map (·.id)).toList.count x := rfl
    rw [isT, sameAccount, left, whole, sameY] at emptied
    omega
  have none (k : LaneNo) : (t.lane k).reserved = 0 := by
    rw [← isT, ← isY]
    exact h.carries.reserved_of_other (.inr (unladen.ret kind)) k
  obtain ⟨w, isW⟩ : ∃ w, (y.emptyCradle j.lathe).evalHold j.lathe = w := ⟨_, rfl⟩
  have keeps : Keeps t w := by
    rw [← isW, ← isT, ← isA]
    exact (keeps_evalHold _ _).after (keeps_emptied y j.lathe)
  have plans := keeps.busy (State.busy_of_job held.seq)
  rw [isW]
  obtain ⟨d, c, heldW⟩ := held.planned plans
  obtain ⟨l, chosen⟩ := State.chooseDestination_spec heldW.plan heldW.job kind2 heldW.activeState
    (fun k => (plans.reserved k).trans (none k)) b
  have heldV : (w.chooseDestination i b).Held i { j2.aged d c with lane := l } :=
    ⟨chosen.plan, chosen.seq ▸ heldW.seq, chosen.job, chosen.shuttle ▸ heldW.outstanding, chosen.shuttle ▸ heldW.fault,
      chosen.shuttle ▸ heldW.homeFailed, chosen.shuttle ▸ heldW.state, chosen.reject ▸ heldW.reject⟩
  refine heldV.afterOutcome (State.idsOk_of_count (plans.idsOk ids) chosen.ids) ⟨?_, ?_, fun k => ?_⟩ true
  · rw [← is2]
    exact unladen.returning_ok kind h.activeState b l
  · have carried : ({ ({ j2.aged d c with lane := l } : Job) with step := .three } : Job).carried = .bar := by
      unfold Job.carried
      rw [show ({ ({ j2.aged d c with lane := l } : Job) with step := .three } : Job).kind = .ret from kind2]
    rw [chosen.shuttle, plans.shuttle, carried, ← isT, ← isY]
    rfl
  · rw [chosen.reserved k]
    refine if_congr ?_ rfl rfl
    exact ⟨fun e => ⟨kind2, e⟩, fun e => e.2⟩

theorem State.Poised.returnPlace (h : s.Poised i j) (kind : j.kind = .ret) (four : j.step = .four)
    (place : j.lane = none → s.rack.reject < 20) : (s.returnPlace i j).BooksOk := by
  obtain ⟨claim, laden⟩ := h.laden (carried_of_late (.inr four))
  obtain ⟨carried, -⟩ := laden (by rw [kind]; decide)
  obtain ⟨b, bar⟩ := Option.isSome_iff_exists.1 (h.carries.ok.1.2 carried)
  unfold State.returnPlace
  rw [bar]
  dsimp only
  obtain ⟨y, isY⟩ : ∃ y, (s.setLoad .none).setSlot i (some { j with bar := none }) = y := ⟨_, rfl⟩
  rw [isY]
  have count (x : Nat) := h.held.unloaded (t := y) (j' := { j with bar := none }) rfl (by rw [← isY]; rfl) x
    (by rw [← isY]; rfl) (by rw [← isY]; rfl)
  have ids := h.ids
  rw [State.idsOk_iff] at ids
  have notDeliver : j.kind ≠ .deliver := by rw [kind]; decide
  have noClaim (l : LaneNo) (x : Job) (isKind : x.kind = j.kind) : claimsOn l (some x) = 0 :=
    claimsOn_of_other (by rw [isKind]; exact notDeliver) l
  cases lane : j.lane with
  | some k =>
    dsimp only
    have reservedK : (s.lane k).reserved = 1 := (h.carries.reserved k).trans (if_pos ⟨kind, lane⟩)
    have sameLane (x : LaneNo) : y.lane x = s.lane x := by rw [← isY]; rfl
    obtain ⟨l, isL⟩ : ∃ l, ({ y.lane k with bars := { b with returned := true } :: (y.lane k).bars, reserved := 0 } :
      LaneRecord) = l := ⟨_, rfl⟩
    obtain ⟨t, isT⟩ : ∃ t, y.setLane k l = t := ⟨_, rfl⟩
    rw [isL, isT]
    have lanes (x : LaneNo) : t.lane x = if k = x then l else s.lane x := by
      rw [← isT, State.setLane_lane, sameLane]
    have held : t.Held i { j with bar := none } := by
      refine h.held.rewritten (by rw [← isT, ← isY]; rfl) (by rw [← isT, ← isY]; rfl) (by rw [← isT, ← isY]; rfl)
        (by rw [← isT, ← isY]; rfl) (by rw [← isT, ← isY]; rfl) (by rw [← isT, ← isY]; rfl)
        (by rw [← isT, ← isY]; exact h.held.reject) rfl rfl rfl rfl fun x => ?_
      obtain ⟨room, covered, -⟩ := h.held.plan.lanes x
      rw [lanes, noClaim x j rfl, noClaim x { j with bar := none } rfl]
      by_cases same : k = x
      · subst same
        rw [if_pos rfl, ← isL, sameLane]
        rw [reservedK] at room
        exact ⟨room, covered.trans (Nat.le_succ _), rfl⟩
      · rw [if_neg same]
        exact ⟨room, covered, rfl⟩
    have idsT : t.idsOk := by
      rw [State.idsOk_iff]
      intro x nonzero
      have one := ids x nonzero
      have back := y.idCount_setLane k l x
      have whole : l.idCount x = [b.id].count x + (y.lane k).idCount x := by
        rw [LaneRecord.idCount_cons (b := { b with returned := true }) (rest := (y.lane k).bars) (by rw [← isL])]
        rfl
      have before := count x
      rw [slotIdCount_of_bar x bar] at before
      rw [isT, whole] at back
      omega
    refine State.Parting.completes (i := i) (j := { j with bar := none }) ?_ claim (planning_stockGain t k).keeps .plain
    refine held.parting idsT (by rw [← isT, ← isY]; rfl) (fun x => ?_) h.carries.ok.claim_kind
    rw [lanes]
    by_cases same : k = x
    · rw [if_pos same, ← isL]
    · rw [if_neg same, h.carries.reserved x, if_neg fun e => same (Option.some.inj (lane.symm.trans e.2))]
  | none =>
    dsimp only
    have held : y.rejectBar.Held i { j with bar := none } :=
      h.held.noted (by rw [← isY]; rfl) (by rw [← isY]; rfl) (by rw [← isY]; rfl) (by rw [← isY]; rfl)
        (by rw [← isY]; rfl)
        (by rw [← isY]; rfl) (by rw [← isY]; rfl) (by rw [← isY]; exact place lane) rfl rfl rfl rfl fun _ => rfl
    have idsY : y.rejectBar.idsOk := by
      rw [State.idsOk_iff]
      intro x nonzero
      have one := ids x nonzero
      have before := count x
      have same : y.rejectBar.idCount x = y.idCount x := State.idCount_congr (s := y) rfl rfl rfl x
      omega
    refine State.Parting.completeActive (j := { j with bar := none }) ?_ claim .plain
    refine held.parting idsY (by rw [← isY]; rfl) (fun x => ?_) h.carries.ok.claim_kind
    rw [← isY]
    exact h.carries.reserved_of_other (.inr lane) x

end Collect

end Sys2Proof.Machine

/-! PROOFS. The end of an order and a fault keep the books (R120, R121, R138, R154 to R160, R165, R166). -/
namespace Sys2Proof.Machine

open Sys2Proof

section Ends
variable {s t u : State} {i : Slot} {j j' : Job} {n : Lathe} {o : OutOrder} {l : Load}

/-! ### Any outcome of an accepted load (R120) -/

theorem State.Poised.moved (h : s.Poised i j) {next : StepIx}
    (carried : ({ j with step := next } : Job).carried = j.carried)
    (early : (next = .one ∨ next = .two) ↔ (j.step = .one ∨ j.step = .two)) (load : l = j.carried) :
    ((s.setLoad l).afterOutcome i next false).BooksOk := by
  have loaded : (s.setLoad l).Poised i j :=
    h.congr rfl rfl rfl rfl (load.trans h.carries.load.symm) rfl rfl rfl h.held.state
  exact loaded.held.afterOutcome loaded.ids ⟨h.carries.ok.atStep h.activeState carried early,
    loaded.carries.load.trans carried.symm, loaded.carries.reserved⟩ false

theorem State.Poised.takeOutcome (h : s.Poised i j) (accepts : j.accepts l = true)
    (place : j.order = some ⟨.place, .reject⟩ → s.rack.reject < 20) : (s.takeOutcome i j l).BooksOk := by
  have laneOf (kind : j.kind = .deliver) (two : j.step = .two) : ∃ k, j.lane = some k := by
    obtain ⟨o, order⟩ := h.carries.ok.order h.activeState
    rw [Job.order, kind, two] at order
    obtain ⟨k, lane, -⟩ := Option.map_eq_some_iff.1 order
    exact ⟨k, lane⟩
  unfold State.takeOutcome
  unfold Job.accepts at accepts
  cases kind : j.kind with
  | deliver =>
    cases step : j.step with
    | one =>
      refine h.moved ?_ (by simp [step]) ?_ <;> simp_all [Job.carried]
    | two =>
      obtain ⟨k, lane⟩ := laneOf kind step
      rw [lane]
      dsimp only
      split
      · exact h.pickLaneBar kind step lane
      · exact h.pickLaneMissing kind step lane
    | three => refine h.moved ?_ (by simp [step]) ?_ <;> simp_all [Job.carried]
    | four =>
      dsimp only
      split
      · next short => exact h.placeShort kind step (place (by rw [Job.order, kind, step]; simp [short]))
      · exact h.placeLathe kind step
  | collect =>
    cases step : j.step with
    | one => refine h.moved ?_ (by simp [step]) ?_ <;> simp_all [Job.carried]
    | two =>
      dsimp only
      split
      · exact h.emptyParts kind step
      · exact h.emptyNothing kind step
    | three => refine h.moved ?_ (by simp [step]) ?_ <;> simp_all [Job.carried]
    | four =>
      obtain ⟨-, -, -, -, -, collect, -⟩ := h.carries.ok
      obtain ⟨b, bin⟩ := Option.isSome_iff_exists.1 (collect kind)
      rw [bin]
      exact h.dumpDone kind b
  | ret =>
    cases step : j.step with
    | one => refine h.moved ?_ (by simp [step]) ?_ <;> simp_all [Job.carried]
    | two =>
      dsimp only
      split
      · exact h.returnPickBar kind step
      · exact h.returnPickMissing kind step
    | three => refine h.moved ?_ (by simp [step]) ?_ <;> simp_all [Job.carried]
    | four =>
      exact h.returnPlace kind step fun none => place (by rw [Job.order, kind, step, Job.destination, none])

/-! ### Faults (R121, R138, R159) -/

/-- A state in which order `o` may be declared to have failed. -/
structure State.Struck (s : State) (o : OutOrder) : Prop where
  plan : s.Planned
  ids : s.idsOk
  reject : s.rack.reject ≤ 20
  carries : ∀ i j, s.seq.job = some i → s.job i = some j → s.Carries j
  bare : s.seq.job = none → s.shuttle.load = .none ∧ (∀ k, (s.lane k).reserved = 0) ∧ s.seq.phase = .unissued
  home : o.purpose = .home → s.seq.job = none
  clear : o.purpose = .clear → s.seq.phase = .unissued
  failed : s.shuttle.homeFailed = true → s.seq.job = none

/-- The books after a fault, with the step unissued. -/
theorem State.Struck.books (h : s.Struck o) (sched : t.sched = s.sched) (rack : t.rack = s.rack)
    (accounts : t.accounts = s.accounts) (seq : t.seq.job = s.seq.job) (phase : t.seq.phase = .unissued)
    (load : t.shuttle.load = s.shuttle.load) (state : t.shuttle.state = .fault) (out : t.shuttle.outstanding = none)
    (fault : t.shuttle.fault.isSome = true) (failed : t.shuttle.homeFailed = true → s.seq.job = none) : t.BooksOk := by
  have plan := h.plan.congr (congrArg Rack.lanes rack) sched seq
  have ids := State.idsOk_congr h.ids (congrArg Rack.lanes rack) (congrArg Schedule.slots sched) accounts
  have lane (k : LaneNo) : t.lane k = s.lane k := congrArg (fun x : Rack => x.lanes.read k) rack
  have step : t.stepOk := by
    refine ⟨fun _ => phase, ?_, ?_, ?_, ?_, ?_, ?_, fun m x active => ⟨?_, ?_⟩⟩ <;> simp [state, phase, out]
  have fault : t.faultOk := by
    refine ⟨by simp [state, fault], fun isFailed => ⟨.inl state, seq.trans (failed isFailed)⟩, rack ▸ h.reject,
      fun m x _ isOut => by rw [phase] at isOut; cases isOut⟩
  cases own : s.seq.job with
  | none =>
    obtain ⟨none, reserved, -⟩ := h.bare own
    exact State.booksOk_of_none plan ids (seq.trans own) (load.trans none) (fun k => lane k ▸ reserved k) step fault
  | some i =>
    obtain ⟨j, hj, -⟩ := h.plan.active own
    have hjT : t.job i = some j := (congrArg (fun x : Schedule => x.slots.read i) sched).trans hj
    exact State.booksOk_of_job plan ids (seq.trans own) hjT
      ((h.carries i j own hj).congr load fun k => congrArg LaneRecord.reserved (lane k)) step fault

theorem State.dropInFlight_bins (s : State) (o : OutOrder) : ∃ b, s.dropInFlight o = s.setBins b := by
  unfold State.dropInFlight
  split
  · exact ⟨_, rfl⟩
  · exact ⟨s.bins, rfl⟩

theorem State.Struck.declareFault (h : s.Struck o) (code : FaultCode) (drive : Byte) :
    (s.declareFault code drive o).BooksOk := by
  unfold State.declareFault
  dsimp only
  refine (keeps_post _ _).books ?_
  generalize s.shuttle.faultRecord code drive o = rec_
  obtain ⟨sh, isSh⟩ : ∃ sh, ({ s.shuttle with
      state := .fault, outstanding := none, heldWord := none, noAnswer := 0, fault := some rec_,
      homeFailed := s.shuttle.homeFailed || o.purpose == .home } : Shuttle) = sh := ⟨_, rfl⟩
  have failed (isFailed : sh.homeFailed = true) : s.seq.job = none := by
    rw [← isSh] at isFailed
    simp only [Bool.or_eq_true, beq_iff_eq] at isFailed
    exact isFailed.elim h.failed h.home
  rw [isSh]
  split
  · next why =>
    unfold State.freezeStep
    dsimp only
    obtain ⟨b, dropped⟩ := State.dropInFlight_bins ((((s.setStepTimer .stopped).setShuttle sh).setSeq
      { ((s.setStepTimer .stopped).setShuttle sh).seq with phase := .unissued })) o
    rw [dropped]
    obtain ⟨t, isT⟩ : ∃ t, ((((s.setStepTimer .stopped).setShuttle sh).setSeq
      { ((s.setStepTimer .stopped).setShuttle sh).seq with phase := .unissued })).setBins b = t := ⟨_, rfl⟩
    have books : t.BooksOk := h.books (by rw [← isT]; rfl) (by rw [← isT]; rfl) (by rw [← isT]; rfl)
      (by rw [← isT]; rfl)
      (by rw [← isT]; rfl) (by rw [← isT, ← isSh]; rfl) (by rw [← isT, ← isSh]; rfl) (by rw [← isT, ← isSh]; rfl)
      (by rw [← isT, ← isSh]; rfl) (by rw [← isT]; exact failed)
    rw [isT]
    split
    · next i j active =>
      split
      · next acts =>
        simp only [Bool.and_eq_true, beq_iff_eq] at acts
        obtain ⟨own, hj⟩ := State.active_eq_some.1 active
        exact (books.parting own hj acts.2 (by rw [← isT]; exact fun e => nomatch e)).removeActive
      · exact books
    · exact books
  · next why =>
    refine h.books rfl rfl rfl rfl ?_ (by rw [← isSh]; rfl) (by rw [← isSh]; rfl) (by rw [← isSh]; rfl)
      (by rw [← isSh]; rfl) failed
    cases isWhy : o.purpose with
    | step => exact absurd isWhy why
    | home => exact (h.bare (h.home isWhy)).2.2
    | clear => exact h.clear isWhy

/-- With an order out, it may be declared to have failed, whatever the shuttle's other fields. -/
theorem State.BooksOk.struck (h : s.BooksOk) (out : s.shuttle.outstanding = some o) (sched : t.sched = s.sched)
    (rack : t.rack = s.rack) (accounts : t.accounts = s.accounts) (seq : t.seq = s.seq)
    (load : t.shuttle.load = s.shuttle.load) (failed : t.shuttle.homeFailed = s.shuttle.homeFailed) : t.Struck o := by
  obtain ⟨unissued, stepping, purpose, waits, homing, clear, free, -⟩ := h.step
  have lane (k : LaneNo) : t.lane k = s.lane k := congrArg (fun x : Rack => x.lanes.read k) rack
  refine ⟨h.plan.congr (congrArg Rack.lanes rack) sched (by rw [seq]),
    State.idsOk_congr h.ids (congrArg Rack.lanes rack) (congrArg Schedule.slots sched) accounts, rack ▸ h.reject,
    fun i j own hj => ?_, fun none => ?_, fun why => ?_, fun why => ?_, fun isFailed => ?_⟩
  · rw [seq] at own
    have hjS : s.job i = some j := (congrArg (fun x : Schedule => x.slots.read i) sched).symm.trans hj
    exact (h.carries own hjS).congr load fun k => congrArg LaneRecord.reserved (lane k)
  · rw [seq] at none ⊢
    exact ⟨load.trans (h.load_of_none none), fun k => lane k ▸ h.reserved_of_none none k, unissued none⟩
  · rw [seq]
    exact free (.inr (.inl (homing.2 ⟨o, out, why⟩)))
  · rw [seq]
    have fault := clear o out why
    cases phase : s.seq.phase with
    | unissued => rfl
    | outstanding => exact absurd ((stepping.2 phase).symm.trans fault) (by decide)
    | guardPending => exact absurd ((waits.2 (.inl phase)).symm.trans fault) (by decide)
    | rejectWait => exact absurd ((waits.2 (.inr (.inl phase))).symm.trans fault) (by decide)
    | dumpWait => exact absurd ((waits.2 (.inr (.inr phase))).symm.trans fault) (by decide)
  · obtain ⟨-, home, -⟩ := h.fault
    rw [seq]
    exact (home (failed ▸ isFailed)).2

/-- A shuttle with no order out and no fault that goes to a state without a job. -/
theorem State.Struck.rest (h : s.Struck o) (seq : s.seq.job = none) {sh : Shuttle} (load : sh.load = .none)
    (out : sh.outstanding = none) (fault : sh.fault = none) (failed : sh.homeFailed = false)
    (state : sh.state = .idle ∨ sh.state = .halted) : (s.setShuttle sh).BooksOk := by
  obtain ⟨-, reserved, phase⟩ := h.bare seq
  have active := State.active_of_none (s := s.setShuttle sh) seq
  refine State.booksOk_of_none (h.plan.congr rfl rfl rfl) (State.idsOk_congr h.ids rfl rfl rfl) seq load reserved ?_ ?_
  · refine ⟨fun _ => phase, ?_, ?_, ?_, ?_, ?_, fun _ => seq, fun m x isActive => ?_⟩
    · rcases state with state | state <;> simp [state, phase]
    · rcases state with state | state <;> simp [state, out]
    · rcases state with state | state <;> simp [state, phase]
    · rcases state with state | state <;> simp [state, out]
    · simp [out]
    · rw [active] at isActive
      cases isActive
  · refine ⟨?_, by simp [failed], h.reject, fun m x isActive => ?_⟩
    · rcases state with state | state <;> simp [state, fault]
    · rw [active] at isActive
      cases isActive

/-! ### The end of an order (R157, R158) -/

/-- A step's order has ended: its job is poised, the order no longer out. -/
theorem State.BooksOk.ended (h : s.BooksOk) (out : s.shuttle.outstanding = some o) (why : o.purpose = .step)
    (sched : t.sched = s.sched) (rack : t.rack = s.rack) (accounts : t.accounts = s.accounts) (seq : t.seq = s.seq)
    (load : t.shuttle.load = s.shuttle.load) (failed : t.shuttle.homeFailed = s.shuttle.homeFailed)
    (fault : t.shuttle.fault = s.shuttle.fault) (state : t.shuttle.state = s.shuttle.state)
    (ended : t.shuttle.outstanding = none) :
    ∃ i j, t.Poised i j ∧ (j.order = some ⟨.place, .reject⟩ → t.rack.reject < 20) := by
  obtain ⟨unissued, stepping, purpose, -⟩ := h.step
  have isStepping := purpose.2 ⟨o, out, why⟩
  have phase := stepping.1 isStepping
  have notFault : s.shuttle.state ≠ .fault := by rw [isStepping]; decide
  cases own : s.seq.job with
  | none =>
    have other := unissued own
    rw [phase] at other
    cases other
  | some i =>
    obtain ⟨j, hj, -⟩ := h.plan.active own
    have hjT : t.job i = some j := (congrArg (fun x : Schedule => x.slots.read i) sched).trans hj
    refine ⟨i, j, ⟨⟨h.plan.congr (congrArg Rack.lanes rack) sched (by rw [seq]), seq ▸ own, hjT, ended,
      fault.trans (h.noFault notFault), failed.trans (h.homed_of_job own), state ▸ notFault, rack ▸ h.reject⟩,
      (h.carries own hj).congr load fun k => congrArg (fun x : Rack => (x.lanes.read k).reserved) rack,
      State.idsOk_congr h.ids (congrArg Rack.lanes rack) (congrArg Schedule.slots sched) accounts⟩, fun placing => ?_⟩
    rw [rack]
    exact h.fault.2.2.2 i j (State.active_of_job own hj) phase placing

theorem State.BooksOk.orderComplete (h : s.BooksOk) (exec : execOrderComplete s = .next t) : t.BooksOk := by
  unfold execOrderComplete at exec
  cases exec
  split
  · next o w out held =>
    split
    · exact h
    · obtain ⟨t, isT⟩ : ∃ t, s.endOrder w = t := ⟨_, rfl⟩
      have sched : t.sched = s.sched := by rw [← isT]; rfl
      have rack : t.rack = s.rack := by rw [← isT]; rfl
      have accounts : t.accounts = s.accounts := by rw [← isT]; rfl
      have seq : t.seq = s.seq := by rw [← isT]; rfl
      have load : t.shuttle.load = s.shuttle.load := by rw [← isT]; rfl
      have failed : t.shuttle.homeFailed = s.shuttle.homeFailed := by rw [← isT]; rfl
      have fault : t.shuttle.fault = s.shuttle.fault := by rw [← isT]; rfl
      have state : t.shuttle.state = s.shuttle.state := by rw [← isT]; rfl
      have ended : t.shuttle.outstanding = none := by rw [← isT]; rfl
      have struck : t.Struck o := h.struck out sched rack accounts seq load failed
      rw [isT]
      unfold State.handOn
      split
      · next why =>
        obtain ⟨i, j, poised, place⟩ := h.ended out why sched rack accounts seq load failed fault state ended
        unfold State.stepOutcome
        rw [poised.active]
        dsimp only
        split
        · next accepts => exact poised.takeOutcome accepts place
        · exact struck.declareFault _ _
      · next why =>
        obtain ⟨-, -, -, -, homing, -, free, -⟩ := h.step
        have isHoming := homing.2 ⟨o, out, why⟩
        have none := free (.inr (.inl isHoming))
        have notFault : s.shuttle.state ≠ .fault := by rw [isHoming]; decide
        have noFault := fault.trans (h.noFault notFault)
        have isNone : t.seq.job = Option.none := seq ▸ none
        obtain ⟨bare, -⟩ := struck.bare isNone
        unfold State.homeDone
        split
        · split
          · exact struck.rest isNone bare ended noFault rfl (.inr rfl)
          · refine State.BooksOk.dispatch ?_
            exact struck.rest isNone bare ended noFault rfl (.inl rfl)
        · exact struck.declareFault _ _
      · next why =>
        obtain ⟨-, -, -, -, -, clear, -, -⟩ := h.step
        have isFault := clear o out why
        refine struck.books rfl rfl rfl rfl (struck.clear why) rfl (state.trans isFault) ended ?_ struck.failed
        rw [fault]
        exact h.fault.1.1 isFault
  · exact h

theorem State.BooksOk.noAnswerFault (h : s.BooksOk) (exec : execNoAnswerFault s = .next t) : t.BooksOk := by
  unfold execNoAnswerFault at exec
  cases exec
  split
  · next o out =>
    split
    · exact (h.struck
        (t := s.setShuttle { s.shuttle with position := .unknown }) out rfl rfl rfl rfl rfl rfl).declareFault
        _ _
    · exact h
  · exact h

end Ends

end Sys2Proof.Machine

/-! PROOFS. The rows of the drive, of the timers and of HALL_TICK keep the books (R59 to R61, R101, R124, R154 to
R166). -/
namespace Sys2Proof.Machine

open Sys2Proof

section Rows
variable {s t u : State} {i : Slot} {j j' : Job} {n : Lathe} {o : OutOrder} {l : Load}

theorem State.BooksOk.declareFault (h : s.BooksOk) (out : s.shuttle.outstanding = some o) (code : FaultCode)
    (drive : Byte)
    (sched : t.sched = s.sched) (rack : t.rack = s.rack) (accounts : t.accounts = s.accounts) (seq : t.seq = s.seq)
    (load : t.shuttle.load = s.shuttle.load) (failed : t.shuttle.homeFailed = s.shuttle.homeFailed) :
    (t.declareFault code drive o).BooksOk := (h.struck out sched rack accounts seq load failed).declareFault _ _

/-- What the books say of the shuttle record: its state, load, outstanding order, fault record and home failed. -/
theorem State.BooksOk.reshuttled (h : s.BooksOk) {sh : Shuttle} (state : sh.state = s.shuttle.state)
    (load : sh.load = s.shuttle.load) (out : sh.outstanding = s.shuttle.outstanding)
    (fault : sh.fault = s.shuttle.fault)
    (failed : sh.homeFailed = s.shuttle.homeFailed) : (s.setShuttle sh).BooksOk := by
  obtain ⟨ids, lanes, jobs, stack, ⟨oks, isLoad⟩, step, isFault⟩ := h
  refine ⟨ids, lanes, jobs, stack, ⟨oks, load.trans isLoad⟩, ?_, ?_⟩
  · unfold State.stepOk at step ⊢
    rw [State.setShuttle_shuttle, state, out]
    exact step
  · unfold State.faultOk at isFault ⊢
    rw [State.setShuttle_shuttle, state, fault, failed]
    exact isFault

theorem State.BooksOk.framed (h : s.BooksOk) (sched : t.sched = s.sched) (rack : t.rack = s.rack) (seq : t.seq = s.seq)
    (shuttle : t.shuttle = s.shuttle) (accounts : t.accounts = s.accounts) : t.BooksOk :=
  (keeps_of_frame sched rack seq shuttle accounts).books h

/-- What the books say of the step record: its job and its phase. -/
theorem State.BooksOk.resequenced (h : s.BooksOk) {x : StepRecord} (job : x.job = s.seq.job)
    (phase : x.phase = s.seq.phase) :
    (s.setSeq x).BooksOk := by
  have active : (s.setSeq x).active = s.active := by
    unfold State.active
    rw [State.setSeq_seq, job]
    rfl
  obtain ⟨ids, lanes, jobs, stack, ⟨oks, load⟩, step, fault⟩ := h
  refine ⟨ids, fun k => ?_, jobs, ?_, ⟨oks, ?_⟩, ?_, ?_⟩
  · have same : (s.setSeq x).reservedFor k = s.reservedFor k := by
      unfold State.reservedFor
      rw [active]
    rw [same]
    exact lanes k
  · unfold State.stackOk at stack ⊢
    rw [State.setSeq_seq, job]
    exact stack
  · rw [active]
    exact load
  · unfold State.stepOk at step ⊢
    rw [active, State.setSeq_seq, job, phase]
    exact step
  · unfold State.faultOk at fault ⊢
    rw [active, State.setSeq_seq, job, phase]
    exact fault

theorem State.BooksOk.stepTimerExpiry (h : s.BooksOk) (exec : execStepTimerExpiry s = .next t) : t.BooksOk := by
  unfold execStepTimerExpiry at exec
  cases exec
  split
  · dsimp only
    split
    · next o out =>
      refine State.BooksOk.reshuttled ?_ rfl rfl rfl rfl rfl
      exact h.declareFault (t := s.setStepTimer .stopped) out _ _ rfl rfl rfl rfl rfl rfl
    · exact h.framed rfl rfl rfl rfl rfl
  · exact h

/-! ### CLEAR_COMPLETE (R166) -/

/-- An order of kind CLEAR is no step's (R165). -/
theorem State.BooksOk.unissued_of_clear (h : s.BooksOk) (out : s.shuttle.outstanding = some o)
    (kind : o.kind = .clear) :
    s.seq.phase = .unissued := by
  have struck := h.struck out (t := s) rfl rfl rfl rfl rfl rfl
  cases why : o.purpose with
  | step =>
    obtain ⟨i, j, poised, -⟩ := h.ended
      (t := s.setShuttle { s.shuttle with outstanding := none }) out why rfl rfl rfl rfl rfl
      rfl rfl rfl rfl
    obtain ⟨-, -, -, -, -, -, -, present⟩ := h.step
    obtain ⟨o', order⟩ := poised.carries.ok.order poised.activeState
    have same := (present i j poised.active).2 o out why
    rw [order, Option.map_some, Option.some.injEq, Prod.mk.injEq] at same
    have isClear := same.1.trans kind
    obtain ⟨k, target⟩ := o'
    unfold Job.order at order
    revert order
    cases isClear
    cases j.kind <;> cases j.step <;> cases j.lane <;> cases j.bin <;> simp
  | home => exact (struck.bare (struck.home why)).2.2
  | clear => exact struck.clear why

/-- HOME goes out with no job on the shuttle (R158, R166). -/
theorem State.Struck.homes (h : s.Struck o) (seq : s.seq.job = none) (fault : s.shuttle.fault = none) (sp : Speed) :
    ((s.issue .home (some .home) sp .home).setShuttle
      { (s.issue .home (some .home) sp .home).shuttle with state := .homing }).BooksOk := by
  obtain ⟨load, reserved, phase⟩ := h.bare seq
  obtain ⟨t, isT⟩ : ∃ t, (s.issue .home (some .home) sp .home).setShuttle
    { (s.issue .home (some .home) sp .home).shuttle with state := .homing } = t := ⟨_, rfl⟩
  have state : t.shuttle.state = .homing := by rw [← isT]; rfl
  have out : t.shuttle.outstanding = some ⟨.home, some .home, sp, .home⟩ := by rw [← isT]; rfl
  have phaseT : t.seq.phase = .unissued := by rw [← isT]; exact phase
  have seqT : t.seq.job = none := by rw [← isT]; exact seq
  have faultT : t.shuttle.fault = none := by rw [← isT]; exact fault
  have active := State.active_of_none seqT
  rw [isT]
  refine State.booksOk_of_none (h.plan.congr (by rw [← isT]; rfl) (by rw [← isT]; rfl) (by rw [← isT]; rfl))
    (State.idsOk_congr h.ids (by rw [← isT]; rfl) (by rw [← isT]; rfl) (by rw [← isT]; rfl)) seqT
    (by rw [← isT]; exact load) (fun k => by rw [← isT]; exact reserved k) ?_ ?_
  · refine ⟨fun _ => phaseT, ?_, ?_, ?_, ?_, ?_, fun _ => seqT, fun m x isActive => ?_⟩
    · simp [state, phaseT]
    · simp [state, out]
    · simp [state, phaseT]
    · simp [state, out]
    · simp [out]
    · rw [active] at isActive
      cases isActive
  · refine ⟨by simp [state, faultT], fun _ => ⟨.inr state, seqT⟩, by rw [← isT]; exact h.reject, fun m x isActive => ?_⟩
    rw [active] at isActive
    cases isActive

theorem State.Struck.afterClear (h : s.Struck o) (out : s.shuttle.outstanding = none) (fault : s.shuttle.fault = none)
    (phase : s.seq.phase = .unissued) (sp : Speed) : (s.afterClear sp).BooksOk := by
  unfold State.afterClear
  by_cases failed : s.shuttle.homeFailed = true
  · rw [if_pos failed]
    exact h.homes (h.failed failed) fault sp
  · rw [if_neg failed]
    have homed : s.shuttle.homeFailed = false := by simpa using failed
    have poised (i : Slot) (j : Job) (own : s.seq.job = some i) (hj : s.job i = some j) (sh : Shuttle)
        (load : sh.load = s.shuttle.load) (isOut : sh.outstanding = none) (isFault : sh.fault = none)
        (isFailed : sh.homeFailed = false) (state : sh.state ≠ .fault) : (s.setShuttle sh).Poised i j :=
      ⟨⟨h.plan.congr rfl rfl rfl, own, hj, isOut, isFault, isFailed, state, h.reject⟩,
        (h.carries i j own hj).congr load fun _ => rfl, State.idsOk_congr h.ids rfl rfl rfl⟩
    split
    · cases own : s.seq.job with
      | none => exact h.rest own (h.bare own).1 out fault homed (.inr rfl)
      | some i =>
        obtain ⟨j, hj, -⟩ := h.plan.active own
        exact (poised i j own hj { s.shuttle with state := .halted, haltPending := false } rfl out fault homed
          fun e => (nomatch e)).books_halted rfl phase
    · split
      · next isActive =>
        obtain ⟨⟨i, j⟩, active⟩ := Option.isSome_iff_exists.1 isActive
        obtain ⟨own, hj⟩ := State.active_eq_some.1 active
        exact (poised i j own hj { s.shuttle with state := .idle } rfl out fault homed fun e => (nomatch e)).takeUp
      · next none =>
        have own : s.seq.job = Option.none := by
          cases own : s.seq.job with
          | none => rfl
          | some i =>
            obtain ⟨j, hj, -⟩ := h.plan.active own
            rw [State.active_of_job own hj] at none
            exact absurd rfl none
        refine State.BooksOk.dispatch ?_
        exact h.rest own (h.bare own).1 out fault homed (.inl rfl)

theorem State.BooksOk.clearComplete (h : s.BooksOk) (exec : execClearComplete s = .next t) : t.BooksOk := by
  unfold execClearComplete at exec
  cases exec
  split
  · next o w out held =>
    split
    · next isClear =>
      dsimp only
      obtain ⟨t, isT⟩ : ∃ t, (s.endOrder w).setShuttle { (s.endOrder w).shuttle with fault := none } = t := ⟨_, rfl⟩
      have struck : t.Struck o := h.struck out (by rw [← isT]; rfl) (by rw [← isT]; rfl) (by rw [← isT]; rfl)
        (by rw [← isT]; rfl) (by rw [← isT]; rfl) (by rw [← isT]; rfl)
      have notStepping : s.seq.phase = .unissued := h.unissued_of_clear out isClear
      rw [isT]
      exact struck.afterClear (by rw [← isT]; rfl) (by rw [← isT]; rfl) (by rw [← isT]; exact notStepping) _
    · exact h
  · exact h

/-! ### The guards (R60, R61, R101, R124) -/

/-- The active job's wait ends, and its step is poised again. -/
theorem State.BooksOk.poised (h : s.BooksOk) (own : s.seq.job = some i) (hj : s.job i = some j)
    (notOut : s.seq.phase ≠ .outstanding) (notFault : s.shuttle.state ≠ .fault) : s.Poised i j := by
  obtain ⟨-, stepping, -, -, homing, -, free, -⟩ := h.step
  have notHoming : s.shuttle.state ≠ .homing := fun isHoming => by
    have none := free (.inr (.inl isHoming))
    rw [own] at none
    cases none
  exact ⟨⟨h.plan, own, hj, h.noOrder (fun isStepping => notOut (stepping.1 isStepping)) notHoming notFault,
    h.noFault notFault, h.homed_of_job own, notFault, h.reject⟩, h.carries own hj, h.ids⟩

/-- A wait of the active job's step is one of WAITING. -/
theorem State.BooksOk.poised_of_wait (h : s.BooksOk) (active : s.active = some (i, j))
    (waits : s.seq.phase = .guardPending ∨ s.seq.phase = .rejectWait ∨ s.seq.phase = .dumpWait) : s.Poised i j := by
  obtain ⟨-, -, -, waiting, -⟩ := h.step
  obtain ⟨own, hj⟩ := State.active_eq_some.1 active
  have state := waiting.2 waits
  refine h.poised own hj ?_ (by rw [state]; decide)
  rcases waits with phase | phase | phase <;> rw [phase] <;> decide

theorem State.BooksOk.endGuardWait (h : s.BooksOk) (n : Lathe) : (s.endGuardWait n).BooksOk := by
  unfold State.endGuardWait
  split
  · next i j active =>
    split
    · next own =>
      simp only [Bool.and_eq_true, beq_iff_eq, decide_eq_true_eq] at own
      have poised := h.poised_of_wait active (.inl own.1)
      exact (poised.congr (t := s.setGuardWait .stopped) rfl rfl rfl rfl rfl rfl rfl rfl poised.held.state).takeUp
    · exact h
  · exact h

theorem State.BooksOk.guardChanged (h : s.BooksOk) (n : Lathe) (closed : Bool) : (s.guardChanged n closed).BooksOk := by
  unfold State.guardChanged
  dsimp only
  have posted : (if s.params.guardReport.getLsbD n.val then
      s.post (event .guardChange (if closed then 0 else 1) (lathe := some n)) else s).BooksOk := by
    split
    · exact (keeps_post _ _).books h
    · exact h
  generalize (if s.params.guardReport.getLsbD n.val then
    s.post (event .guardChange (if closed then 0 else 1) (lathe := some n)) else s) = v at posted ⊢
  split
  · exact (posted.endGuardWait n).clearParked n
  · exact posted

theorem State.BooksOk.sampleGuard (h : s.BooksOk) (n : Lathe) (closed : Bool) : (s.sampleGuard n closed).BooksOk := by
  unfold State.sampleGuard
  dsimp only
  have lined (x : Line) : (s.setLine n x).BooksOk := h.framed rfl rfl rfl rfl rfl
  split
  · exact lined _
  · split
    · exact lined _
    · split
      · exact lined _
      · exact (lined _).guardChanged n closed

theorem State.BooksOk.foldl {α : Type} (f : State → α → State) (each : ∀ s a, s.BooksOk → (f s a).BooksOk) (l : List α)
    (h : s.BooksOk) : (l.foldl f s).BooksOk := by
  induction l generalizing s with
  | nil => exact h
  | cons a l ih => exact ih (each s a h)

theorem keeps_senseHold (s : State) (n : Lathe) (sensed : Bool) : Keeps s (s.senseHold n sensed) := by
  unfold State.senseHold
  dsimp only
  have lined : Keeps s (s.setLine n ((s.line n).sense sensed)) := keeps_of_frame rfl rfl rfl rfl rfl
  split
  · exact (keeps_post _ _).after lined
  · exact lined

theorem keeps_testCompare (s : State) (n : Lathe) : Keeps s (s.testCompare n) := by
  unfold State.testCompare
  dsimp only
  split
  · refine (keeps_deliverOnFire _ n).after ?_
    exact keeps_of_frame rfl rfl rfl rfl rfl
  · exact .refl s

theorem State.BooksOk.poll (h : s.BooksOk) (w : Word) : (s.poll w).BooksOk := by
  unfold State.poll
  split
  · exact h
  · next o out =>
    split
    · exact h
    · dsimp only
      split
      · unfold State.evaluatePoll
        split
        · exact (h.reshuttled rfl rfl rfl rfl rfl).reshuttled rfl rfl rfl rfl rfl
        · dsimp only
          have fails (code : FaultCode) (drive : Byte) :
              (((s.exchange .poll).noteStatus w).declareFault code drive o).BooksOk :=
            h.declareFault out _ _ rfl rfl rfl rfl rfl rfl
          split
          · exact fails _ _
          · split
            · exact fails _ _
            · exact (h.reshuttled rfl rfl rfl rfl rfl).reshuttled rfl rfl rfl rfl rfl
      · exact (h.reshuttled rfl rfl rfl rfl rfl).reshuttled rfl rfl rfl rfl rfl

/-- What a tick counts by itself keeps the books: the jobs' times age (R102). -/
theorem planning_countTick (s : State) : Planning s s.countTick := by
  have job (m : Slot) : s.countTick.job m = (s.job m).map fun j => j.tick (s.now + 1) := Bank.read_each _ _ _
  have slot (x : Nat) (o : Option Job) : slotIdCount x (o.map fun j => j.tick (s.now + 1)) = slotIdCount x o := by
    cases o <;> rfl
  have claims (k : LaneNo) (o : Option Job) : claimsOn k (o.map fun j => j.tick (s.now + 1)) = claimsOn k o := by
    cases o <;> rfl
  have standing (m : Slot) : s.countTick.standing m = s.standing m := by
    rw [State.standing, job, State.standing]
    cases s.job m <;> rfl
  have found {m : Slot} {x : Job} (hx : s.countTick.job m = some x) : ∃ j, s.job m = some j ∧ j.tick (s.now + 1) = x :=
    Option.map_eq_some_iff.1 ((job m).symm.trans hx)
  refine ⟨rfl, rfl, rfl, fun _ => rfl,
    fun i j hj _ => ⟨(j.tick (s.now + 1)).deadline, (j.tick (s.now + 1)).created, ?_⟩,
    fun x _ => ?_, fun h => ⟨fun k => ?_, ?_, State.stackOk_of_standing h.stack standing rfl rfl, fun m x hx => ?_⟩⟩
  · rw [job, hj]
    rfl
  · refine State.idCount_le_of (fun _ => rfl) (fun m => ?_) fun n => ?_
    · rw [job, slot]
    · have account : s.countTick.account n = (s.account n).tick (s.now + 1) := Bank.read_each _ _ _
      rw [account]
      exact Nat.le_refl _
  · obtain ⟨room, covered, count⟩ := h.lanes k
    refine ⟨room, covered, count.trans ?_⟩
    unfold State.claimCount
    simp only [job, claims]
  · obtain ⟨apart, deferred⟩ := s.jobsOk_iff.1 h.jobs
    refine (State.jobsOk_iff _).2 ⟨fun m x hx m' x' ne hx' => ?_, deferred⟩
    obtain ⟨j, hj, rfl⟩ := found hx
    obtain ⟨j', hj', rfl⟩ := found hx'
    exact apart m j hj m' j' ne hj'
  · obtain ⟨j, hj, rfl⟩ := found hx
    exact h.fit m j hj

theorem State.BooksOk.hallTick (h : s.BooksOk) {guards hsense : BitVec 12} {shin : BitVec 64}
    (exec : execHallTick guards hsense shin s = .next t) : t.BooksOk := by
  have counted := (planning_countTick s).books h
  have polled := counted.poll (statusShifted shin)
  have sampled : (((s.countTick).poll (statusShifted shin)).sampleGuards guards).BooksOk := by
    unfold State.sampleGuards
    refine State.BooksOk.framed (s := allLathes.foldl (fun s n => s.sampleGuard n (guards.getLsbD n.val))
      (s.countTick.poll (statusShifted shin))) ?_ rfl rfl rfl rfl rfl
    exact polled.foldl _ (fun s n h => h.sampleGuard n _) _
  unfold execHallTick at exec
  dsimp only at exec
  generalize ((s.countTick).poll (statusShifted shin)).sampleGuards guards = v at sampled exec
  have sensed : (v.senseHolds hsense).BooksOk := (keeps_foldl _ (fun s n => keeps_senseHold s n _) _ _).books sampled
  generalize v.senseHolds hsense = w at sensed exec
  rw [← Host.Outcome.next.inj exec]
  refine (keeps_foldl _ (fun s n => keeps_testCompare s n) _ _).books ?_
  exact sensed.framed rfl rfl rfl rfl rfl

/-! ### GUARD_WAIT_EXPIRY (R101, R124) -/

/-- The record of a job parked at an open guard (R101). -/
def Job.parked (j : Job) : Job := { j with state := .waiting, step := .one, block := .guardParked }

theorem State.BooksOk.parkActive (h : s.BooksOk) (active : s.active = some (i, j)) (waits : s.seq.phase = .guardPending)
    (load : s.shuttle.load = .none) : (s.parkActive i n).BooksOk := by
  obtain ⟨own, hj⟩ := State.active_eq_some.1 active
  have parting := h.parting own hj load (by rw [waits]; decide)
  have poised := h.poised_of_wait active (.inl waits)
  have early := j.carried_eq_none.1 (poised.carries.load.symm.trans load)
  obtain ⟨unladen, -⟩ := (Job.ok_iff_unladen early).1 poised.carries.ok
  have kind : j.kind ≠ .deliver := fun deliver => by
    obtain ⟨-, -, -, -, -, -, -, present⟩ := h.step
    obtain ⟨k, n, order⟩ := (present i j active).1 waits
    unfold Job.order at order
    rcases early with step | step <;> rw [deliver, step] at order <;> simp at order
  have ok : j.parked.ok := Job.Unladen.ok (j := j.parked) ⟨unladen.bar, unladen.parts, unladen.others,
    fun deliver => absurd deliver kind, unladen.collect, unladen.ret, fun rest => absurd rfl rest⟩ rfl
  unfold State.parkActive
  dsimp only
  rw [State.updateJob_eq hj]
  have books : (((s.setSlot i (some j.parked)).setSeq .clear).releaseShuttle).BooksOk := by
    rw [State.releaseShuttle_eq]
    exact parting.stood (j' := j.parked) poised.activeState rfl rfl rfl rfl rfl
      (fun k => by rw [claimsOn_of_other kind, claimsOn_of_other (j := j.parked) kind]) ok rfl rfl rfl rfl rfl
  change State.BooksOk (if ((((s.setSlot i (some j.parked)).setSeq .clear).releaseShuttle).line n).guardClosed then
    (((s.setSlot i (some j.parked)).setSeq .clear).releaseShuttle).clearParked n
    else (((s.setSlot i (some j.parked)).setSeq .clear).releaseShuttle).dispatch)
  generalize ((s.setSlot i (some j.parked)).setSeq .clear).releaseShuttle = t at books ⊢
  split
  · exact books.clearParked n
  · exact books.dispatch

theorem State.BooksOk.guardWaitExpiry (h : s.BooksOk) (exec : execGuardWaitExpiry s = .next t) : t.BooksOk := by
  unfold execGuardWaitExpiry at exec
  cases exec
  split
  · dsimp only
    have stopped : (s.setGuardWait .stopped).BooksOk := h.framed rfl rfl rfl rfl rfl
    split
    · next i j active =>
      split
      · next waits =>
        split
        · next load => exact stopped.parkActive active waits load
        · unfold State.guardOverdue
          dsimp only
          refine State.BooksOk.framed ((keeps_post _ _).books ?_) rfl rfl rfl rfl rfl
          exact stopped.resequenced rfl rfl
      · exact stopped
    · exact stopped
  · exact h

end Rows

end Sys2Proof.Machine

/-! PROOFS. The requests of the lathes keep the books (R7 to R18, R21, R111). -/
namespace Sys2Proof.Machine

open Sys2Proof

section Requests
variable {s t u : State} {i : Slot} {j j' : Job} {n : Lathe} {m : CancelMark}

theorem keeps_reply (s : State) (p : PortNo) (x : Msg) : Keeps s (s.reply p x) := keeps_of_frame rfl rfl rfl rfl rfl

/-! ### The lathe's DELIVER job cancelled (R111) -/

/-- The active job's cancel mark set. -/
theorem State.BooksOk.marked (h : s.BooksOk) (hj : s.job i = some j) (active : j.state = .active)
    (kind : j.kind = .deliver)
    (m : CancelMark) : (s.setSlot i (some { j with cancel := m })).BooksOk := by
  have own := h.plan.seq hj active
  have isActive := State.active_of_job own hj
  have here : (s.setSlot i (some { j with cancel := m })).job i = some { j with cancel := m } :=
    State.setSlot_job_self _ _ _
  have isActive' := State.active_of_job (s := s.setSlot i (some { j with cancel := m })) own here
  have like : j.Retouched { j with cancel := m } := ⟨rfl, rfl, .inl rfl, rfl, fun _ => rfl,
    fun rest => absurd active rest⟩
  have carries := h.carries own hj
  have ok : ({ j with cancel := m } : Job).ok := by
    obtain ⟨bar, parts, one, -, rest⟩ := carries.ok
    exact ⟨bar, parts, one, fun other => absurd kind other, rest⟩
  have count (x : Nat) := s.idCount_retouched (j' := { j with cancel := m }) hj rfl x
  refine State.booksOk_of_job (h.plan.retouch hj like) (State.idsOk_of_count h.ids count) own here
    ⟨ok, carries.load, carries.reserved⟩ ?_ ?_
  · obtain ⟨unissued, stepping, purpose, waits, homing, clear, free, present⟩ := h.step
    refine ⟨unissued, stepping, purpose, waits, homing, clear, free, fun k x found => ?_⟩
    rw [isActive'] at found
    cases found
    exact present i j isActive
  · obtain ⟨fault, home, reject, place⟩ := h.fault
    refine ⟨fault, home, reject, fun k x found => ?_⟩
    rw [isActive'] at found
    cases found
    exact place i j isActive

theorem State.BooksOk.cancelDeliver (h : s.BooksOk) (n : Lathe) (m : CancelMark) : (s.cancelDeliver n m).BooksOk := by
  unfold State.cancelDeliver
  split
  · exact h
  next i found =>
  obtain ⟨j, hj, -, kind⟩ := State.findJob_spec found
  rw [hj]
  dsimp only
  split
  · next active =>
    split
    · next load =>
      split
      · exact h.marked hj active kind m
      · next notOut => exact (h.parting (h.plan.seq hj active) hj load notOut).removeActive
    · split
      · exact h.marked hj active kind m
      · exact h
  · next rest => exact h.cancelIdle hj rest

/-! ### SETUP (R7 to R11) -/

/-- A SETUP declares at most an untracked bar, which has id 0. -/
theorem Account.install_idCount (a : Account) (x : SetupMsg) (sel : TickSel) (now : Time) {y : Nat} (nonzero : y ≠ 0) :
    (a.install x sel now).idCount y ≤ a.idCount y := by
  unfold Account.idCount
  refine Nat.add_le_add (Nat.le_refl _) ?_
  change ((declaredBar x (heldProgram x)).map (·.id)).toList.count y ≤ _
  unfold declaredBar
  cases x.remaining with
  | none => exact Nat.zero_le _
  | some r =>
    change [0].count y ≤ _
    rw [List.count_singleton, if_neg (by simpa using nonzero.symm)]
    exact Nat.zero_le _

theorem keeps_checkCradle (s : State) (n : Lathe) (g : Program) : Keeps s (s.checkCradle n g) := by
  unfold State.checkCradle
  split
  · split
    · exact keeps_request s n _
    · exact .refl s
  · exact .refl s

theorem keeps_checkTray (s : State) (n : Lathe) : Keeps s (s.checkTray n) := by
  unfold State.checkTray
  dsimp only
  refine Keeps.trans ?_ (keeps_checkThreshold _ n)
  split
  · exact (planning_evalBinBlock s _).keeps.trans (keeps_dispatch _)
  · exact .refl s

theorem State.BooksOk.acceptSetup (h : s.BooksOk) (n : Lathe) (x : SetupMsg) : (s.acceptSetup n x).BooksOk := by
  unfold State.acceptSetup
  dsimp only
  have installed : (s.setAccount n ((s.account n).install x s.timer.sel s.now)).BooksOk :=
    (keeps_setAccount fun y nonzero => (s.account n).install_idCount x s.timer.sel s.now nonzero).books h
  generalize s.setAccount n ((s.account n).install x s.timer.sel s.now) = a at installed ⊢
  have formed := (keeps_recompute _ n).books ((keeps_goTo a n
    ((s.account n).state.afterSetup x.remaining.isSome)).books installed)
  have fired := (keeps_fireIf _ n ((a.goTo n ((s.account n).state.afterSetup x.remaining.isSome)).recompute n).2).books
    (formed.cancelDeliver n .setup)
  exact (((keeps_checkCradle _ n _).trans (keeps_checkTray _ n)).trans (keeps_evalHold _ n)).books fired

theorem State.BooksOk.handleSetup (h : s.BooksOk) (n : Lathe) (x : SetupMsg) : (s.handleSetup n x).BooksOk := by
  unfold State.handleSetup
  split
  · exact (keeps_reply s _ _).books h
  · exact State.BooksOk.acceptSetup ((keeps_reply s _ _).books h) n x

/-! ### READY and LOADED (R13 to R15) -/

/-- The account's bar gone from the spindle, and the compare disarmed. -/
theorem keeps_dropBar {a : Account} (account : s.account n = a) (c : Compare) :
    Keeps s ((s.setAccount n a.dropBar).setCompare n c) := by
  refine Keeps.trans (t := s.setAccount n a.dropBar) (keeps_setAccount fun x _ => ?_)
    (keeps_of_frame rfl rfl rfl rfl rfl)
  rw [account]
  exact Nat.add_le_add_left (Nat.zero_le _) _

theorem keeps_endBar (s : State) (n : Lathe) : Keeps s (s.endBar n) := by
  unfold State.endBar
  dsimp only
  split
  · exact (keeps_post s _).trans (keeps_dropBar (State.post_account _ _ _) _)
  · exact keeps_dropBar rfl _

theorem keeps_handleReady (s : State) (n : Lathe) : Keeps s (s.handleReady n) := by
  unfold State.handleReady
  dsimp only
  have acked := keeps_reply s (lathePort n) (ackMsg (lathePort n) 0x22)
  split
  · exact ((acked.trans (keeps_endBar _ n)).trans (keeps_enterAwait _ n)).trans (keeps_evalHold _ n)
  · exact (acked.trans (keeps_enterAwait _ n)).trans (keeps_evalHold _ n)
  · exact acked
  · exact keeps_reply s _ _
  · exact keeps_reply s _ _
  · exact keeps_reply s _ _
  · split
    · refine acked.trans ((keeps_evalHold _ n).after ((keeps_enterAwait _ n).after ?_))
      exact keeps_setAccount_of_bars rfl rfl
    · exact keeps_reply s _ _

/-- A load's cradle bar goes into the spindle. -/
theorem Account.loadBar_idCount (a : Account) (now : Time) (x : Nat) : (a.loadBar now).idCount x ≤ a.idCount x := by
  unfold Account.loadBar
  cases cradle : a.cradle with
  | none => exact Nat.le_refl _
  | some c =>
    unfold Account.idCount
    rw [cradle]
    change 0 + [c.bar.id].count x ≤ [c.bar.id].count x + _
    omega

theorem keeps_completeLoad (s : State) (n : Lathe) : Keeps s (s.completeLoad n) := by
  unfold State.completeLoad
  dsimp only
  refine (keeps_evalHold _ n).after ((keeps_recomputeAndFire _ n).after ((keeps_goTo _ n _).after ?_))
  exact keeps_setAccount fun x _ => (s.account n).loadBar_idCount s.now x

theorem keeps_handleLoaded (s : State) (n : Lathe) : Keeps s (s.handleLoaded n) := by
  unfold State.handleLoaded
  dsimp only
  have acked := keeps_reply s (lathePort n) (ackMsg (lathePort n) 0x23)
  split
  · exact acked.trans (keeps_completeLoad _ n)
  · split
    · refine acked.trans ((keeps_completeLoad _ n).after ?_)
      exact keeps_setAccount_of_bars rfl rfl
    · exact keeps_reply s _ _
  · exact keeps_reply s _ _
  · exact keeps_reply s _ _
  · exact keeps_reply s _ _
  · exact keeps_reply s _ _
  · exact keeps_reply s _ _

/-! ### STOP, RESUME and STATUS (R17 to R19) -/

theorem State.BooksOk.stopLathe (h : s.BooksOk) (n : Lathe) (r : ResumeState) : (s.stopLathe n r).BooksOk := by
  unfold State.stopLathe
  dsimp only
  have stopped : Keeps s (((s.setAccount n { s.account n with resume := r }).goTo n .stopped).settleCompare n) := by
    refine (keeps_settleCompare _ n).after ((keeps_goTo _ n _).after ?_)
    exact keeps_setAccount_of_bars rfl rfl
  exact (keeps_evalHold _ n).books ((stopped.books h).cancelDeliver n .stop)

theorem State.BooksOk.handleStop (h : s.BooksOk) (n : Lathe) : (s.handleStop n).BooksOk := by
  have replied (x : Msg) : (s.reply (lathePort n) x).BooksOk := (keeps_reply s _ x).books h
  unfold State.handleStop
  dsimp only
  split
  · exact State.BooksOk.stopLathe (replied _) n _
  · exact State.BooksOk.stopLathe (replied _) n _
  · exact State.BooksOk.stopLathe (replied _) n _
  · exact replied _
  · exact replied _
  · exact replied _
  · exact replied _

theorem keeps_toResume (s : State) (n : Lathe) : Keeps s (s.toResume n) := by
  unfold State.toResume
  split
  · exact (keeps_goTo s n _).trans (keeps_recomputeAndFire _ n)
  · exact keeps_enterAwait s n
  · exact keeps_goTo s n _

theorem keeps_handleResume (s : State) (n : Lathe) : Keeps s (s.handleResume n) := by
  have replied (x : Msg) := keeps_reply s (lathePort n) x
  unfold State.handleResume
  dsimp only
  split
  · split
    · exact replied _
    · exact ((replied (ackMsg (lathePort n) 0x25)).trans (keeps_toResume _ n)).trans (keeps_evalHold _ n)
  · split
    · exact (((replied (ackMsg (lathePort n) 0x25)).trans (keeps_goTo _ n _)).trans (keeps_settleCompare _ n)).trans
        (keeps_evalHold _ n)
    · exact ((replied (ackMsg (lathePort n) 0x25)).trans (keeps_toResume _ n)).trans (keeps_evalHold _ n)
  · exact replied _
  · exact replied _
  · exact replied _
  · exact replied _
  · exact replied _

theorem State.BooksOk.handleLathe (h : s.BooksOk) (n : Lathe) (r : Request) : (s.handleLathe n r).BooksOk := by
  unfold State.handleLathe
  split
  · exact h.handleSetup n _
  · exact (keeps_handleReady s n).books h
  · exact (keeps_handleLoaded s n).books h
  · exact h.handleStop n
  · exact (keeps_handleResume s n).books h
  · exact (keeps_reply s _ _).books h
  · exact (keeps_reply s _ _).books h

/-! ### Breaks and the load timer (R16, R21) -/

theorem keeps_loseLathe (s : State) (n : Lathe) (r : ResumeState) : Keeps s (s.loseLathe n r) := by
  unfold State.loseLathe
  refine (keeps_goTo _ n _).after ?_
  exact keeps_setAccount_of_bars rfl rfl

theorem keeps_accountBreak (s : State) (n : Lathe) : Keeps s (s.accountBreak n) := by
  unfold State.accountBreak
  dsimp only
  refine (keeps_evalHold _ n).after
    ((keeps_post s (event .linkBreak (BitVec.ofNat 32 (s.account n).state.code) (lathe := some n))).trans ?_)
  generalize s.post (event .linkBreak (BitVec.ofNat 32 (s.account n).state.code) (lathe := some n)) = v
  unfold State.breakByState
  split
  · exact .refl v
  · exact keeps_loseLathe v n _
  · exact keeps_loseLathe v n _
  · unfold State.breakLoading
    refine (keeps_recomputeAndFire _ n).after ((keeps_loseLathe _ n _).after ?_)
    exact keeps_setAccount fun x _ => (v.account n).loadBar_idCount v.now x
  · exact keeps_loseLathe v n _
  · dsimp only
    split
    · exact (keeps_loseLathe v n _).trans (keeps_rearm _ n)
    · exact keeps_loseLathe v n _
  · exact .refl v

theorem keeps_loadTimeout (s : State) (n : Lathe) : Keeps s (s.loadTimeout n) := by
  unfold State.loadTimeout
  dsimp only
  refine (keeps_evalHold _ n).after ((keeps_goTo _ n _).after
    ((keeps_post _ _).after (keeps_setAccount_of_bars ?_ rfl)))
  cases (s.account n).cradle <;> rfl

/-! ### Cuts (R40, R55 to R57) -/

theorem keeps_cutToBar {g : Program} {c : CurrentBar} (current : (s.account n).current = some c) :
    Keeps s (s.cutToBar n g c) := by
  have counted (v : State) (account : v.account n = s.account n) :
      Keeps v (v.setAccount n ((s.account n).countCut g c s.now)) := by
    refine keeps_setAccount_of_bars ?_ ?_
    · rw [account]
      rfl
    · rw [account, current]
      rfl
  unfold State.cutToBar
  dsimp only
  split
  · exact (keeps_post s _).trans (counted _ (State.post_account _ _ _))
  · exact counted s rfl

theorem keeps_countTray (s : State) (n : Lathe) : Keeps s (s.setAccount n (s.account n).countTray) :=
  keeps_setAccount_of_bars rfl rfl

theorem keeps_takeCut (s : State) (n : Lathe) : Keeps s (s.takeCut n) := by
  have settled (v : State) : Keeps v (((v.recomputeAndFire n).checkThreshold n).evalHold n) :=
    ((keeps_recomputeAndFire v n).trans (keeps_checkThreshold _ n)).trans (keeps_evalHold _ n)
  unfold State.takeCut
  dsimp only
  split
  · exact .refl s
  next g _ =>
  by_cases counts : (s.account n).state.countsToBar = true
  · simp only [if_pos counts]
    refine (settled _).after ?_
    split
    · next current => exact (keeps_cutToBar current).trans (keeps_countTray _ n)
    · exact keeps_countTray s n
  · simp only [if_neg counts]
    exact (settled _).after ((keeps_post _ _).after (keeps_countTray s n))

end Requests

end Sys2Proof.Machine

/-! PROOFS. The supervisor's requests on the rack and the bins keep the books (R71 to R76, R87, R143 to R146). -/
namespace Sys2Proof.Machine

open Sys2Proof

section Rack
variable {s t u : State} {i : Slot} {j j' : Job} {n : Lathe} {k : LaneNo} {l : LaneRecord}

theorem keeps_refuseSup (s : State) (x : Byte) (c : RefusalCode) : Keeps s (s.refuseSup x c) := keeps_reply s _ _

theorem keeps_ackSup (s : State) (x : Byte) : Keeps s (s.ackSup x) := keeps_reply s _ _

theorem keeps_answer (s : State) (m : Msg) : Keeps s (s.answer m) := keeps_reply s _ m

/-- A request that names a record keeps the books if it does with a number in range. -/
theorem State.BooksOk.numbered {m : Nat} {kind number : Byte} {f : Fin m → State} (h : s.BooksOk)
    (inRange : ∀ k, (f k).BooksOk) : (s.numbered m kind number f).BooksOk := by
  unfold State.numbered
  split
  · exact inRange _
  · exact (keeps_refuseSup s kind _).books h

/-! ### Lanes (R71, R72, R75) -/

/-- A lane's record changed, with no bar but those it had, its claims still covered. -/
theorem planning_setLane (bars : l.bars.Sublist (s.lane k).bars) (claimed : l.claimed = (s.lane k).claimed)
    (reserved : l.reserved = (s.lane k).reserved)
    (covered : (s.lane k).claimed ≤ (s.lane k).bars.length → (s.lane k).claimed ≤ l.bars.length) :
    Planning s (s.setLane k l) where
  shuttle := rfl
  seq := rfl
  reject := rfl
  reserved m := by
    by_cases own : k = m
    · subst own
      rw [State.setLane_lane_self, reserved]
    · rw [State.setLane_lane_ne _ _ _ _ own]
  active i j hj _ := ⟨j.deadline, j.created, hj⟩
  ids x _ := by
    have count := s.idCount_setLane k l x
    have fewer : l.idCount x ≤ (s.lane k).idCount x := (bars.map _).count_le x
    omega
  plan h := by
    refine ⟨fun m => ?_, h.jobs, h.stack, h.fit⟩
    obtain ⟨room, cover, claims⟩ := h.lanes m
    by_cases own : k = m
    · subst own
      have shorter := bars.length_le
      rw [State.setLane_lane_self, reserved, claimed]
      exact ⟨by omega, covered cover, claims⟩
    · rw [State.setLane_lane_ne _ _ _ _ own]
      exact ⟨room, cover, claims⟩

/-- A lane's record changed in what the books do not speak of. -/
theorem keeps_relane (bars : l.bars = (s.lane k).bars) (claimed : l.claimed = (s.lane k).claimed)
    (reserved : l.reserved = (s.lane k).reserved) : Keeps s (s.setLane k l) :=
  (planning_setLane (bars ▸ .refl _) claimed reserved (bars ▸ id)).keeps

theorem State.BooksOk.laneAssign (h : s.BooksOk) (lane material diameter : Byte) :
    (s.handleLaneAssign lane material diameter).BooksOk := by
  unfold State.handleLaneAssign
  refine h.numbered fun k => ?_
  split
  · exact (keeps_refuseSup s _ _).books h
  · split
    · exact (keeps_refuseSup s _ _).books h
    · refine ((keeps_ackSup _ _).after ?_).books h
      exact keeps_relane rfl rfl rfl

theorem State.BooksOk.laneOpen (h : s.BooksOk) (lane : Byte) : (s.handleLaneOpen lane).BooksOk := by
  unfold State.handleLaneOpen
  refine h.numbered fun k => ?_
  split
  · exact (keeps_ackSup s _).books h
  · refine ((keeps_dispatch _).after ((planning_stockGain _ k).keeps.after ((keeps_ackSup _ _).after ?_))).books h
    exact keeps_relane rfl rfl rfl

theorem State.BooksOk.laneClose (h : s.BooksOk) (lane : Byte) : (s.handleLaneClose lane).BooksOk := by
  unfold State.handleLaneClose
  refine h.numbered fun k => ((keeps_ackSup _ _).after ?_).books h
  exact keeps_relane rfl rfl rfl

theorem State.BooksOk.laneRead (h : s.BooksOk) (lane position : Byte) : (s.handleLaneRead lane position).BooksOk := by
  unfold State.handleLaneRead
  refine h.numbered fun k => ?_
  split
  · exact (keeps_answer s _).books h
  · exact (keeps_refuseSup s _ _).books h

/-- The last bar of a lane with a bar not claimed taken out. -/
theorem keeps_dropLast (unclaimed : (s.lane k).available ≠ 0) :
    Keeps s (s.setLane k { s.lane k with bars := (s.lane k).bars.dropLast }) := by
  refine (planning_setLane (l := { s.lane k with bars := (s.lane k).bars.dropLast }) ?_ rfl rfl fun _ => ?_).keeps
  · exact List.dropLast_sublist _
  · have free : (s.lane k).bars.length - (s.lane k).claimed ≠ 0 := unclaimed
    change _ ≤ (s.lane k).bars.dropLast.length
    rw [List.length_dropLast]
    omega

theorem State.BooksOk.unstock (h : s.BooksOk) (lane : Byte) : (s.handleUnstock lane).BooksOk := by
  unfold State.handleUnstock
  refine h.numbered fun k => ?_
  split
  · exact (keeps_refuseSup s _ _).books h
  · split
    · exact (keeps_refuseSup s _ _).books h
    · next unclaimed =>
      exact ((keeps_answer _ _).after (keeps_dropLast unclaimed)).books h

/-! ### STOCK (R73, R74) -/

/-- A bar with an id of its own entered into a lane with room for it. -/
theorem State.BooksOk.entered (h : s.BooksOk) {b : BarRecord} (room : (s.lane k).bars.length + (s.lane k).reserved < 12)
    (free : s.idCount b.id = 0) (bars : l.bars = (s.lane k).bars ++ [b]) (claimed : l.claimed = (s.lane k).claimed)
    (reserved : l.reserved = (s.lane k).reserved) : (s.setLane k l).BooksOk := by
  obtain ⟨ids, lanes, jobs, stack, loads, step, fault⟩ := h
  refine ⟨?_, fun m => ?_, jobs, stack, loads, step, fault⟩
  · rw [State.idsOk_iff] at ids ⊢
    intro x nonzero
    have old := ids x nonzero
    have count := s.idCount_setLane k l x
    have joined : l.idCount x = (s.lane k).idCount x + [b.id].count x := by
      unfold LaneRecord.idCount
      rw [bars, List.map_append, List.count_append]
      rfl
    rw [joined, List.count_singleton] at count
    by_cases new : b.id = x
    · subst new
      rw [if_pos (beq_self_eq_true _)] at count
      omega
    · rw [if_neg (by simpa using new)] at count
      omega
  · change _ ∧ _ ∧ _ = (s.claimants m).length ∧ _ = s.reservedFor m
    have entry := lanes m
    by_cases own : k = m
    · subst own
      obtain ⟨-, covered, claims, holds⟩ := entry
      rw [State.setLane_lane_self, bars, claimed, reserved, List.length_append, List.length_singleton]
      exact ⟨by omega, by omega, claims, holds⟩
    · rw [State.setLane_lane_ne _ _ _ _ own]
      exact entry

/-- The last bar id issued is not in the books. -/
theorem State.BooksOk.lastBarId (h : s.BooksOk) (id : Nat) : (s.setRack { s.rack with lastBarId := id }).BooksOk := by
  obtain ⟨ids, lanes, jobs, stack, loads, step, fault⟩ := h
  exact ⟨ids, lanes, jobs, stack, loads, step, fault⟩

theorem State.BooksOk.stockBar (h : s.BooksOk) (room : (s.lane k).bars.length + (s.lane k).reserved < 12) (length : Nat)
    (lot : BitVec 16) : (s.stockBar k length lot).BooksOk := by
  have free : s.idCount s.nextBarId = 0 := State.idCount_of_free h.plan _
  unfold State.stockBar
  dsimp only
  generalize s.nextBarId = id at free ⊢
  exact (h.lastBarId id).entered (b := stockedBar k (s.lane k) id length lot) room free rfl rfl rfl

theorem keeps_ite {p : Prop} [Decidable p] (yes : Keeps s t) (no : Keeps s u) : Keeps s (if p then t else u) := by
  split
  · exact yes
  · exact no

theorem keeps_clearShort (s : State) (k : LaneNo) (n : Lathe) : Keeps s (s.clearShort k n) := by
  have cleared : Keeps s (s.setStockShort n false) := keeps_setAccount_of_bars rfl rfl
  have asks (fresh : Stamp) : Keeps (s.setStockShort n false)
      (((s.setStockShort n false).setAccount n
        { (s.setStockShort n false).account n with awaitEntry := fresh }).wantBar n) :=
    (keeps_wantBar _ n).after (keeps_setAccount_of_bars rfl rfl)
  unfold State.clearShort
  dsimp only
  exact keeps_ite (keeps_ite (cleared.trans (asks _)) (keeps_ite (cleared.trans (keeps_rearm _ n)) cleared)) (.refl s)

theorem State.BooksOk.stock (h : s.BooksOk) (lane : Byte) (length lot : BitVec 16) :
    (s.handleStock lane length lot).BooksOk := by
  unfold State.handleStock
  refine h.numbered fun k => ?_
  split
  · exact (keeps_refuseSup s _ _).books h
  split
  · exact (keeps_refuseSup s _ _).books h
  split
  · exact (keeps_refuseSup s _ _).books h
  · next notFull =>
    have entered := h.stockBar (Nat.lt_of_not_le notFull) length.toNat lot
    dsimp only
    refine (keeps_foldl _ (fun s n => keeps_clearShort s k n) _ _).books ?_
    exact ((keeps_dispatch _).after ((planning_stockGain _ k).keeps.after (keeps_answer _ _))).books entered

/-! ### The reject rack and the bins (R87, R143 to R146) -/

theorem State.BooksOk.endRejectWait (h : s.BooksOk) : s.endRejectWait.BooksOk := by
  unfold State.endRejectWait
  split
  · next waits =>
    cases own : s.seq.job with
    | none =>
      have unissued := h.step.1 own
      rw [waits] at unissued
      cases unissued
    | some i =>
      obtain ⟨j, hj, -⟩ := h.plan.active own
      exact (h.poised_of_wait (State.active_of_job own hj) (.inr (.inl waits))).takeUp
  · exact h

/-- The reject rack emptied. -/
theorem State.BooksOk.emptied (h : s.BooksOk) : (s.setRack { s.rack with reject := 0 }).BooksOk := by
  obtain ⟨ids, lanes, jobs, stack, loads, step, isFault, home, -, -⟩ := h
  exact ⟨ids, lanes, jobs, stack, loads, step, isFault, home, Nat.zero_le 20, fun _ _ _ _ _ => Nat.zero_lt_succ 19⟩

theorem State.BooksOk.rejectEmptied (h : s.BooksOk) : s.handleRejectEmptied.BooksOk :=
  ((keeps_ackSup _ _).books h.emptied).endRejectWait

theorem State.BooksOk.recheckDump (h : s.BooksOk) (b : BinNo) : (s.recheckDump b).BooksOk := by
  unfold State.recheckDump
  split
  · next active =>
    split
    · next waits =>
      simp only [Bool.and_eq_true, decide_eq_true_eq] at waits
      exact (h.poised_of_wait active (.inr (.inr waits.1.1))).takeUp
    · exact h
  · exact h

theorem State.BooksOk.changeBin (h : s.BooksOk) (b : BinNo) (x : Bin) : (s.changeBin b x).BooksOk := by
  have held : ((s.setBin b x).answer (binMsg b x)).BooksOk := h.framed rfl rfl rfl rfl rfl
  exact ((planning_evalBins _ b).keeps.trans (keeps_dispatch _)).books (held.recheckDump b)

theorem State.BooksOk.binSet (h : s.BooksOk) (bin : Byte) (capacity : BitVec 16) :
    (s.handleBinSet bin capacity).BooksOk :=
  h.numbered fun b => h.changeBin b _

theorem State.BooksOk.binClose (h : s.BooksOk) (bin : Byte) : (s.handleBinClose bin).BooksOk :=
  h.numbered fun b => h.changeBin b _

theorem State.BooksOk.binEmptied (h : s.BooksOk) (bin : Byte) : (s.handleBinEmptied bin).BooksOk :=
  h.numbered fun b => h.changeBin b _

end Rack

end Sys2Proof.Machine

/-! PROOFS. The supervisor's requests on the part, the schedule and the shuttle keep the books (R54, R115, R116, R162 to
R168, R180, R181, R186 to R198). -/
namespace Sys2Proof.Machine

open Sys2Proof

section Part
variable {s t u : State} {i : Slot} {j j' : Job} {n : Lathe} {k : LaneNo}

/-! ### Parameters, ticks, links, lathes and events (R54, R180 to R194) -/

theorem State.BooksOk.paramSet (h : s.BooksOk) (number : Byte) (value : BitVec 32) :
    (s.handleParamSet number value).BooksOk := by
  unfold State.handleParamSet
  split
  · exact (keeps_refuseSup s _ _).books h
  · dsimp only
    split <;> exact h.framed rfl rfl rfl rfl rfl

theorem State.BooksOk.paramGet (h : s.BooksOk) (number : Byte) : (s.handleParamGet number).BooksOk := by
  unfold State.handleParamGet
  split
  · exact (keeps_refuseSup s _ _).books h
  · exact (keeps_answer s _).books h

/-- An update of the accounts that puts no bar id in use, and of what the books do not speak of. -/
theorem planning_of_accounts (sched : t.sched = s.sched) (rack : t.rack = s.rack) (seq : t.seq = s.seq)
    (shuttle : t.shuttle = s.shuttle) (ids : ∀ n x, (t.account n).idCount x ≤ (s.account n).idCount x) :
    Planning s t where
  shuttle := shuttle
  seq := seq
  reject := congrArg Rack.reject rack
  reserved k := congrArg (fun x : Rack => (x.lanes.read k).reserved) rack
  active i j hj _ := ⟨j.deadline, j.created, (congrArg (fun x : Schedule => x.slots.read i) sched).trans hj⟩
  ids x _ := State.idCount_le_of (fun k => congrArg (fun x : Rack => (x.lanes.read k).bars) rack)
    (fun i => le_of_eq (congrArg (fun y : Schedule => slotIdCount x (y.slots.read i)) sched)) fun n => ids n x
  plan h := h.congr (congrArg Rack.lanes rack) sched (congrArg StepRecord.job seq)

theorem keeps_reselect (s : State) (sel : TickSel) : Keeps s (s.reselect sel) := by
  refine (planning_of_accounts (s := s) (t := s.reselect sel) rfl rfl rfl rfl fun n x => le_of_eq ?_).keeps
  have account : (s.reselect sel).account n = { s.account n with loadTimer := .stopped } := Bank.read_each _ _ _
  rw [account]
  rfl

theorem State.BooksOk.tickSet (h : s.BooksOk) (ms : Byte) : (s.handleTickSet ms).BooksOk := by
  unfold State.handleTickSet
  split
  · exact (keeps_refuseSup s _ _).books h
  split
  · exact (keeps_ackSup s _).books h
  split
  · exact (keeps_refuseSup s _ _).books h
  · exact ((keeps_reselect s _).trans (keeps_ackSup _ _)).books h

theorem State.BooksOk.linkSet (h : s.BooksOk) (port rate parity : Byte) :
    (s.handleLinkSet port rate parity).BooksOk := by
  unfold State.handleLinkSet
  refine h.numbered fun p => ?_
  split
  · exact (keeps_refuseSup s _ _).books h
  · exact h.framed rfl rfl rfl rfl rfl

theorem State.BooksOk.linkRead (h : s.BooksOk) (port : Byte) : (s.handleLinkRead port).BooksOk :=
  h.numbered fun _ => h.framed rfl rfl rfl rfl rfl

theorem State.BooksOk.latheRead (h : s.BooksOk) (lathe : Byte) (hsense : BitVec 12) :
    (s.handleLatheRead lathe hsense).BooksOk := h.numbered fun _ => (keeps_answer s _).books h

theorem keeps_supervise (s : State) (n : Lathe) (v : Bool) : Keeps s (s.supervise n v) :=
  (keeps_evalHold _ n).after (keeps_setAccount_of_bars rfl rfl)

theorem State.BooksOk.latheHold (h : s.BooksOk) (lathe : Byte) : (s.handleLatheHold lathe).BooksOk :=
  h.numbered fun n => ((keeps_ackSup s _).trans (keeps_supervise _ n _)).books h

theorem State.BooksOk.latheRelease (h : s.BooksOk) (lathe : Byte) : (s.handleLatheRelease lathe).BooksOk :=
  h.numbered fun n => ((keeps_ackSup s _).trans (keeps_supervise _ n _)).books h

theorem State.BooksOk.handleEvents (h : s.BooksOk) : s.handleEvents.BooksOk := h.framed rfl rfl rfl rfl rfl

theorem State.BooksOk.handlePeek (h : s.BooksOk) : s.handlePeek.BooksOk := (keeps_answer s _).books h

theorem State.BooksOk.handleIdent (h : s.BooksOk) : s.handleIdent.BooksOk := (keeps_answer s _).books h

/-! ### The bare shuttle -/

/-- The books with the shuttle free, unissued and in a state that needs no job. -/
theorem State.Free.books (h : s.Free) (phase : s.seq.phase = .unissued)
    (state : s.shuttle.state = .idle ∨ s.shuttle.state = .halted ∨ s.shuttle.state = .unhomed) : s.BooksOk := by
  have out := h.outstanding
  have active := State.active_of_none h.seq
  refine State.booksOk_of_none h.plan h.ids h.seq h.load h.reserved ?_ ?_
  · refine ⟨fun _ => phase, ?_, ?_, ?_, ?_, ?_, fun _ => h.seq, fun m x isActive => ?_⟩
    · rcases state with state | state | state <;> simp [state, phase]
    · rcases state with state | state | state <;> simp [state, out]
    · rcases state with state | state | state <;> simp [state, phase]
    · rcases state with state | state | state <;> simp [state, out]
    · simp [out]
    · rw [active] at isActive
      cases isActive
  · refine ⟨iff_of_false h.state (by simp [h.fault]), by simp [h.homeFailed], h.reject, fun m x isActive => ?_⟩
    rw [active] at isActive
    cases isActive

/-- The free shuttle in another state that needs no job. -/
theorem State.Free.reshuttled (h : s.Free) (phase : s.seq.phase = .unissued) {sh : Shuttle}
    (load : sh.load = s.shuttle.load)
    (out : sh.outstanding = s.shuttle.outstanding) (fault : sh.fault = s.shuttle.fault)
    (failed : sh.homeFailed = s.shuttle.homeFailed) (state : sh.state = .idle ∨ sh.state = .halted) :
    (s.setShuttle sh).BooksOk := by
  refine State.Free.books (s := s.setShuttle sh) ⟨h.plan.congr rfl rfl rfl, State.idsOk_congr h.ids rfl rfl rfl, h.seq,
    load.trans h.load, h.reserved, out.trans h.outstanding, fault.trans h.fault, failed.trans h.homeFailed, ?_,
      h.reject⟩
    phase (state.imp_right .inl)
  rw [State.setShuttle_shuttle]
  rcases state with state | state <;> rw [state] <;> decide

/-! ### RESTART (R197, R198) -/

theorem Account.restarted_idCount (a : Account) (x : Nat) : a.restarted.idCount x ≤ a.idCount x := by
  unfold Account.idCount
  have cradle : a.restarted.cradle.map (·.bar.id) = a.cradle.map (·.bar.id) := by
    unfold Account.restarted
    cases a.cradle <;> rfl
  rw [cradle]
  exact Nat.add_le_add_left (Nat.zero_le _) _

/-- After steps 1 to 4 of R198 there is no job, no claim and no order, and the bars are where they were. -/
theorem State.BooksOk.restartBlocks (h : s.BooksOk) : s.restartBlocks.BooksOk := by
  have lane (k : LaneNo) : s.restartBlocks.lane k = { s.lane k with claimed := 0, reserved := 0 } :=
    Bank.read_each _ _ _
  have account (n : Lathe) : s.restartBlocks.account n = (s.account n).restarted := Bank.read_each _ _ _
  have job (i : Slot) : s.restartBlocks.job i = none := Bank.read_fill _ _
  have shuttle : s.restartBlocks.shuttle = s.shuttle.restarted := rfl
  have sched : s.restartBlocks.sched = s.sched.restarted := rfl
  have seq : s.restartBlocks.seq = .clear := rfl
  have reject : s.restartBlocks.rack.reject = s.rack.reject := rfl
  generalize s.restartBlocks = t at *
  have standing (i : Slot) : t.standing i = none := by
    rw [State.standing, job]
    rfl
  have plan : t.Planned := by
    refine ⟨fun k => ?_, (State.jobsOk_iff t).2 ⟨fun i j hj => ?_, ?_⟩, (State.stackOk_iff t).2
      ⟨fun i => ?_, fun i => ?_, ?_⟩,
      fun i j hj => ?_⟩
    · obtain ⟨room, -⟩ := h.plan.lanes k
      rw [lane]
      refine ⟨by dsimp only; omega, Nat.zero_le _, ?_⟩
      unfold State.claimCount
      simp [job, claimsOn]
    · rw [job] at hj
      cases hj
    · rw [sched]
      exact List.nodup_nil
    · rw [standing, seq]
      simp [StepRecord.clear]
    · rw [standing, sched]
      simp [Schedule.restarted, Schedule.powerOn]
    · rw [sched]
      exact ⟨List.nodup_nil, Nat.zero_le 2⟩
    · rw [job] at hj
      cases hj
  have ids : t.idsOk := by
    have ids := h.ids
    rw [State.idsOk_iff] at ids ⊢
    refine fun x nonzero => (State.idCount_le_of (fun k => by rw [lane]) (fun i => ?_) fun n => ?_).trans
      (ids x nonzero)
    · rw [job]
      exact Nat.zero_le _
    · rw [account]
      exact (s.account n).restarted_idCount x
  have state : t.shuttle.state = .halted ∨ t.shuttle.state = .unhomed := by
    rw [shuttle, Shuttle.restarted]
    by_cases unhomed : s.shuttle.state = .unhomed
    · exact .inr (if_pos unhomed)
    · exact .inl (if_neg unhomed)
  refine State.Free.books ⟨plan, ids, by rw [seq]; rfl, by rw [shuttle]; rfl, fun k => by rw [lane k],
    by rw [shuttle]; rfl,
    by rw [shuttle]; rfl, by rw [shuttle]; rfl, ?_, reject ▸ h.reject⟩ (by rw [seq]; rfl) (.inr state)
  rcases state with state | state <;> rw [state] <;> decide

theorem keeps_restartEvents (s : State) : Keeps s s.restartEvents := by
  unfold State.restartEvents
  refine (keeps_post _ _).after ?_
  exact keeps_of_frame rfl rfl rfl rfl rfl

theorem State.BooksOk.handleRestart (h : s.BooksOk) : s.handleRestart.BooksOk := by
  unfold State.handleRestart
  split
  · have evaluated := (keeps_foldl _ keeps_evalHold (List.finRange 12) _).books h.restartBlocks
    unfold State.warmRestart
    generalize (List.finRange 12).foldl _ s.restartBlocks = v at evaluated ⊢
    exact ((keeps_restartEvents v).trans (keeps_ackSup _ _)).books evaluated
  · exact (keeps_refuseSup s _ _).books h

/-! ### Jobs (R115, R116, R167) -/

theorem State.BooksOk.jobRead (h : s.BooksOk) (slot : Byte) : (s.handleJobRead slot).BooksOk :=
  h.numbered fun _ => (keeps_answer s _).books h

/-- In FAULT and in HALTED the step is unissued. -/
theorem State.BooksOk.unissued (h : s.BooksOk) (state : s.shuttle.state = .fault ∨ s.shuttle.state = .halted) :
    s.seq.phase = .unissued := by
  obtain ⟨-, stepping, -, waits, -⟩ := h.step
  have notStepping : s.shuttle.state ≠ .stepping := by rcases state with state | state <;> rw [state] <;> decide
  have notWaiting : s.shuttle.state ≠ .waiting := by rcases state with state | state <;> rw [state] <;> decide
  cases phase : s.seq.phase with
  | unissued => rfl
  | outstanding => exact absurd (stepping.2 phase) notStepping
  | guardPending => exact absurd (waits.2 (.inl phase)) notWaiting
  | rejectWait => exact absurd (waits.2 (.inr (.inl phase))) notWaiting
  | dumpWait => exact absurd (waits.2 (.inr (.inr phase))) notWaiting

/-- The active DELIVER job with a bar becomes a RETURN while its step is unissued (R114, R167). -/
theorem State.BooksOk.convertToReturn (h : s.BooksOk) (own : s.seq.job = some i) (hj : s.job i = some j)
    (kind : j.kind = .deliver) (load : s.shuttle.load = .bar) (unissued : s.seq.phase = .unissued) :
    (s.convertToReturn i).BooksOk := by
  have carries := h.carries own hj
  have carried := carries.load.symm.trans load
  obtain ⟨x, hx, active⟩ := h.plan.active own
  rw [hj] at hx
  cases hx
  have done := State.convertToReturn_spec h.plan hj active carries.ok kind carried (carries.reserved_of_deliver kind)
  obtain ⟨j', hj', -, carries'⟩ := done.carries carries carried active
  generalize s.convertToReturn i = t at done hj' carries' ⊢
  have phase := done.phase.trans unissued
  have step : t.stepOk := by
    obtain ⟨-, stepping, purpose, waits, homing, clear, free, -⟩ := h.step
    rw [← done.phase] at stepping waits
    rw [← done.seq] at free
    rw [← done.shuttle] at stepping purpose waits homing clear free
    refine ⟨fun _ => phase, stepping, purpose, waits, homing, clear, free, fun m x _ =>
      ⟨fun pending => ?_, fun o out why => ?_⟩⟩
    · rw [phase] at pending
      cases pending
    · have issued := stepping.1 (purpose.2 ⟨o, out, why⟩)
      rw [phase] at issued
      cases issued
  have fault : t.faultOk := by
    obtain ⟨fault, home, reject, -⟩ := h.fault
    rw [← done.seq] at home
    rw [← done.shuttle] at fault home
    refine ⟨fault, home, done.reject ▸ reject, fun m x _ issued => ?_⟩
    rw [phase] at issued
    cases issued
  exact State.booksOk_of_job done.plan (State.idsOk_of_count h.ids done.ids)
    (done.seq.trans own) hj' carries' step fault

theorem State.BooksOk.cancelActive (h : s.BooksOk) (hj : s.job i = some j) (active : j.state = .active) :
    (s.cancelActive i j).BooksOk := by
  have own := h.plan.seq hj active
  have acked : (s.ackSup 0x73).BooksOk := (keeps_ackSup s _).books h
  unfold State.cancelActive
  split
  · exact (keeps_refuseSup s _ _).books h
  next stands =>
  have state : s.shuttle.state = .fault ∨ s.shuttle.state = .halted := by
    simpa [or_iff_not_imp_left] using stands
  have unissued := h.unissued state
  have notOut : (s.ackSup 0x73).seq.phase ≠ .outstanding := fun out => by
    have both := unissued.symm.trans out
    cases both
  split
  · next load => exact (acked.parting own hj load notOut).removeActive
  · next load kind => exact acked.convertToReturn own hj kind load unissued
  · exact (keeps_refuseSup s _ _).books h

theorem State.BooksOk.jobCancel (h : s.BooksOk) (job : Byte) : (s.handleJobCancel job).BooksOk := by
  have acked : (s.ackSup 0x73).BooksOk := (keeps_ackSup s _).books h
  unfold State.handleJobCancel
  split
  · exact (keeps_refuseSup s _ _).books h
  split
  · exact (keeps_refuseSup s _ _).books h
  split
  · exact (keeps_refuseSup s _ _).books h
  · next j hj =>
    split
    · next active => exact h.cancelActive hj active
    · next waiting => exact acked.cancelIdle hj (by rw [waiting]; decide)
    · next suspended => exact acked.cancelIdle hj (by rw [suspended]; decide)

/-! ### The shuttle (R162 to R165) -/

theorem State.BooksOk.shuttleReply (h : s.BooksOk) : s.shuttleReply.BooksOk := (keeps_answer s _).books h

/-- With no job on the shuttle, every order that fails or ends leaves it bare. -/
theorem State.BooksOk.struck_of_none (h : s.BooksOk) (none : s.seq.job = none) (o : OutOrder) : s.Struck o where
  plan := h.plan
  ids := h.ids
  reject := h.reject
  carries i j own := by
    rw [none] at own
    cases own
  bare _ := ⟨h.load_of_none none, h.reserved_of_none none, h.step.1 none⟩
  home _ := none
  clear _ := h.step.1 none
  failed _ := none

theorem State.BooksOk.leaveHalt (h : s.BooksOk) (halted : s.shuttle.state = .halted) : s.leaveHalt.BooksOk := by
  have unissued := h.unissued (.inr halted)
  unfold State.leaveHalt
  cases own : s.seq.job with
  | none =>
    rw [State.active_of_none own]
    refine State.BooksOk.dispatch ?_
    exact (h.free (.inr halted) own).reshuttled unissued rfl rfl rfl rfl (.inl rfl)
  | some i =>
    obtain ⟨j, hj, -⟩ := h.plan.active own
    have poised := h.poised own hj (by rw [unissued]; decide) (by rw [halted]; decide)
    rw [State.active_of_job own hj]
    rw [if_pos Option.isSome_some]
    split
    · exact poised.crossBoundary
    · exact poised.takeUp

theorem State.BooksOk.handleShuttleRun (h : s.BooksOk) : s.handleShuttleRun.BooksOk := by
  have withdrawn : (s.setShuttle { s.shuttle with haltPending := false }).BooksOk := h.reshuttled rfl rfl rfl rfl rfl
  unfold State.handleShuttleRun
  split
  · next unhomed =>
    obtain ⟨-, -, -, -, -, -, free, -⟩ := h.step
    have none := free (.inl unhomed)
    refine State.BooksOk.shuttleReply ?_
    exact (h.struck_of_none none ⟨.home, some .home, .fast, .home⟩).homes none (h.noFault (by rw [unhomed]; decide)) _
  · next halted => exact (h.leaveHalt halted).shuttleReply
  · exact (keeps_refuseSup s _ _).books h
  · exact withdrawn.shuttleReply
  · exact withdrawn.shuttleReply
  · exact withdrawn.shuttleReply
  · exact withdrawn.shuttleReply

theorem State.BooksOk.haltWait (h : s.BooksOk) (waiting : s.shuttle.state = .waiting) : s.haltWait.BooksOk := by
  obtain ⟨unissued, -, -, waits, -⟩ := h.step
  have wait := waits.1 waiting
  cases own : s.seq.job with
  | none =>
    rw [unissued own] at wait
    rcases wait with wait | wait | wait <;> cases wait
  | some i =>
    obtain ⟨j, hj, -⟩ := h.plan.active own
    have poised := h.poised_of_wait (State.active_of_job own hj) wait
    refine State.Poised.books_halted (i := i) (j := j) ?_ rfl rfl
    exact poised.congr rfl rfl rfl rfl rfl rfl rfl rfl fun e => (nomatch e)

theorem State.BooksOk.handleShuttleHalt (h : s.BooksOk) : s.handleShuttleHalt.BooksOk := by
  have pending : (s.setShuttle { s.shuttle with haltPending := true }).BooksOk := h.reshuttled rfl rfl rfl rfl rfl
  unfold State.handleShuttleHalt
  split
  · next idle =>
    obtain ⟨unissued, -, -, -, -, -, free, -⟩ := h.step
    have none := free (.inr (.inr idle))
    refine State.BooksOk.shuttleReply ?_
    exact (h.free (.inl idle) none).reshuttled (unissued none) rfl rfl rfl rfl (.inr rfl)
  · next waiting => exact (h.haltWait waiting).shuttleReply
  · exact pending.shuttleReply
  · exact pending.shuttleReply
  · exact pending.shuttleReply
  · exact h.shuttleReply
  · exact h.shuttleReply

/-- CLEAR goes out in FAULT (R165). -/
theorem State.BooksOk.issueClear (h : s.BooksOk) (inFault : s.shuttle.state = .fault) (target : Option Station)
    (sp : Speed) :
    (s.issue .clear target sp .clear).BooksOk := by
  have phase := h.unissued (.inl inFault)
  obtain ⟨ids, lanes, jobs, stack, loads, step, fault⟩ := h
  refine ⟨ids, lanes, jobs, stack, loads, ?_, fault⟩
  have state : (s.issue .clear target sp .clear).shuttle.state = .fault := inFault
  have out : (s.issue .clear target sp .clear).shuttle.outstanding = some ⟨.clear, target, sp, .clear⟩ := rfl
  have phase' : (s.issue .clear target sp .clear).seq.phase = .unissued := phase
  refine ⟨fun _ => phase', ?_, ?_, ?_, ?_, fun _ _ _ => state, ?_, fun m x _ => ⟨?_, ?_⟩⟩ <;> simp [state, out, phase']

theorem State.BooksOk.handleShuttleClear (h : s.BooksOk) : s.handleShuttleClear.BooksOk := by
  unfold State.handleShuttleClear
  split
  · next inFault =>
    refine State.BooksOk.shuttleReply ?_
    split
    · exact h
    · exact h.issueClear inFault _ _
  · exact (keeps_refuseSup s _ _).books h

end Part

end Sys2Proof.Machine

/-! PROOFS. Every step keeps the books of the rack, the schedule and the shuttle, and the id allocators issue free ids
(R68, R89). -/
namespace Sys2Proof.Machine

open Sys2Proof

section Steps
variable {s t : State} {n : Lathe} {e : State}

/-! ### The decoder (R177, R178) -/

theorem State.BooksOk.taken (h : s.BooksOk) {p : PortNo} {f : State → State} (handles : (f s).BooksOk) :
    (s.taken p f).BooksOk := by
  unfold State.taken
  split
  · exact h
  · exact handles

theorem State.BooksOk.handleSup (h : s.BooksOk) (hsense : BitVec 12) (r : Request) :
    (s.handleSup hsense r).BooksOk := by
  have refused (x : Byte) : (s.refuseSup x .badField).BooksOk := (keeps_refuseSup s x _).books h
  cases r with
  | paramSet k v => exact h.paramSet k v
  | paramGet k => exact h.paramGet k
  | tickSet ms => exact h.tickSet ms
  | linkSet p rate parity => exact h.linkSet p rate parity
  | linkRead p => exact h.linkRead p
  | laneAssign k m d => exact h.laneAssign k m d
  | laneOpen k => exact h.laneOpen k
  | laneClose k => exact h.laneClose k
  | laneRead k i => exact h.laneRead k i
  | stock k l b => exact h.stock k l b
  | unstock k => exact h.unstock k
  | rejectEmptied => exact h.rejectEmptied
  | binSet b c => exact h.binSet b c
  | binClose b => exact h.binClose b
  | binEmptied b => exact h.binEmptied b
  | latheRead n => exact h.latheRead n hsense
  | latheHold n => exact h.latheHold n
  | latheRelease n => exact h.latheRelease n
  | jobRead i => exact h.jobRead i
  | jobCancel j => exact h.jobCancel j
  | shuttleRun => exact h.handleShuttleRun
  | shuttleHalt => exact h.handleShuttleHalt
  | shuttleClear => exact h.handleShuttleClear
  | events => exact h.handleEvents
  | peek => exact h.handlePeek
  | restart => exact h.handleRestart
  | ident => exact h.handleIdent
  | _ => exact refused _

theorem State.BooksOk.handleMessage (h : s.BooksOk) (p : PortNo) (hsense : BitVec 12) (bytes : List Byte) :
    (s.handleMessage p hsense bytes).BooksOk := by
  unfold State.handleMessage
  split
  · exact (keeps_reply s p _).books h
  · split
    · exact h.handleLathe _ _
    · exact h.handleSup hsense _

/-- The books of the one state that an outcome answers. -/
theorem State.BooksOk.of_next (run : (.next e : Host.Outcome State Fault Refusal) = .next t) (h : e.BooksOk) :
    t.BooksOk := Host.Outcome.next.inj run ▸ h

theorem State.BooksOk.requestTake (h : s.BooksOk) {hsense : BitVec 12} (run : execRequestTake hsense s = .next t) :
    t.BooksOk := by
  refine .of_next run ?_
  split
  · exact h
  split
  · exact h
  · refine State.BooksOk.handleMessage ?_ _ _ _
    exact h.framed rfl rfl rfl rfl rfl

/-! ### The ports, the lines and the timers (R16, R21, R55, R172 to R183) -/

theorem State.BooksOk.setPort (h : s.BooksOk) (p : PortNo) (q : Port) : (s.setPort p q).BooksOk :=
  h.framed rfl rfl rfl rfl rfl

theorem State.BooksOk.lineIdleLimit (h : s.BooksOk) {p : PortNo} (run : execLineIdleLimit p s = .next t) :
    t.BooksOk := by
  refine .of_next run ?_
  split
  · exact h.setPort p _
  · exact h

theorem State.BooksOk.linkBreak (h : s.BooksOk) {p : PortNo} (run : execLinkBreak p s = .next t) : t.BooksOk := by
  refine .of_next run ?_
  split
  · exact h
  · dsimp only
    split
    · exact (keeps_accountBreak _ _).books (h.setPort p _)
    · exact h.setPort p _

theorem State.BooksOk.breakEnd (h : s.BooksOk) {p : PortNo} (run : execBreakEnd p s = .next t) : t.BooksOk := by
  refine .of_next run ?_
  split
  · exact h.setPort p _
  · exact h

theorem State.BooksOk.transmitStart (h : s.BooksOk) {p : PortNo} (run : execTransmitStart p s = .next t) :
    t.BooksOk := by
  refine .of_next run ?_
  split
  · split
    · exact h
    · exact h.setPort p _
  · exact h

theorem State.BooksOk.transmitDone (h : s.BooksOk) {p : PortNo} (run : execTransmitDone p s = .next t) : t.BooksOk := by
  refine .of_next run ?_
  split
  · exact h
  · split
    · exact h.setPort p _
    · exact h.setPort p _

theorem State.BooksOk.restartBreakSend (h : s.BooksOk) {p : PortNo} (run : execRestartBreakSend p s = .next t) :
    t.BooksOk := by
  refine .of_next run ?_
  split
  · exact h.setPort p _
  · exact h

theorem State.BooksOk.restartBreakEnd (h : s.BooksOk) {p : PortNo} (run : execRestartBreakEnd p s = .next t) :
    t.BooksOk := by
  refine .of_next run ?_
  split
  · exact h.setPort p _
  · exact h

theorem State.BooksOk.loadTimerExpiry (h : s.BooksOk) (run : execLoadTimerExpiry n s = .next t) : t.BooksOk := by
  have stopped : Keeps s (s.setAccount n { s.account n with loadTimer := .stopped }) := keeps_setAccount_of_bars rfl rfl
  refine .of_next run ?_
  split
  · exact (keeps_ite (stopped.trans (keeps_loadTimeout _ n)) stopped).books h
  · exact h

theorem State.BooksOk.cutEdge (h : s.BooksOk) {edge : Edge} (run : execCutEdge n edge s = .next t) : t.BooksOk := by
  have seen : Keeps s (s.seeCut n edge) := keeps_of_frame rfl rfl rfl rfl rfl
  have accepted : Keeps (s.seeCut n edge) ((s.seeCut n edge).acceptCut n) := by
    unfold State.acceptCut
    refine (keeps_takeCut _ n).after ?_
    exact keeps_of_frame rfl rfl rfl rfl rfl
  refine .of_next run ?_
  split
  · exact (keeps_ite (seen.trans accepted) seen).books h
  · exact seen.books h

/-! ### Every step -/

theorem books_exec (h : s.BooksOk) (c : Instr) (run : exec c s = .next t) : t.BooksOk := by
  cases c with
  | powerOnReset => exact .of_next run (reset_booksOk.framed rfl rfl rfl rfl rfl)
  | hallTick guards hsense shin => exact h.hallTick run
  | noAnswerFault => exact h.noAnswerFault run
  | deliveryCompareFire n => exact .of_next run ((keeps_testCompare s n).books h)
  | loadTimerExpiry n => exact h.loadTimerExpiry run
  | guardWaitExpiry => exact h.guardWaitExpiry run
  | stepTimerExpiry => exact h.stepTimerExpiry run
  | cutEdge n edge => exact h.cutEdge run
  | messageComplete p c => exact .of_next run (h.setPort p _)
  | messageTruncated p c => exact .of_next run (h.setPort p _)
  | characterError p e c => exact .of_next run (h.setPort p _)
  | lineIdleLimit p => exact h.lineIdleLimit run
  | linkBreak p => exact h.linkBreak run
  | breakEnd p => exact h.breakEnd run
  | requestTake hsense => exact h.requestTake run
  | transmitStart p => exact h.transmitStart run
  | transmitDone p => exact h.transmitDone run
  | restartBreakSend p => exact h.restartBreakSend run
  | setup n m => exact .of_next run (h.taken (h.handleSetup n m))
  | ready n => exact .of_next run (h.taken ((keeps_handleReady s n).books h))
  | loaded n => exact .of_next run (h.taken ((keeps_handleLoaded s n).books h))
  | stop n => exact .of_next run (h.taken (h.handleStop n))
  | resume n => exact .of_next run (h.taken ((keeps_handleResume s n).books h))
  | status n => exact .of_next run (h.taken ((keeps_reply s _ _).books h))
  | paramSet number value => exact .of_next run (h.taken (h.paramSet number value))
  | paramGet number => exact .of_next run (h.taken (h.paramGet number))
  | tickSet ms => exact .of_next run (h.taken (h.tickSet ms))
  | linkSet port rate parity => exact .of_next run (h.taken (h.linkSet port rate parity))
  | linkRead port => exact .of_next run (h.taken (h.linkRead port))
  | laneAssign lane material diameter => exact .of_next run (h.taken (h.laneAssign lane material diameter))
  | laneOpen lane => exact .of_next run (h.taken (h.laneOpen lane))
  | laneClose lane => exact .of_next run (h.taken (h.laneClose lane))
  | laneRead lane position => exact .of_next run (h.taken (h.laneRead lane position))
  | stock lane length lot => exact .of_next run (h.taken (h.stock lane length lot))
  | unstock lane => exact .of_next run (h.taken (h.unstock lane))
  | rejectEmptied => exact .of_next run (h.taken h.rejectEmptied)
  | binSet bin capacity => exact .of_next run (h.taken (h.binSet bin capacity))
  | binClose bin => exact .of_next run (h.taken (h.binClose bin))
  | binEmptied bin => exact .of_next run (h.taken (h.binEmptied bin))
  | latheRead lathe hsense => exact .of_next run (h.taken (h.latheRead lathe hsense))
  | latheHold lathe => exact .of_next run (h.taken (h.latheHold lathe))
  | latheRelease lathe => exact .of_next run (h.taken (h.latheRelease lathe))
  | jobRead slot => exact .of_next run (h.taken (h.jobRead slot))
  | jobCancel job => exact .of_next run (h.taken (h.jobCancel job))
  | shuttleRun => exact .of_next run (h.taken h.handleShuttleRun)
  | shuttleHalt => exact .of_next run (h.taken h.handleShuttleHalt)
  | shuttleClear => exact .of_next run (h.taken h.handleShuttleClear)
  | events => exact .of_next run (h.taken h.handleEvents)
  | peek => exact .of_next run (h.taken h.handlePeek)
  | restart => exact .of_next run (h.taken h.handleRestart)
  | ident => exact .of_next run (h.taken h.handleIdent)
  | orderComplete => exact h.orderComplete run
  | clearComplete => exact h.clearComplete run
  | messageBegun p c => exact .of_next run (h.setPort p _)
  | dataCharacter p c => exact .of_next run (h.setPort p _)
  | restartBreakEnd p => exact h.restartBreakEnd run

theorem books_step (h : s.BooksOk) (run : step s = .next t) : t.BooksOk := by
  unfold step at run
  split at run
  · exact .of_next run (h.framed rfl rfl rfl rfl rfl)
  · next c rest _ =>
    have waiting : (s.setPending rest).BooksOk := h.framed rfl rfl rfl rfl rfl
    exact books_exec waiting c run

end Steps

/-- Settles O13: each allocator's search finds the first free id, for there are fewer ids in use than ids; and each step
keeps the books, by what its row does to the job on the shuttle and to the plan of the others. -/
theorem allocatorsIssueFreeIds : Obligations.AllocatorsIssueFreeIds :=
  ⟨fun _ => ⟨fun last => ⟨fun _ _ hj => State.nextJobId_free hj, State.nextJobId_spec last⟩,
    fun last few => State.nextBarId_spec last few⟩, fun _ _ books run => books_step books run⟩

end Sys2Proof.Machine
